-- ==== Sys2Proof/Word.lean ====
section
/-! DEFINITION. The word types of the KG4 model and nothing else: a byte, the register word, a module burst,
a FP32 pattern, a digest. Bit-field, byte-order and sign helpers stand in Sys2Proof/Machine/Ops.lean. -/

namespace Sys2Proof

/-- One byte. -/
abbrev Byte := BitVec 8
/-- A BAR0 register (R351: every register is 64 bits). -/
abbrev Word := BitVec 64
/-- A stored burst of 288 bits, Table 03-1 (R43). -/
abbrev Burst := BitVec 288
/-- An IEEE 754 binary32 pattern. -/
abbrev F32 := BitVec 32
/-- A 64-byte SHAKE256 output (R341). -/
abbrev Digest := BitVec 512
/-- A tor index of 13 bits (R13). -/
abbrev TorIdx := BitVec 13
/-- A context number 0 … 7. -/
abbrev CtxIdx := BitVec 3

end Sys2Proof
end

