-- ==== Sys2Proof/Syntax.lean ====
section
/-! DEFINITION. The commands of the block: one constructor of `Instr` for each of the 196 rows of
spec/opcode_table.json, in the table's order. The table gives no operand fields; each command's operands are what
the rule named in its row says the command, the tor instruction word, the packet or the measured event carries. -/

namespace Sys2Proof

/-- Who writes a register (R355). -/
inductive Requester where
  | host | firmware
  deriving DecidableEq, Repr, Inhabited

/-- The internal rails of Table 18-5 (R366). -/
inductive Rail where
  | vcore (die : BitVec 3) | vphy | vmemD | vmemQ | vmem1 | vopt | vaux
  deriving DecidableEq, Repr, Inhabited

/-- The two I3C targets (R331). -/
inductive I3cTarget where
  | mctp | direct
  deriving DecidableEq, Repr, Inhabited

/-- The two I3C address assignments (R331). -/
inductive I3cAssign where
  | setdasa | entdaa
  deriving DecidableEq, Repr, Inhabited

/-- The outcome of a CXL.cache read of host memory (R318 to R322): data, an error, or poison. -/
inductive HostRead (α : Type) where
  | data (a : α) | error | poison
  deriving DecidableEq, Repr, Inhabited

/-- Operands of a vector word VADD … VRSQ, VCVT (Table 07-6). -/
structure VOp where
  pred : BitVec 3
  pneg : Bool
  mode : BitVec 4
  vd : BitVec 5
  va : BitVec 5
  vb : BitVec 5
  vc : BitVec 5
  sub : BitVec 2
  deriving DecidableEq, Repr, Inhabited

/-- Operands of VCMP (Table 07-6). -/
structure VCmpOp where
  pred : BitVec 3
  pneg : Bool
  mode : BitVec 4
  pd : BitVec 3
  va : BitVec 5
  vb : BitVec 5
  cmp : BitVec 2
  deriving DecidableEq, Repr, Inhabited

/-- Operands of VRED (Table 07-6). -/
structure VRedOp where
  pred : BitVec 3
  pneg : Bool
  mode : BitVec 4
  vd : BitVec 5
  va : BitVec 5
  deriving DecidableEq, Repr, Inhabited

/-- Operands of VDROP (Table 07-6). -/
structure VDropOp where
  pred : BitVec 3
  pneg : Bool
  mode : BitVec 4
  vd : BitVec 5
  va : BitVec 5
  sidx : BitVec 4
  sthr : BitVec 4
  dlane : BitVec 2
  desc : BitVec 16
  factor : F32
  deriving DecidableEq, Repr, Inhabited

/-- Operands of VRAND (Table 07-6). -/
structure VRandOp where
  pred : BitVec 3
  pneg : Bool
  vd : BitVec 5
  sidx : BitVec 4
  dlane : BitVec 2
  desc : BitVec 16
  deriving DecidableEq, Repr, Inhabited

/-- Operands of VLD and VST (Table 07-6). -/
structure VMemOp where
  pred : BitVec 3
  pneg : Bool
  v : BitVec 5
  sbase : BitVec 4
  offset : BitVec 19
  deriving DecidableEq, Repr, Inhabited

/-- What the (72,64) code of the tor store reports for the words an access reads (R100): how many it corrected, and
which of them, numbered from the access's first, it could not. The code's own matrix is not in the spec, so the report is
an operand. -/
structure EccObs where
  corrected : Nat := 0
  bad : List Nat := []
  deriving DecidableEq, Repr, Inhabited

/-- The store stream of DRQ, and the code's report on the tor-store words it reads (R100). -/
structure StoreOp where
  stream : BitVec 24
  ecc : EccObs := {}
  deriving DecidableEq, Repr, Inhabited

/-- Operands of the two-source scalar words (R127). `useImm` is MODE[0]. -/
structure SOp where
  useImm : Bool
  sd : BitVec 4
  sa : BitVec 4
  sb : BitVec 4
  imm : BitVec 64
  deriving DecidableEq, Repr, Inhabited

/-- Operands of PAND, POR, PNOT (R127). -/
structure POp where
  pd : BitVec 3
  pa : BitVec 3
  pb : BitVec 3
  deriving DecidableEq, Repr, Inhabited

/-- Operands of QNT, DEQ, ROTQ (R128). -/
structure ConvOp where
  desc : BitVec 16
  tsaddr : BitVec 19
  seq : BitVec 32
  count : BitVec 16
  pl : BitVec 2
  deriving DecidableEq, Repr, Inhabited

/-- Operands of TMM and TCONV (Table 07-4) with their MODE bits (R122). -/
structure TileOp where
  dside : Bool
  transb : Bool
  fused : Bool
  tile : BitVec 20
  apl : BitVec 2
  bpl : BitVec 2
  drain : BitVec 16
  deriving DecidableEq, Repr, Inhabited

/-- A residue check point of Table 05-5 that a wave passes; the exact register's is the drain's. -/
inductive CheckPoint where
  | entryInt | entryDigit | multiplier | outlier | segment
  deriving DecidableEq, Repr, Inhabited

/-- A changed bit at a check point: output element 0 … 255 of the tor, K index 0 … 3 of the K-step, bit (R87). -/
structure Upset where
  elem : Byte
  point : CheckPoint
  k : BitVec 2
  bit : BitVec 6
  deriving DecidableEq, Repr, Inhabited

/-- What the check logic of one tor sees in one wave besides the data: by how many waves, modulo 4, each logical row's A
slice is out of step with its B slice (R101), the changed bits (R87), and the code's report on the tor-store words that
this wave's slices were read from (R100). -/
structure WaveObs where
  slips : List (BitVec 2) := []
  upsets : List Upset := []
  ecc : EccObs := {}
  deriving DecidableEq, Repr, Inhabited

/-- A changed bit of a delay copy (R102), the cube row's or the row buffer's: the tor's place in its group, the logical row,
and the bit. -/
structure DelayUpset where
  tor : BitVec 2
  row : BitVec 2
  bit : BitVec 3
  deriving DecidableEq, Repr, Inhabited

/-- A changed bit of an exact register (R87): the tor's place in its group, the output element, and the bit. -/
structure RegisterUpset where
  tor : BitVec 2
  elem : Byte
  bit : Byte
  deriving DecidableEq, Repr, Inhabited

/-- The requester (leaf) of a memory request, Table 09-4. -/
inductive Client where
  | tor (t : TorIdx) | torPlane (t : TorIdx) | torScree (t : TorIdx)
  | ni (m : BitVec 2) | niServe (m : BitVec 2) | niLand (m : BitVec 2)
  | host | mgmt | dump | scrub
  deriving DecidableEq, Repr, Inhabited

/-- A memory request: a burst address in 32-byte units, and the 272 bits (FLAGS, E, payload) of a write; `poison` marks
a host write that carries poison (R171). -/
structure MemReq where
  client : Client
  addr : BitVec 36
  write : Option (BitVec 272)
  poison : Bool := false
  deriving DecidableEq, Repr, Inhabited

/-- A position claim received on a port (R202). -/
structure ClaimData where
  fromSwitch : Bool
  addr : BitVec 15
  port : BitVec 7
  digest : BitVec 256
  deriving DecidableEq, Repr, Inhabited

/-- A packet as it arrives whole on a port: header of Table 10-2, payload, CRC-64 trailer (R189). -/
structure RawPacket where
  header : BitVec 256
  payload : List Byte
  crc : BitVec 64
  deriving DecidableEq, Repr, Inhabited

/-- A COLL packet handed to the NI (R212): its context, sender position, ARG and payload. -/
structure CollMsg where
  ctx : CtxIdx
  srcPos : BitVec 14
  arg : BitVec 64
  payload : List Byte
  deriving DecidableEq, Repr, Inhabited

/-- A remote token signal (R133, R135). -/
structure TokenMsg where
  ctx : CtxIdx
  srcPos : BitVec 14
  step : BitVec 16
  membEpoch : BitVec 8
  ctxEpoch : BitVec 8
  token : BitVec 17
  inc : BitVec 16
  deriving DecidableEq, Repr, Inhabited

/-- The kinds of item a state copy carries (Table 13-1). -/
inductive CopyKind where
  | ownState | ownPlane | stamp | base
  deriving DecidableEq, Repr, Inhabited

/-- One item of a STATE_COPY packet: a master block of a parameter, what part of it, and its bursts' 272 bits. -/
structure CopyItem where
  kind : CopyKind
  param : BitVec 24
  seq : BitVec 32
  region : BitVec 4
  stamp : BitVec 32
  bursts : List (BitVec 272)
  deriving DecidableEq, Repr, Inhabited

/-- A STATE_COPY packet (R267): the position that sends it, and its items. -/
structure CopyPacket where
  srcPos : BitVec 14
  items : List CopyItem
  deriving DecidableEq, Repr, Inhabited

/-- What a port finds of a control frame and of the idle codewords since the last one: whether the frame is valid, and the
symbols corrected (R187, R193). -/
structure FrameCheck where
  valid : Bool
  corrected : BitVec 16 := 0
  deriving DecidableEq, Repr, Inhabited

/-- A register write's value, and the W1C bits whose event falls in the same cycle (R9, Table 17-3). -/
structure RegWrite where
  value : BitVec 64
  coincident : BitVec 64 := 0
  deriving DecidableEq, Repr, Inhabited

/-- What a BELAY packet delivers (R248, R249, R270). -/
inductive BelayMsg where
  | input (subject : BitVec 14) (ordinal : BitVec 4) (mask : BitVec 16) (data : List Byte)
  | state (subject : BitVec 14) (modelDigest : Digest) (entries : List (Nat × BitVec 64)) (ceilings : List (Nat × BitVec 8))
      (stormRun : BitVec 8) (feedPosition : BitVec 64)
  | digest (subject : BitVec 14) (ordinal : BitVec 4) (d : Option (BitVec 64))
  | sourceDigest (shard : BitVec 24) (d : BitVec 64)
  deriving DecidableEq, Repr, Inhabited

/-- A belay report of a partner (R249): outcome 1 MATCH, 2 MISMATCH, 3 INCOMPLETE. -/
structure BelayReport where
  subject : BitVec 14
  ordinal : BitVec 4
  suspect : Bool
  outcome : BitVec 2
  deriving DecidableEq, Repr, Inhabited

/-- One module's cairn report, Table 12-2 (R254). -/
structure CairnReport where
  ctx : CtxIdx
  step : BitVec 64
  attempt : BitVec 2
  position : BitVec 14
  slot : BitVec 6
  membEpoch : BitVec 32
  policyDigest : Digest
  mbFailed : BitVec 16
  proposals : BitVec 33
  withdrawn : Bool
  belay : Option BelayReport
  chunkFaults : Bool
  mismatches : List (Nat × List (Nat × BitVec 64))
  divergence : List Nat
  clipN : Nat
  entryPhase : BitVec 8
  rangeLimited : BitVec 32
  evToken : Bool
  evNonfinite : Bool
  evOverflow : Bool
  deriving DecidableEq, Repr, Inhabited

/-- A verdict's decision (R257). Skip causes are coded as in Table 12-5. -/
inductive Decision where
  | reduce | commit | skip (cause : BitVec 4)
  deriving DecidableEq, Repr, Inhabited

/-- A verdict (R257): with the exclusions (Table 12-6 words), the declared positions, N, the storm flag, and the
joiners it accepts, as (range, slot), and refuses (R264). Two further lists every module needs in order to act alike
(DEDUCED, notes/assumptions/9.md): the shards of a TWIN_DIVERGENCE, and the positions whose catch-up completed. -/
structure Verdict where
  ctx : CtxIdx
  step : BitVec 64
  attempt : BitVec 2
  decision : Decision
  excluded : List (BitVec 32)
  declared : List (BitVec 14)
  clipN : Nat
  stormStep : Bool
  joins : List (BitVec 9 × BitVec 6)
  refusedJoins : List (BitVec 9 × BitVec 6)
  diverged : List Nat
  caughtUp : List (BitVec 14)
  deriving DecidableEq, Repr, Inhabited

/-- What a CAIRN packet carries (R255, R252, R253). -/
inductive CairnMsg where
  | report (r : CairnReport)
  | summary (range : BitVec 9) (reports : List CairnReport) (joins : List (BitVec 6 × Digest))
  | declaration (position : BitVec 14)
  | twinDigest (ctx : CtxIdx) (attempt : BitVec 2) (shard : BitVec 24) (rope : BitVec 14) (d : BitVec 64)
  | verdict (v : Verdict)
  deriving DecidableEq, Repr, Inhabited

/-- MCTP control requests that serve endpoint discovery and identification (R332). -/
inductive MctpCtl where
  | setEndpointId (eid : Byte) | getEndpointId | getVersionSupport | getMessageTypeSupport
  deriving DecidableEq, Repr, Inhabited

/-- The numeric sensors of PLDM Type 2 (R332). -/
inductive Sensor where
  | inputPower | coreVoltage | dieTemp (die : BitVec 3) | memTemp (massif : BitVec 2) | engineTemp (massif : BitVec 2)
  deriving DecidableEq, Repr, Inhabited

/-- The result of a timed bring-up step (R296, Table 14-7): done, or failed with the FAIL_DETAIL. -/
inductive StepResult where
  | done | failed (detail : Byte)
  deriving DecidableEq, Repr, Inhabited

/-- What the step-8 self-check found for one tor: a failing physical row, or its tor store (R297). -/
inductive SelfCheckFault where
  | row (t : TorIdx) (r : BitVec 3) | store (t : TorIdx)
  deriving DecidableEq, Repr, Inhabited

/-- Operations on CXL IDE keys (R310). -/
inductive IdeOp where
  | keyProg (stream : Byte) (key : BitVec 256) | keyGo (stream : Byte) | keyStop (stream : Byte)
  deriving DecidableEq, Repr, Inhabited

/-- What a Lombiex debug instruction reaches (R348). -/
inductive DebugTarget where
  | scan (block : BitVec 16) | processor (index : BitVec 3) | memRead (addr : BitVec 36) | memWrite (addr : BitVec 36) (d : BitVec 272)
  | keyStore | cryptoEngine | fuseEngine
  deriving DecidableEq, Repr, Inhabited

/-- Firmware-update components (R343): 0x0001 firmware, 0x0002 Wihorn image. -/
inductive Component where
  | firmware | wihorn
  deriving DecidableEq, Repr, Inhabited

/-- The fuse-controlled pins of Table 18-7. -/
inductive FusePin where
  | faultL | i3cSda | jtagTdo | gpio (n : BitVec 2)
  deriving DecidableEq, Repr, Inhabited

/-- The commands: one constructor per row of spec/opcode_table.json. -/
inductive Instr where
  -- power, reset, thermal (R287 to R290, R365 to R370)
  | railsValid
  | railOutOfLimits (rail : Rail)
  | inputInvalid (mv : BitVec 17) (us : BitVec 32)
  | boardPwrgd (level : Bool) (us : BitVec 16)
  | resetRecognised (us : BitVec 16)
  | resetLRelease (us : BitVec 16)
  | ready
  | refclkLoss
  | thermalSensorRead (dies : List (BitVec 8)) (packages : List (BitVec 8))
  | governorWindow (watts : BitVec 16) (tj : BitVec 8)
  | powerCapEffecter (watts : BitVec 16)
  | capCeilingWrite (watts : BitVec 16)
  | setdasaEntdaa (target : I3cTarget) (kind : I3cAssign) (addr : BitVec 7)
  -- registers and the Wihorn image
  | registerWrite (who : Requester) (offset : BitVec 26) (size : BitVec 13) (value : RegWrite)
  | stage
  | discard
  | imageCheckDone
  -- tor words and the array
  | nop (t : TorIdx)
  | loop (t : TorIdx) (len : BitVec 20) (count : BitVec 32)
  | skipb (t : TorIdx) (branch : BitVec 4) (skip : BitVec 20)
  | call (t : TorIdx) (entry : BitVec 32)
  | ret (t : TorIdx)
  | tmm (t : TorIdx) (o : TileOp)
  | tconv (t : TorIdx) (o : TileOp)
  | tilePassStart (t : TorIdx) (bufDelays cubeDelays : List DelayUpset)
  | tilePassEnd (t : TorIdx) (upsets : List RegisterUpset) (ecc : List EccObs)
  | drainRelease (t : TorIdx)
  | vadd (t : TorIdx) (o : VOp)
  | vsub (t : TorIdx) (o : VOp)
  | vmul (t : TorIdx) (o : VOp)
  | vfma (t : TorIdx) (o : VOp)
  | vmin (t : TorIdx) (o : VOp)
  | vmax (t : TorIdx) (o : VOp)
  | vcmp (t : TorIdx) (o : VCmpOp)
  | vdiv (t : TorIdx) (o : VOp)
  | vsqrt (t : TorIdx) (o : VOp)
  | vrcp (t : TorIdx) (o : VOp)
  | vrsq (t : TorIdx) (o : VOp)
  | vcvt (t : TorIdx) (o : VOp)
  | vred (t : TorIdx) (o : VRedOp)
  | vdrop (t : TorIdx) (o : VDropOp)
  | vrand (t : TorIdx) (o : VRandOp)
  | vfpf (t : TorIdx) (sd : BitVec 4) (clear : Bool)
  | vld (t : TorIdx) (o : VMemOp) (ecc : EccObs)
  | vst (t : TorIdx) (o : VMemOp) (ecc : EccObs)
  | vbcast (t : TorIdx) (pred : BitVec 3) (pneg : Bool) (vd : BitVec 5) (sa : BitVec 4)
  | smovi (t : TorIdx) (sd : BitVec 4) (imm : BitVec 64)
  | sadd (t : TorIdx) (o : SOp)
  | ssub (t : TorIdx) (o : SOp)
  | smul (t : TorIdx) (o : SOp)
  | sand (t : TorIdx) (o : SOp)
  | sor (t : TorIdx) (o : SOp)
  | sxor (t : TorIdx) (o : SOp)
  | sshl (t : TorIdx) (o : SOp)
  | sasr (t : TorIdx) (o : SOp)
  | pmov (t : TorIdx) (sd : BitVec 4) (sa : BitVec 4)
  | pand (t : TorIdx) (o : POp)
  | por (t : TorIdx) (o : POp)
  | pnot (t : TorIdx) (o : POp)
  | qnt (t : TorIdx) (o : ConvOp) (ecc : EccObs)
  | deq (t : TorIdx) (o : ConvOp)
  | rotq (t : TorIdx) (o : ConvOp) (ecc : EccObs)
  | wait (t : TorIdx) (token : BitVec 17) (count : BitVec 16) (remote : Bool)
  | signal (t : TorIdx) (token : BitVec 17) (sysaddr : BitVec 15) (remote : Bool) (inc : BitVec 16)
  | ldq (t : TorIdx) (stream : BitVec 24)
  | drq (t : TorIdx) (o : StoreOp)
  | hand (t : TorIdx) (desc : BitVec 16) (tile : BitVec 20) (chunk : BitVec 24) (slot : BitVec 4)
  | nchk (t : TorIdx) (tile : BitVec 20)
  | alt (t : TorIdx) (tile : BitVec 20) (pos : Bool) (skip : BitVec 16)
  | settle (t : TorIdx) (tile : BitVec 20) (desc : BitVec 16)
  | cairn (t : TorIdx) (pre : BitVec 12)
  | ceilingReport (home : BitVec 7)
  | stormVerdict (c : CtxIdx)
  -- memory and host memory port
  | memoryRequest (r : MemReq)
  | subchannelGrant (sub : BitVec 8)
  | memoryReadDone (sub : BitVec 8) (flip : Burst)
  | slotMerge (addr : BitVec 36) (first : BitVec 3) (words : List (BitVec 32)) (client : Client)
  | scrubRequest (sub : BitVec 8)
  | hostMemRead (hpa : BitVec 64)
  | hostMemWrite (hpa : BitVec 64) (data : BitVec 512)
  | hostMemPartialWrite (hpa : BitVec 64) (data : BitVec 512) (mask : BitVec 64)
  | hostMemPoisonWrite (hpa : BitVec 64) (data : BitVec 512)
  | bisnpResponse (hpa : BitVec 64)
  | snpinv (hpa : BitVec 64)
  | snpdata (hpa : BitVec 64)
  | snpcur (hpa : BitVec 64)
  | producerLineRead (c : CtxIdx) (line : HostRead (BitVec 64 × BitVec 64)) (entries : List (List Byte))
  -- links
  | linkTrainingDone (port : BitVec 7) (trained : Bool) (rtt : BitVec 16)
  | packetReceive (port : BitVec 7) (p : RawPacket) (overlapsUncorrectable : Bool) (corrected : BitVec 16)
  | controlFrame (port : BitVec 7) (check : FrameCheck) (ack : BitVec 8) (nak : Bool) (ctlCredits : BitVec 5)
      (dataCredits : BitVec 5) (sharedCredits : BitVec 5)
  | controlFrameSend (port : BitVec 7)
  | retryTimeout (port : BitVec 7)
  | laneLockLoss (port : BitVec 7)
  | controlFrameTimeout (port : BitVec 7)
  | portRetrain (port : BitVec 7)
  | claimSend (port : BitVec 7)
  | claim (port : BitVec 7) (c : ClaimData)
  | discoveryTimeout (port : BitVec 7)
  | rangeMap (slot : BitVec 6) (counts : List (BitVec 2))
  | rediscover (port : BitVec 7)
  | flowAck (slotFlow : Bool) (flow : BitVec 15) (base : BitVec 32)
  | flowAckSend (slotFlow : Bool) (flow : BitVec 15)
  -- collectives and the update
  | coll (m : CollMsg)
  | updateBlock (c : CtxIdx) (param : BitVec 24) (seq : BitVec 32)
  | requantise (c : CtxIdx) (param : BitVec 24) (group : BitVec 32)
  | gather (m : CollMsg)
  | token (m : TokenMsg)
  | fetchReq (c : CtxIdx) (srcPos : BitVec 14) (addr : BitVec 36) (plane : BitVec 2)
  | fetchData (c : CtxIdx) (addr : BitVec 36) (plane : BitVec 2) (bursts : List (BitVec 272))
  | failedChunk (c : CtxIdx) (srcPos : BitVec 14) (chunk : BitVec 24)
  | stateCopy (c : CtxIdx) (k : CopyPacket)
  | belay (c : CtxIdx) (m : BelayMsg)
  -- membership and the cairn
  | heartbeatSend
  | heartbeat (slot : BitVec 6)
  | hbTimeout (slot : BitVec 6)
  | reportTimeout (slot : BitVec 6)
  | propose (sender : BitVec 6) (slot : BitVec 6)
  | withdraw (slot : BitVec 6)
  | joinSend
  | join (slot : BitVec 6) (digest : Digest)
  | cairnReportOpen (c : CtxIdx)
  | cairnPacket (m : CairnMsg)
  | cairnTimeout (range : BitVec 9)
  | cairnInstant (c : CtxIdx)
  -- hangs, containment, dump
  | hangTimeout (block : BitVec 16) (kind : BitVec 4) (lastProgress : BitVec 32)
  | remoteWaitLong (t : TorIdx)
  | containLogWrite (ok : Bool)
  | dumpBlockAnswer (record : List Byte)
  | dumpBlockLimit
  | dumpDeadline
  | dumpWriteTimeout
  | blockReset (block : BitVec 16)
  | blockResetDone
  -- host attachment and contexts
  | cxlReset
  | hdmDecoderCommit (base : BitVec 64)
  | ctxRingWrite (c : CtxIdx) (value : BitVec 64)
  | load (c : CtxIdx)
  | loadComplete (c : CtxIdx) (image : HostRead (List Byte))
  | restore (c : CtxIdx)
  | restoreComplete (c : CtxIdx) (buffer : HostRead (List Byte))
  | start (c : CtxIdx)
  | step (c : CtxIdx) (inputs : HostRead (List (BitVec 128)))
  | stepInputRead (c : CtxIdx) (ordinal : BitVec 4) (input : HostRead (List Byte))
  | checkpoint (c : CtxIdx)
  | checkpointComplete (c : CtxIdx)
  | pause (c : CtxIdx)
  | resume (c : CtxIdx)
  | abort (c : CtxIdx) (now : Bool) (tag : BitVec 32)
  | teardown (c : CtxIdx)
  | teardownDrained (c : CtxIdx)
  | teardownScrubDone (c : CtxIdx)
  -- management
  | mctpControl (m : MctpCtl)
  | getSensorReading (id : Sensor)
  | setEventReceiver (eid : Byte)
  | pollForPlatformEventMessage
  | eventAcknowledge (seq : BitVec 32)
  | readMoraine (full : Bool) (offset : BitVec 32) (length : BitVec 16)
  | readShapeTable (offset : BitVec 26) (length : BitVec 16)
  | readStepRecord (c : CtxIdx) (seq : BitVec 64)
  | writeOptionBytes (copy : List Byte)
  | managementClear (scope : BitVec 3)
  | enrolKey (slot : BitVec 2) (key : List Byte) (debug : Bool) (signer : BitVec 2) (sig : List Byte)
  | revokeKey (slot : BitVec 2) (signer : BitVec 2) (sig : List Byte)
  | commitSvn
  | requestUpdate
  | componentWrite (c : Component) (bytes : List Byte)
  | verifyComplete (c : Component)
  | activateFirmware
  -- SPDM (R345 to R347)
  | getVersion
  | getCapabilities
  | negotiateAlgorithms (falcon : Bool) (shake : Bool)
  | getCertificate (slot : BitVec 3)
  | challenge (slot : BitVec 3) (nonce : BitVec 256)
  | getMeasurements (nonce : BitVec 256)
  | keyExchange (pub : List Byte)
  | finish (session : BitVec 16) (verified : Bool)
  | heartbeatSpdm (session : BitVec 16)
  | keyUpdate (session : BitVec 16)
  | endSession (session : BitVec 16)
  | contextKeyRequest (session : Option (BitVec 16)) (c : CtxIdx) (key : Option (BitVec 256))
  | cxlIdeKm (session : Option (BitVec 16)) (op : IdeOp)
  -- JTAG (R348, R349)
  | bypass
  | idcode
  | samplePreload (bits : BitVec 64)
  | extest (pin : FusePin) (code : BitVec 3)
  | debugChallengeRead
  | debugOpening (slot : BitVec 2) (sig : List Byte)
  -- rows at the table's end
  | wave (t : TorIdx) (os : List WaveObs)
  | uncorrectableCodeword (port : BitVec 7)
  | cxlLinkTrained (rate : BitVec 2) (narrow : Bool)
  | configurationRequest
  | registerRead (offset : BitVec 26) (size : BitVec 13)
  | cxlCompletionTimeout (c : CtxIdx)
  | bringUpStepDone (order : BitVec 4) (result : StepResult) (selfCheck : List SelfCheckFault)
  | pldmDiscovery
  | debugAccess (target : DebugTarget)
  deriving DecidableEq, Repr

end Sys2Proof
end

