-- ==== Sys2Proof/Decode.lean ====
section
/-! DEFINITION. The words of tor instructions, written from Table 07-1 and the operand tables of chapter 7 (R117, R118,
R389). The opcode table itself gives no row any bits, so no word of it spells a command. -/

namespace Sys2Proof

/-- The command a word spells by the table's bits: the table gives none. -/
def decodeTableWord (_nbits _w : Nat) : Option Instr := none

/-! ## Instruction words -/

/-- An instruction word (Table 07-1): OPCODE, PRED, PNEG, MODE, OPERANDS. -/
def encWord (op : Byte) (pred : BitVec 3) (pneg : Bool) (mode : BitVec 4) (operands : BitVec 112) : BitVec 128 :=
  op ++ pred ++ BitVec.ofBool pneg ++ mode ++ operands

/-- A word whose instruction takes no predicate and no MODE. -/
def encPlain (op : Byte) (operands : BitVec 112) : BitVec 128 := encWord op 0 false 0 operands

/-- NOP and RET (R389). -/
def encNop : BitVec 128 := encPlain 0x00 0
def encRet : BitVec 128 := encPlain 0x04 0

/-- LOOP (R389). -/
def encLoop (len : BitVec 20) (count : BitVec 32) : BitVec 128 := encPlain 0x01 (len ++ count ++ (0 : BitVec 60))

/-- SKIPB (R389, R139). -/
def encSkipb (branch : BitVec 4) (skip : BitVec 20) : BitVec 128 := encPlain 0x02 (branch ++ skip ++ (0 : BitVec 88))

/-- CALL (R389). -/
def encCall (entry : BitVec 32) : BitVec 128 := encPlain 0x03 (entry ++ (0 : BitVec 80))

/-- TMM and TCONV (R122, Table 07-4). -/
def encTile (op : Byte) (o : TileOp) : BitVec 128 :=
  encWord op 0 false (BitVec.ofBool o.dside ++ BitVec.ofBool o.transb ++ BitVec.ofBool o.fused ++ (0 : BitVec 1))
    (o.tile ++ o.apl ++ o.bpl ++ o.drain ++ (0 : BitVec 72))

/-- The row VADD … VRSQ, VCVT (Table 07-6). -/
def encVector (op : Byte) (o : VOp) : BitVec 128 :=
  encWord op o.pred o.pneg o.mode (o.vd ++ o.va ++ o.vb ++ o.vc ++ (0 : BitVec 90) ++ o.sub)

/-- VCMP (Table 07-6). -/
def encVcmp (o : VCmpOp) : BitVec 128 :=
  encWord 0x26 o.pred o.pneg o.mode (o.pd ++ (0 : BitVec 2) ++ o.va ++ o.vb ++ (0 : BitVec 95) ++ o.cmp)

/-- VRED (Table 07-6). -/
def encVred (o : VRedOp) : BitVec 128 := encWord 0x2C o.pred o.pneg o.mode (o.vd ++ o.va ++ (0 : BitVec 102))

/-- VDROP (Table 07-6). -/
def encVdrop (o : VDropOp) : BitVec 128 :=
  encWord 0x2D o.pred o.pneg o.mode (o.vd ++ o.va ++ o.sidx ++ o.sthr ++ o.dlane ++ o.desc ++ (0 : BitVec 44) ++ o.factor)

/-- VRAND (Table 07-6). -/
def encVrand (o : VRandOp) : BitVec 128 :=
  encWord 0x2E o.pred o.pneg 0 (o.vd ++ (0 : BitVec 5) ++ o.sidx ++ (0 : BitVec 4) ++ o.dlane ++ o.desc ++ (0 : BitVec 76))

/-- VFPF (Table 07-6). -/
def encVfpf (sd : BitVec 4) (clear : Bool) : BitVec 128 := encPlain 0x2F (sd ++ (0 : BitVec 107) ++ BitVec.ofBool clear)

/-- VLD and VST (Table 07-6). -/
def encVmem (op : Byte) (o : VMemOp) : BitVec 128 := encWord op o.pred o.pneg 0 (o.v ++ o.sbase ++ o.offset ++ (0 : BitVec 84))

/-- VBCAST (Table 07-6). -/
def encVbcast (pred : BitVec 3) (pneg : Bool) (vd : BitVec 5) (sa : BitVec 4) : BitVec 128 :=
  encWord 0x32 pred pneg 0 (vd ++ sa ++ (0 : BitVec 103))

/-- SMOVI (R127). -/
def encSmovi (sd : BitVec 4) (imm : BitVec 64) : BitVec 128 := encPlain 0x40 (sd ++ (0 : BitVec 8) ++ imm ++ (0 : BitVec 36))

/-- The scalar words with two sources (R127). -/
def encScalar (op : Byte) (o : SOp) : BitVec 128 :=
  encWord op 0 false ((0 : BitVec 3) ++ BitVec.ofBool o.useImm) (o.sd ++ o.sa ++ o.sb ++ o.imm ++ (0 : BitVec 36))

/-- PMOV (R127). -/
def encPmov (sd sa : BitVec 4) : BitVec 128 := encPlain 0x49 (sd ++ sa ++ (0 : BitVec 104))

/-- PAND, POR and PNOT (R127). -/
def encPred (op : Byte) (o : POp) : BitVec 128 := encPlain op (o.pd ++ o.pa ++ o.pb ++ (0 : BitVec 103))

/-- QNT, DEQ and ROTQ (R128). -/
def encConv (op : Byte) (o : ConvOp) : BitVec 128 :=
  encPlain op (o.desc ++ o.tsaddr ++ o.seq ++ o.count ++ o.pl ++ (0 : BitVec 27))

/-- WAIT (Table 07-9). -/
def encWait (token : BitVec 17) (count : BitVec 16) (remote : Bool) : BitVec 128 :=
  encPlain 0x60 (token ++ count ++ BitVec.ofBool remote ++ (0 : BitVec 78))

/-- SIGNAL (Table 07-9). -/
def encSignal (token : BitVec 17) (sysaddr : BitVec 15) (remote : Bool) (inc : BitVec 16) : BitVec 128 :=
  encPlain 0x61 (token ++ sysaddr ++ BitVec.ofBool remote ++ inc ++ (0 : BitVec 63))

/-- LDQ and DRQ: the stream table index in bits [111:88] (R131, R132). -/
def encStream (op : Byte) (stream : BitVec 24) : BitVec 128 := encPlain op (stream ++ (0 : BitVec 88))

/-- HAND (R140). -/
def encHand (desc : BitVec 16) (tile : BitVec 20) (chunk : BitVec 24) (slot : BitVec 4) : BitVec 128 :=
  encPlain 0x80 (desc ++ tile ++ chunk ++ slot ++ (0 : BitVec 48))

/-- NCHK (R136). -/
def encNchk (tile : BitVec 20) : BitVec 128 := encPlain 0x90 (tile ++ (0 : BitVec 92))

/-- ALT (R137). -/
def encAlt (tile : BitVec 20) (pos : Bool) (skip : BitVec 16) : BitVec 128 :=
  encPlain 0xA0 (tile ++ BitVec.ofBool pos ++ skip ++ (0 : BitVec 75))

/-- SETTLE (R138). -/
def encSettle (tile : BitVec 20) (desc : BitVec 16) : BitVec 128 := encPlain 0xA1 (tile ++ desc ++ (0 : BitVec 76))

/-- CAIRN (R141). -/
def encCairn (pre : BitVec 12) : BitVec 128 := encPlain 0xB0 (pre ++ (0 : BitVec 100))

/-- The tor that a tor word names, and the word (Table 07-2); none for every other command. What a code or a check
reports beside a word is no part of it. -/
def Instr.torWord : Instr → Option (TorIdx × BitVec 128)
  | .nop t => some (t, encNop)
  | .loop t len count => some (t, encLoop len count)
  | .skipb t branch skip => some (t, encSkipb branch skip)
  | .call t entry => some (t, encCall entry)
  | .ret t => some (t, encRet)
  | .tmm t o => some (t, encTile 0x10 o)
  | .tconv t o => some (t, encTile 0x11 o)
  | .vadd t o => some (t, encVector 0x20 o)
  | .vsub t o => some (t, encVector 0x21 o)
  | .vmul t o => some (t, encVector 0x22 o)
  | .vfma t o => some (t, encVector 0x23 o)
  | .vmin t o => some (t, encVector 0x24 o)
  | .vmax t o => some (t, encVector 0x25 o)
  | .vcmp t o => some (t, encVcmp o)
  | .vdiv t o => some (t, encVector 0x27 o)
  | .vsqrt t o => some (t, encVector 0x28 o)
  | .vrcp t o => some (t, encVector 0x29 o)
  | .vrsq t o => some (t, encVector 0x2A o)
  | .vcvt t o => some (t, encVector 0x2B o)
  | .vred t o => some (t, encVred o)
  | .vdrop t o => some (t, encVdrop o)
  | .vrand t o => some (t, encVrand o)
  | .vfpf t sd clear => some (t, encVfpf sd clear)
  | .vld t o _ => some (t, encVmem 0x30 o)
  | .vst t o _ => some (t, encVmem 0x31 o)
  | .vbcast t pred pneg vd sa => some (t, encVbcast pred pneg vd sa)
  | .smovi t sd imm => some (t, encSmovi sd imm)
  | .sadd t o => some (t, encScalar 0x41 o)
  | .ssub t o => some (t, encScalar 0x42 o)
  | .smul t o => some (t, encScalar 0x43 o)
  | .sand t o => some (t, encScalar 0x44 o)
  | .sor t o => some (t, encScalar 0x45 o)
  | .sxor t o => some (t, encScalar 0x46 o)
  | .sshl t o => some (t, encScalar 0x47 o)
  | .sasr t o => some (t, encScalar 0x48 o)
  | .pmov t sd sa => some (t, encPmov sd sa)
  | .pand t o => some (t, encPred 0x4A o)
  | .por t o => some (t, encPred 0x4B o)
  | .pnot t o => some (t, encPred 0x4C o)
  | .qnt t o _ => some (t, encConv 0x50 o)
  | .deq t o => some (t, encConv 0x51 o)
  | .rotq t o _ => some (t, encConv 0x52 o)
  | .wait t k count remote => some (t, encWait k count remote)
  | .signal t k sysaddr remote inc => some (t, encSignal k sysaddr remote inc)
  | .ldq t stream => some (t, encStream 0x70 stream)
  | .drq t o => some (t, encStream 0x71 o.stream)
  | .hand t desc tile chunk slot => some (t, encHand desc tile chunk slot)
  | .nchk t tile => some (t, encNchk tile)
  | .alt t tile pos skip => some (t, encAlt tile pos skip)
  | .settle t tile desc => some (t, encSettle tile desc)
  | .cairn t pre => some (t, encCairn pre)
  | _ => none

end Sys2Proof
end

