-- ==== Sys2Proof/Config.lean ====
section
/-! DEFINITION. What the spec leaves open: free values and the functions it names but does not define. Each is opaque,
so no proof sees a value of it. -/

namespace Sys2Proof.Config

/-- A free value: the n-th taken by the machine, at width w. DESIGN CHOICE, notes/assumptions/2.md. Safe. -/
opaque free (w n : Nat) : BitVec w
/-- SHAKE256 with 64 bytes of output (R341); the spec names the hash and does not define it. -/
opaque shake256 (bytes : List Byte) : Digest
/-- SHAKE256 of the byte image of a length that lists its bytes by offset, 0 where none is listed (R282, R341). -/
opaque shakeImage (length : Nat) (bytes : List (Nat × Byte)) : Digest
/-- Falcon-1024 verification of a signature over a 64-byte hash under a public key (R26, R335, R349). -/
opaque falconVerify (key : List Byte) (hash : Digest) (sig : List Byte) : Bool
/-- Signing with the identity key (R345). -/
opaque identitySign (msg : List Byte) : List Byte
/-- The identity certificate, whose hash a CLAIM carries (chapter 10). -/
opaque identityCertificate : List Byte
/-- The identity certificate chain in slot 0 (R345). -/
opaque certificateChain : List Byte
/-- AES-256-GCM encryption of one segment, tag appended (R324). -/
opaque gcmSeal (key : BitVec 256) (nonce : BitVec 96) (aad plain : List Byte) : List Byte
/-- AES-256-GCM decryption of one segment with its tag; none when the tag fails (R324). -/
opaque gcmOpen (key : BitVec 256) (nonce : BitVec 96) (aad sealedSeg : List Byte) : Option (List Byte)
/-- Lombiex's firmware-signature check of a firmware image (R342); the image's layout is not in the spec. -/
opaque fwSigned (image : List Byte) : Bool
/-- The SVN a firmware image carries (R342). -/
opaque fwSvn (image : List Byte) : BitVec 8
/-- The release a firmware image carries, as GLB_FW_RELEASE lays it out (chapter 17). -/
opaque fwRelease (image : List Byte) : Word
/-- The factory firmware's image (R293). -/
opaque factoryFirmware : List Byte
/-- IMAGE_SERIAL and SIGNATURE of the factory default structure (R33); Table 02-9 gives its sections. -/
opaque factorySerial : Word
opaque factorySignature : List Byte
/-- The FP32 loss that a position's vector units compute for an ordinal of a step (Table 01-8, order 5): the spec names no
instruction that delivers it. Safe. -/
opaque loss (position ordinal step : Nat) : BitVec 32
/-- What a master block whose averaged gradients are not all finite adds to N: R220 sums squares of finite numbers only.
A function of the gradients alone (R16). Safe. -/
opaque clipOfNonfinite (gradients : List (BitVec 32)) : BitVec 640
/-- Lombiex's manufacturer identity in IDCODE (R348). -/
opaque manufacturerId : BitVec 11

end Sys2Proof.Config
end

