-- ==== Sys2Proof/Machine/State.lean ====
section
/-! DEFINITION. The state of one KG4 module as plain data: every register, memory, queue, counter and mode the spec
gives it, grouped by the chapter that owns it. The default value of each field is its value right after a recognised
reset (R289, R357); what the spec leaves open there is named in notes/assumptions. -/

namespace Sys2Proof.Machine
open Sys2Proof

/-- A finite map: keys strictly rising, no entry equal to the map's default (`SMap.wf`). -/
abbrev SMap (α : Type) := List (Nat × α)

/-- Byte-addressed memory in the same canonical form; an unlisted byte reads 0 (R165). -/
abbrev Memory := List Host.Cell

/-! ## Power, reset, boot -/

/-- The option bytes in force (Table 14-5). -/
structure Options where
  generation : Word := 0
  wihornPref : Bool := false
  fwPref : Bool := false
  containLimit : BitVec 4 := 3
  cxlLink : BitVec 3 := 0
  containWindow : BitVec 11 := 60
  pwrCap : BitVec 16 := 2800
  i3cAddr : BitVec 7 := 0x2C
  portDark : BitVec 96 := 0
  deriving DecidableEq, Repr

/-- One image-signing key slot (R339). -/
structure KeySlot where
  key : List Byte := []
  enrolled : Bool := false
  revoked : Bool := false
  debug : Bool := false
  deriving DecidableEq, Repr

/-- What the fuse map maps out of one tor (R107): a cube row, or the tor. -/
inductive FuseRepair where
  | row (m : BitVec 2) | tor
  deriving DecidableEq, Repr

/-- The fuse map and key store (after "Fuse map and pin states", R339, R368): survives reset. -/
structure Fuses where
  serial : Word := 0
  repair : List (Nat × FuseRepair) := []
  pinCode : List (BitVec 3) := [1, 0, 0, 2, 2, 2, 2]
  pinMask : List (BitVec 5) := [0b01011, 0b11001, 0b11001, 0b11111, 0b11111, 0b11111, 0b11111]
  svn : BitVec 8 := 0
  debugOpened : Bool := false
  keys : List KeySlot := [{ enrolled := true, debug := true }, {}, {}, {}]
  deriving DecidableEq, Repr

/-- An entry of the start-attempt record (R300). -/
inductive StartEntry where
  | increment | clear | base (n : Nat) | damaged
  deriving DecidableEq, Repr

/-- An entry of the containment log (Table 14-4). -/
structure LogEntry where
  serviceS : Nat
  cause : Byte
  chainEnd : Bool
  pending : Bool
  step : Word
  damaged : Bool := false
  deriving DecidableEq, Repr

/-- The option-byte copy of a delivered module: the factory defaults of Table 14-5, GENERATION 0, with its check word. -/
def deliveredOptions : List Byte :=
  [0x42, 0x4F, 0x47, 0x4B, 1, 0, 0, 0, 0, 0, 0, 0, 0, 0, 0, 0, 0, 0, 3, 0, 60, 0, 0xF0, 0x0A, 0x2C] ++ List.replicate 4063 0
    ++ [137, 228, 45, 209, 112, 75, 8, 250]

/-- The NOR flash (Table 14-3): survives reset. At reset it holds what chapter 0 says of delivery: both option-byte
copies at factory defaults and no slot written. An empty byte list is an erased region. The factory firmware and the
factory default structure are constants of Config. -/
structure Flash where
  optA : List Byte := deliveredOptions
  optB : List Byte := deliveredOptions
  startLog : List StartEntry := []
  containLog : List LogEntry := []
  fwA : List Byte := []
  fwB : List Byte := []
  wihornA : List Byte := []
  wihornB : List Byte := []
  deriving DecidableEq, Repr

/-- Power, pins, governor, time base (R15, R287 to R290, R336, R337, R365 to R370). -/
structure Power where
  railsValid : Bool := true
  boardPwrgd : Bool := true
  resetPin : Bool := false
  held : Bool := true
  tripped : Bool := false
  thermtripLow : Bool := false
  ticks : Word := 0
  refclkLost : Bool := false
  faultLow : Bool := false
  sensed : Bool := false
  gpio : List (BitVec 3) := [0, 0, 0, 0]
  extest : Bool := false
  extestPins : List (Nat × BitVec 3) := []
  capW : BitVec 16 := 0
  capCeiling : BitVec 16 := 2800
  windows : List (BitVec 16) := []
  tjMax : BitVec 8 := 0
  dieTemps : List (BitVec 8) := []
  pkgTemps : List (BitVec 8) := []
  coreMv : BitVec 10 := 0
  inputW : BitVec 16 := 0
  limiting : Bool := false
  belowRange : Bool := false
  capUnmet : Bool := false
  deriving DecidableEq, Repr

/-- RST_STATUS, OPT_STATUS and the boot sequencer (R294 to R302). -/
structure Boot where
  mode : BitVec 2 := 0
  step : BitVec 4 := 0
  links : Bool := false
  failedStep : BitVec 4 := 0
  failCause : Byte := 0
  failDetail : Byte := 0
  startCount : BitVec 4 := 0
  source : BitVec 2 := 0
  cxlUp : Bool := false
  selfChecked : Bool := false
  optSource : BitVec 2 := 0
  optDefaulted : Bool := false
  aCause : Byte := 0
  bCause : Byte := 0
  opts : Options := {}
  optCopy : List Byte := []
  fwSource : BitVec 2 := 0
  runSvn : BitVec 8 := 0
  fwRelease : Word := 0
  deriving DecidableEq, Repr

/-- RST_CONTAIN, RST_BLOCK, ERR_* and the access-error register (chapters 12 to 14, 17). -/
structure Errors where
  containState : BitVec 2 := 0
  containCause : Byte := 0
  containCount : BitVec 4 := 0
  logPending : Bool := false
  blockId : BitVec 16 := 0
  blockResult : Byte := 0
  blockRunning : Option (BitVec 16) := none
  causeValid : Bool := false
  secondary : BitVec 8 := 0
  ordinal : BitVec 4 := 0
  row : BitVec 3 := 7
  tor : TorIdx := 0
  cause : Byte := 0
  tileFailures : BitVec 32 := 0
  niFaults : BitVec 16 := 0
  skips : BitVec 16 := 0
  hangBlock : BitVec 16 := 0xFFFF
  hangKind : BitVec 4 := 0
  hangProgress : BitVec 32 := 0
  deadlines : List (BitVec 32) := [2000000, 2000000, 100000, 1000000, 2000000, 1000000, 100000000]
  accValid : Bool := false
  accCount : BitVec 16 := 0
  accKind : BitVec 2 := 0
  accOffset : BitVec 26 := 0
  deriving DecidableEq, Repr

/-! ## The Wihorn image -/

/-- A CONTEXTS entry (Table 15-2). -/
structure CtxEntry where
  valid : Bool := false
  pilot : Bool := false
  keySlot : BitVec 2 := 0
  flowFirst : Nat := 0
  flowCount : Nat := 0
  ridges : BitVec 128 := 0
  accFirst : Nat := 0
  branchMask : BitVec 16 := 0
  accCount : Nat := 0
  deriving DecidableEq, Repr

/-- A context's window and retained region (Table 09-7), in bytes. -/
structure Region where
  winBase : Nat := 0
  winSize : Nat := 0
  retBase : Nat := 0
  retSize : Nat := 0
  deriving DecidableEq, Repr

/-- The PLAN section (Table 02-15). -/
structure Plan where
  ownAddr : BitVec 15 := 0
  ropeSize : Nat := 1
  ropeCount : Nat := 1
  rangeLimit : Nat := 1
  minDirect : Nat := 0
  minUplinks : Nat := 0
  ports : List (BitVec 32) := []
  detour : List (BitVec 16) := []
  groups : List (BitVec 32) := []
  deriving DecidableEq, Repr

/-- The policy thresholds (Table 02-6). -/
structure Thresholds where
  jumpUp : Byte := 0x20
  jumpDown : Byte := 0x20
  agree : Byte := 0x04
  stormFraction : Byte := 32
  raiseFraction : Byte := 8
  dropFraction : Byte := 128
  stormRun : Byte := 8
  deriving DecidableEq, Repr

/-- A parsed Wihorn image (R28, R378 to R382), with its digests. -/
structure Wihorn where
  serial : Word := 0
  effStep : Word := 0
  effCtx : CtxIdx := 0
  contexts : List CtxEntry := []
  fusion : BitVec 128 := 0
  branches : BitVec 512 := 0
  hdmBase : Nat := 0
  hdmSize : Nat := 0
  moraineBase : Nat := 0
  moraineSize : Nat := 0
  regions : List Region := []
  plan : Plan := {}
  arbiter : List (BitVec 16) := []
  tied : Bool := false
  thresholds : Thresholds := {}
  stormStep : Bool := false
  rangeLimited : Bool := false
  persistentStorm : Bool := false
  interval : Nat := 32
  rota : List Byte := []
  repair : List (BitVec 32) := []
  structDigest : Digest := 0
  policyDigest : Digest := 0
  deriving DecidableEq, Repr

/-- IMG_STATUS.STAGE_STATE. -/
inductive StageState where
  | empty | checking | pending
  deriving DecidableEq, Repr

/-- The image registers, the staged image and the active one (chapter 2). `stagedBytes` holds the copy under check
while CHECKING. -/
structure Image where
  stageAddr : BitVec 36 := 0
  stageLen : BitVec 20 := 0
  failedSection : BitVec 16 := 0
  cause : Byte := 0
  lastOutcome : BitVec 4 := 0
  stage : StageState := .empty
  stagedBytes : Option (List Byte) := none
  pending : Wihorn := {}
  activeSource : BitVec 2 := 0
  defaulted : Bool := false
  active : Wihorn := {}
  shapeGen : Word := 0
  shapeLinks : Word := 0
  deriving DecidableEq, Repr

/-! ## The schedule image -/

/-- A tor table entry with its micro-batch map (Table 02-21). -/
structure TorEntry where
  tor : Nat
  stream : Nat
  map : List Byte
  deriving DecidableEq, Repr

/-- A shard table entry (Table 02-21). -/
structure ShardEntry where
  param : Nat
  member : Nat
  first : Nat
  count : Nat
  deriving DecidableEq, Repr

/-- A stream of the PROGRAMS section (R386). -/
structure Stream where
  words : List (BitVec 128)
  tiles : List (BitVec 256)
  drains : List (BitVec 64)
  deriving DecidableEq, Repr

/-- A loaded schedule image (R39, R383 to R388). -/
structure Sched where
  keySlot : BitVec 2 := 0
  bindDigest : Digest := 0
  ctx : Nat := 0
  needMem : List Nat := []
  needRange : Nat := 0
  needUp : Nat := 0
  needPeers : Nat := 0
  descs : List (BitVec 512) := []
  params : List (BitVec 256) := []
  groups : List (BitVec 512) := []
  scheds : List (BitVec 512) := []
  multi : List (Nat × Nat) := []
  seed : Word := 0
  gMax : F32 := 0
  position : Nat := 0
  mbCount : Nat := 1
  tors : List TorEntry := []
  positions : List (Nat × Nat) := []
  shards : List ShardEntry := []
  inputs : List (Nat × Nat × Nat × Nat) := []
  swbBase : Nat := 0
  recordBase : Nat := 0
  phases : List Byte := []
  streams : List Stream := []
  loads : List (BitVec 256) := []
  alts : List (BitVec 256) := []
  plans : List (List (BitVec 256)) := []
  posList : List Nat := []
  tokens : List (Nat × Nat × Nat) := []
  routes : List (BitVec 16) := []
  cairnTree : List (BitVec 16) := []
  modelDigest : Digest := 0
  placementDigest : Digest := 0
  deriving DecidableEq, Repr

/-! ## The tor -/

/-- A delivered operand block: base and plane bursts (FLAGS, E, payload) and scree entries; `xpose` marks a block
that passed the transpose unit (R174), `poison` a poisoned base burst, `finePoison` a poisoned plane or scree burst. -/
structure Block where
  base : BitVec 272 := 0
  p1 : BitVec 272 := 0
  p2 : BitVec 272 := 0
  planes : Nat := 0
  scree : List (BitVec 32) := []
  xpose : Bool := false
  poison : Bool := false
  finePoison : Bool := false
  deriving DecidableEq, Repr

/-- A tile instruction in the pass queue (R123): the rung it runs at and its number among the tor's tile words, which
names its operand blocks in the staging ring (R131). -/
structure PassReq where
  conv : Bool := false
  op : TileOp := default
  rung : Nat := 0
  uid : Nat := 0
  deriving DecidableEq, Repr

/-- A cause that a pass met before its row's segment end: the logical row, the Table 12-1 code, the physical row or 7. -/
structure MetCause where
  row : Nat
  cause : Nat
  phys : Nat
  deriving DecidableEq, Repr

/-- A pass in the array: ceilings and anchor latched at its start (R121, R83), the wave number, and one set of registers:
the segment and exact registers with their residues (R82, R87). Register keys are 16 · row + column. -/
structure Pass where
  req : PassReq := {}
  aDesc : BitVec 512 := 0
  bDesc : BitVec 512 := 0
  outDesc : BitVec 512 := 0
  drain : BitVec 64 := 0
  tile : BitVec 256 := 0
  wave : Nat := 0
  seg : SMap Int := []
  segRes : SMap Nat := []
  exact : SMap Int := []
  res : SMap Nat := []
  met : List MetCause := []
  deriving DecidableEq, Repr

/-- A tor's error record (R88): the tor, the tile word's number, the physical row or 7, the Table 12-1 code. -/
structure FailRecord where
  tor : Nat
  uid : Nat
  row : Nat
  cause : Nat
  deriving DecidableEq, Repr

/-- The counts of R66 with the largest E, and the least E, of the blocks with ZERO = 0 (R71). -/
structure Counts where
  blocks : Nat := 0
  sat : Nat := 0
  unf : Nat := 0
  esc : Nat := 0
  low : Nat := 0
  maxE : Nat := 0
  minE : Option Nat := none
  deriving DecidableEq, Repr

/-- A converted block on its way to a destination: sequence index, its bursts' 272 bits, scree entries. -/
structure OutBlock where
  seq : Nat
  bursts : List (BitVec 272)
  scree : List (BitVec 32) := []
  deriving DecidableEq, Repr

/-- A drain-buffer entry (R132): the pass's converted output, its counts and its log-norm (R143, R144). -/
structure DrainBuf where
  uid : Nat
  tile : Nat
  drain : BitVec 64
  ceiling : Nat
  blocks : List OutBlock
  raw : List (Nat × List (Int × Int)) := []
  counts : Counts
  norm : Bool
  logNorm : Int
  rung : Nat
  sat32 : Nat := 0
  decided : Bool := false
  deriving DecidableEq, Repr

/-- A queued load stream (R131): how many of its blocks have been delivered, whether its plane reads are dynamic
(R175), the tile word it belongs to, whether a PRE word queued it (R141), whether the block at hand has asked for its remote
planes (R151), and whether it fills the staging ring. -/
structure LoadReq where
  stream : Nat
  done : Nat := 0
  dyn : Bool := false
  owner : Nat := 0
  uid : Nat := 0
  pre : Bool := false
  word : Nat := 0
  asked : Bool := false
  ring : Bool := false
  deriving DecidableEq, Repr

/-- A burst that reached the loader: its 272 bits, or poison. -/
structure Arrival where
  present : Bool := false
  poison : Bool := false
  d : BitVec 272 := 0
  deriving DecidableEq, Repr

/-- An effect that waits for earlier words of its tor (R134, R138 to R141, R237): the numbers of the passes and
tor-store loads outstanding when it was issued. -/
inductive LaterOp where
  | signal (token : Nat) (sysaddr : BitVec 15) (remote : Bool) (inc : Nat)
  | hand (desc tile chunk slot : Nat) (word : Nat)
  | ceilReport (tile desc : Nat)
  | voidReport (tile desc : Nat)
  | stepReport (pre : Nat)
  | failedHand (desc tile chunk slot : Nat) (word : Nat)
  deriving DecidableEq, Repr

structure Later where
  op : LaterOp
  passes : List Nat
  loads : List Nat
  deriving DecidableEq, Repr

/-- A return-stack entry: the word to return to, and what CALL, ALT or SETTLE the call was (R115, R137, R138). -/
structure RetFrame where
  addr : Nat
  rung : Nat := 0
  settle : Bool := false
  deriving DecidableEq, Repr

/-- An open LOOP (R389): first body word, body length, runs left, stack depth at which it opened. -/
structure LoopFrame where
  start : Nat
  len : Nat
  left : Nat
  depth : Nat
  deriving DecidableEq, Repr

/-- One tor (chapters 6 and 7). `pass` and `tail` hold the two register sets (R98): the newest pass in the array, and the
one before it while its last rows finish and its output drains. `queues` are the rows' outlier queues (R105), `bufDelays`
and `cubeDelays` the two copies of each logical row's delay (R102); `rowBuffer` and `feeders` hold the slices and blocks
last presented (R98, R102); `failedNow` names the rows (5: the tor) that failed since the last cairn instant, `discard`
the bursts of dropped loads that are still to arrive (R131); a tor with PRE words left at its release is `released`, and
`startHeld` once the next step waits for them (R141). A register absent from `v`, `s`, `p` was not written since word 0 of
the step and reads a free value of generation `gen`, or 0 where a block reset cleared it (`zeroed`). -/
structure Tor where
  rowOut : BitVec 3 := 7
  source : BitVec 2 := 0
  mappedOut : Bool := false
  stagedOut : BitVec 3 := 7
  stagedTor : Bool := false
  corrected : BitVec 8 := 0
  torFail : BitVec 4 := 0
  failCount : BitVec 20 := 0
  cleanSteps : List Nat := [0, 0, 0, 0, 0, 0]
  freezeWaves : BitVec 32 := 0
  outlierProducts : BitVec 32 := 0
  pc : BitVec 32 := 0
  stack : List RetFrame := []
  loops : List LoopFrame := []
  lastFault : Byte := 0
  state : BitVec 3 := 0
  stopped : Bool := false
  v : SMap (BitVec 1024) := []
  s : SMap Word := []
  p : SMap (BitVec 32) := []
  fpf : BitVec 5 := 0
  gen : Nat := 0
  zeroed : Bool := false
  store : Memory := []
  ringA : SMap (SMap Block) := []
  ringB : SMap (SMap Block) := []
  ringPoison : List Nat := []
  aXpose : List Nat := []
  arrived : SMap Arrival := []
  loads : List LoadReq := []
  tileSeq : Nat := 0
  loadSeq : Nat := 0
  later : List Later := []
  altWait : Bool := false
  deqWait : Bool := false
  settleTile : Option (Nat × Nat) := none
  passes : List PassReq := []
  pass : Option Pass := none
  tail : Option Pass := none
  queues : List Nat := [0, 0, 0, 0]
  bufDelays : List (BitVec 4) := [0, 1, 2, 3]
  cubeDelays : List (BitVec 4) := [0, 1, 2, 3]
  rowBuffer : SMap (BitVec 64) := []
  feeders : SMap (SMap Block) := []
  failedNow : List Nat := []
  failRecord : Option FailRecord := none
  discard : List Nat := []
  drains : List DrainBuf := []
  failedTiles : List Nat := []
  tileRung : SMap Nat := []
  reported : Bool := false
  preLeft : Nat := 0
  preDone : Nat := 0
  released : Bool := false
  startHeld : Bool := false
  preFail : List Nat := []
  waitToken : Option (Nat × Nat × Bool) := none
  deriving DecidableEq, Repr

/-! ## Memory system -/

/-- A read the subchannel has granted: the 288 bits it took, and whether a write reached the burst since (R169). -/
structure InFlight where
  req : MemReq
  raw : Burst := 0
  stale : Bool := false
  deriving DecidableEq, Repr

/-- A subchannel (R164, R175 to R181). `queue` holds the waiting requests in order of arrival; `recent` bit i: the i-th
last grant was dynamic. `rounds` holds each arbiter's position and quota used (R179). -/
structure Subchannel where
  queue : List MemReq := []
  recent : BitVec 16 := 0
  rounds : SMap (Nat × Nat) := []
  inflight : List InFlight := []
  corrected : BitVec 32 := 0
  lastCeLoc : BitVec 28 := 0
  dynamic : BitVec 32 := 0
  scheduled : BitVec 32 := 0
  scrubLoc : Nat := 0
  scrubPass : Nat := 0
  scrubDue : Bool := false
  deriving DecidableEq, Repr

/-- Module memory and its controllers (chapter 9). -/
structure Mem where
  cells : Memory := []
  subs : SMap Subchannel := []
  poisonReads : BitVec 16 := 0
  scrubPoison : Nat := 0
  ueSource : BitVec 4 := 0
  multiUe : Bool := false
  ceHigh : Bool := false
  initDone : Bool := false
  contained : Bool := false
  ueAddr : BitVec 36 := 0
  ueSynd : BitVec 16 := 0
  interval : BitVec 16 := 0xA7A3
  scrubPasses : Nat := 0
  returnBuf : SMap (List (Nat × BitVec 272)) := []
  noKeep : List (Nat × Nat) := []
  deriving DecidableEq, Repr

/-! ## Links -/

/-- A packet: header fields of Table 10-2 as one vector, and its payload. -/
structure Packet where
  header : BitVec 256
  payload : List Byte
  deriving DecidableEq, Repr

/-- A link port (R186 to R207). `rxSlots` are the held receive slots with the kind of credit each took (0 control, 1
data, 2 shared). `freed` counts the slots of each kind freed since the link trained, `returned` the neighbour's counts as
its last valid control frame gave them; `retry` holds the unacknowledged packets with their sends. -/
structure Port where
  state : BitVec 4 := 0
  outcome : BitVec 4 := 0
  rtt : BitVec 16 := 0
  neighAddr : BitVec 15 := 0
  neighPort : BitVec 7 := 0
  digest : BitVec 256 := 0
  claimed : Bool := false
  uncorrCw : BitVec 8 := 0
  hopLimit : BitVec 8 := 0
  malformed : BitVec 8 := 0
  window : BitVec 8 := 0
  stale : BitVec 8 := 0
  dupDrops : BitVec 8 := 0
  retries : BitVec 16 := 0
  corrected : BitVec 64 := 0
  rxNext : BitVec 8 := 0
  rxSlots : List (Packet × Nat) := []
  nak : Bool := false
  creditCtl : Nat := 2
  creditData : Nat := 2
  creditShared : Nat := 12
  txNext : BitVec 8 := 0
  retry : List (Packet × Nat) := []
  ctlQ : List Packet := []
  dataQ : List Packet := []
  freed : List Nat := [0, 0, 0]
  returned : List Nat := [0, 0, 0]
  cwTicks : List Word := []
  returnAtCairn : Bool := false
  deriving DecidableEq, Repr

/-- A flow entry (R196); `wait` holds the packets beyond the window with the exit slot their sender named. -/
structure Flow where
  nextSeq : BitVec 32 := 0
  acked : BitVec 32 := 0
  base : BitVec 32 := 0
  seen : BitVec 256 := 0
  lastAck : BitVec 32 := 0
  wait : List (Packet × Option Nat) := []
  deriving DecidableEq, Repr

/-- Links, flows, discovery (chapter 10). `aheadSeen` holds (flow, SEQ) of the TOKEN packets that were taken a step ahead
(R197); `unreachable` the peers already reported; `settled` says that discovery has settled once since reset (R202). -/
structure Links where
  ports : SMap Port := []
  flows : SMap Flow := []
  slotFlows : SMap Flow := []
  aheadSeen : List (Nat × BitVec 32) := []
  rangeMaps : SMap (List (BitVec 2)) := []
  state : BitVec 3 := 0
  belowMin : Bool := false
  unreachable : BitVec 33 := 0
  control : BitVec 7 := 0
  settled : Bool := false
  deriving DecidableEq, Repr

/-! ## Collectives and the update -/

/-- A reduction accumulator (Table 11-2, R239): one XP block in 96-bit form with its TOUCH, and the residues of its
mantissas modulo 127. -/
structure Acc where
  zero : Bool := true
  b : Nat := 0
  m : List Int := []
  sat : Bool := false
  unf : Bool := false
  touch : Nat := 0
  residues : List Nat := []
  deriving DecidableEq, Repr

/-- What a node knows of one source: packets accepted, announced, blocks delivered. -/
structure SrcState where
  accepted : Nat := 0
  announced : Option Nat := none
  blocks : List Nat := []
  deriving DecidableEq, Repr

/-- A node entry at work (R215): reduction or gather. -/
structure Node where
  contrib : Nat := 0
  localDone : Bool := false
  srcs : SMap SrcState := []
  accs : SMap Acc := []
  complete : Bool := false
  broken : Bool := false
  failed : Bool := false
  gathered : SMap (BitVec 272 × List (BitVec 32)) := []
  sent : Bool := false
  deriving DecidableEq, Repr

/-- One HAND of the step (R140, R235). -/
structure Handed where
  tor : Nat
  word : Nat
  ordinal : Nat
  desc : Nat
  chunk : Nat
  slot : Nat
  blocks : List Nat
  failed : Bool
  deriving DecidableEq, Repr

/-- A block of values at a ridge port that waits for its rotation group (R77): its tile, rung, ceiling and values. -/
structure RotPart where
  tile : Nat := 0
  rung : Nat := 0
  ceiling : Nat := 0
  fresh : Bool := false
  vals : List (Int × Int) := []
  deriving DecidableEq, Repr

/-- A schedule's registers (R231). -/
structure SchedReg where
  q : Nat := 0
  len : Nat := 0
  cyc : Nat := 0
  eta : F32 := 0
  deriving DecidableEq, Repr

/-- A coefficient row's registers (R231) and its flag word (R95). -/
structure RowReg where
  p1 : F32 := 0x3F800000
  p2 : F32 := 0x3F800000
  k1 : F32 := 0x3F800000
  k2 : F32 := 0x3F800000
  fpf : BitVec 5 := 0
  deriving DecidableEq, Repr

/-- NI_, UPD_, SCH_ registers that belong to the module (chapter 11). -/
structure Ni where
  attempt : BitVec 2 := 0
  failedChunks : BitVec 16 := 0
  countOverflow : Bool := false
  accWait : Bool := false
  badSource : BitVec 16 := 0
  badAttempt : BitVec 16 := 0
  late : BitVec 16 := 0
  blockDup : BitVec 16 := 0
  blocksUpdated : BitVec 32 := 0
  nonfinite : Bool := false
  normSq : F32 := 0
  factor : F32 := 0x3F800000
  step : Word := 0
  schedCtx : CtxIdx := 0
  deriving DecidableEq, Repr

/-! ## Contexts -/

/-- A feed entry as read (Table 15-5). -/
abbrev FeedEntry := List Byte

/-- The operation of a context between its start and its end (R326). -/
inductive Operation where
  | none | load (e : FeedEntry) | restore (e : FeedEntry) | checkpoint (e : FeedEntry)
  deriving DecidableEq, Repr

/-- A completion record (Table 15-7) without its PHASE. -/
structure CplRecord where
  tag : BitVec 32
  op : Byte
  status : Byte
  cause : Byte := 0
  committed : Bool := false
  step : Word := 0
  feedPos : Word := 0
  recordSeq : Word := 0
  detail : Word := 0
  deriving DecidableEq, Repr

/-- An accepted STEP entry (R319). -/
structure StepEntry where
  tag : BitVec 32
  seq : Word
  mask : BitVec 16
  inputs : List (BitVec 128)
  read : BitVec 16 := 0
  deriving DecidableEq, Repr

/-- A tensor's settle in progress (R71). `reports` maps a producing tile's key to its report; `void` marks a void
report (R237). -/
structure CeilReport where
  counts : Counts := {}
  void : Bool := false
  deriving DecidableEq, Repr

/-- The outcome a tile's SETTLE waits for (R138). -/
inductive SettleOutcome where
  | waiting | rerunRaised | rerunDropped | settled | limited
  deriving DecidableEq, Repr

structure Settle where
  ceiling : Nat := 0
  moves : Nat := 0
  raised : Bool := false
  dropped : Bool := false
  reports : SMap CeilReport := []
  outcomes : SMap SettleOutcome := []
  settled : Bool := false
  deriving DecidableEq, Repr

/-- A switchback table entry (Table 08-1) and the rung-0 log-norm of this step's ladder (R148). -/
structure Swb where
  ref : Int := 0
  valid : Bool := false
  stickyRung : Nat := 0
  stickyLeft : Nat := 0
  deriving DecidableEq, Repr

/-- What one tile adds to Table 08-3 in a step: the events of its ladder and the counts of its kept pass. A ceiling
re-run starts it anew (R72). -/
structure Tally where
  tested : Nat := 0
  up : Nat := 0
  down : Nat := 0
  rung1 : Nat := 0
  rung2 : Nat := 0
  genuine : Nat := 0
  stickySet : Nat := 0
  noWider : Nat := 0
  stormJumps : Nat := 0
  sat32 : Nat := 0
  kept : Counts := {}
  deriving DecidableEq, Repr

/-- A tile's ladder in the current step: start rung, l0, selector (0 KEEP), whether final, whether it jumped, whether
its ALT chose storm mode, whether it replays a belay's ordinal (R248), and the working entry before its first pass. -/
structure Ladder where
  start : Nat := 0
  l0 : Option Int := none
  sel : Nat := 0
  seen : Bool := false
  final : Bool := false
  jumped : Bool := false
  storm : Bool := false
  replay : Bool := false
  before : Option Swb := none
  tally : Tally := {}
  deriving DecidableEq, Repr

/-- Per-step event counts of Table 08-3 and Table 12-5 beside the tiles' tallies; `conv` counts the blocks of QNT and
ROTQ (R128). -/
structure StepCounts where
  rangeLimited : Nat := 0
  raises : Nat := 0
  drops : Nat := 0
  conv : Counts := {}
  planeFetch : Nat := 0
  staleTokens : Nat := 0
  tileFailures : Nat := 0
  fpfTors : BitVec 5 := 0
  feedWait : Nat := 0
  tickStart : Word := 0
  deriving DecidableEq, Repr

/-- A belay this module takes part in (R247 to R250, R270). -/
structure Belay where
  role : Nat := 0
  subject : Nat := 0
  partner : Nat := 0
  ordinal : Nat := 0
  suspect : Bool := false
  restore : Bool := false
  outcome : Nat := 0
  ownDigest : Option (BitVec 64) := none
  peerDigest : Option (BitVec 64) := none
  swb : SMap Swb := []
  ceilings : List (Nat × BitVec 8) := []
  inputs : List (Nat × List Byte) := []
  mask : BitVec 16 := 0
  arrivedState : Bool := false
  deriving DecidableEq, Repr

/-- A remote plane fetch on its way (R151): the position it went to, and the plane burst it asks for. -/
structure PlaneFetch where
  source : Nat
  desc : Nat
  seq : Nat
  addr : Nat
  plane : Nat
  deriving DecidableEq, Repr

/-- A context (chapter 15) with its run's state (chapters 4, 7, 8, 11 to 13). `pol` holds the image whose policy
sections are in force for the step under way (R36); `inStep` marks a step between its start and its cairn instant;
`twinGot` the twin digests received, as (attempt, shard, rope, digest), `twinTo` the positions that
got the own ones (R252); `fetches` the plane fetches on their way (R151); `held` the COLL and GATHER packets that wait for
an accumulator range or for the state copy (R218, R268); `copyFrom`
the source that has the report of the loaded image (R267); `lateFailed` the ordinals that fail once the verdict is held,
which count in the step that follows (R24). -/
structure Context where
  state : BitVec 4 := 0
  epoch : Byte := 0
  retired : Byte := 0
  lastCause : Byte := 0
  hold : BitVec 4 := 0
  feedWait : Bool := false
  inStep : Bool := false
  waitFrom : Option Word := none
  lineDirty : Bool := false
  ckptQ : List FeedEntry := []
  abortTag : BitVec 32 := 0
  cplIrq : Bool := false
  abortNow : Bool := false
  abortStep : Word := 0
  ringBase : BitVec 52 := 0
  ringOrder : BitVec 5 := 0
  cplBase : BitVec 52 := 0
  cplOrder : BitVec 5 := 0
  winBase : BitVec 52 := 0
  winSize : BitVec 52 := 0
  feedPos : Word := 0
  outHost : Nat := 0
  endStep : Word := 0
  ringSet : Bool := false
  lineHeld : Bool := false
  lineRead : Bool := false
  producer : Word := 0
  consumer : Word := 0
  cplHead : Word := 0
  cplCount : Word := 0
  cplWait : List CplRecord := []
  feedQ : List FeedEntry := []
  op : Operation := .none
  abortAt : Option (Word × BitVec 32) := none
  startTag : BitVec 32 := 0
  image : Option Sched := none
  restored : Bool := false
  undefinedState : Bool := false
  step : Word := 0
  committed : Word := 0
  stepEntries : List StepEntry := []
  current : Option StepEntry := none
  recordSeq : Word := 0
  key : Option (BitVec 256) := none
  key2 : List (Nat × BitVec 64) := []
  swb : SMap Swb := []
  swbWork : SMap Swb := []
  ladders : SMap Ladder := []
  ceilings : SMap Nat := []
  live : SMap Nat := []
  settles : SMap Settle := []
  entryPhase : Option Nat := none
  verdicts : List Bool := []
  stormRun : BitVec 8 := 0
  stormRaised : Bool := false
  tokens : SMap (BitVec 16) := []
  tokenPend : List TokenMsg := []
  tokenGot : SMap Nat := []
  tokenOverflow : Bool := false
  standIn : SMap Nat := []
  mbFailed : BitVec 16 := 0
  lateFailed : BitVec 16 := 0
  counts : StepCounts := {}
  loss : List F32 := []
  pointer : Nat := 0
  stamped : List Nat := []
  unseen : List Nat := []
  planIdx : Nat := 0
  nonfinite : Bool := false
  planeValid : SMap Bool := []
  handed : List Handed := []
  nodes : SMap Node := []
  grads : SMap (List F32) := []
  rotBuf : SMap (SMap RotPart) := []
  touched : List Nat := []
  heldOwn : List Nat := []
  failedOwn : List Nat := []
  written : List Nat := []
  chunkPassed : List Nat := []
  requantised : List Nat := []
  badGroups : List Nat := []
  shardDigest : SMap (BitVec 64) := []
  screeOut : List (Nat × Nat × Nat × Nat) := []
  twinMismatch : List Nat := []
  twinGot : List (Nat × Nat × Nat × BitVec 64) := []
  srcDigests : List (Nat × BitVec 64) := []
  twinTo : List Nat := []
  twinPrev : List Nat := []
  twinAll : List Nat := []
  pol : Wihorn := {}
  clipN : Nat := 0
  clipTotal : Nat := 0
  factor : F32 := 0x3F800000
  scheds : SMap SchedReg := []
  rows : SMap RowReg := []
  attempt : BitVec 2 := 0
  phase : BitVec 3 := 0
  reports : List CairnReport := []
  reportAt : Option Word := none
  summaries : SMap (List CairnReport) := []
  verdict : Option Verdict := none
  lastVerdict : Option Verdict := none
  excluded : List (BitVec 32) := []
  declaredAt : List Nat := []
  belays : List Belay := []
  divergence : SMap Nat := []
  copied : List Nat := []
  copyDone : Bool := false
  held : List CollMsg := []
  stateTaken : Bool := false
  copyFrom : Option Nat := none
  fetches : List PlaneFetch := []
  overflowed : Bool := false
  undrained : Bool := false
  deriving DecidableEq, Repr

/-! ## Membership, cairn, containment, events, host, security -/

/-- CRN_ registers and membership (chapters 12, 13). `members` is the membership record of every range (R241): a
position's slot and whether it is ACTIVE, none where it is VACANT; `spares` gives each range's spare slot. `declared` and
`proposed` belong to the current step, `declaredBy` gives each declaration's ground: the slot whose PROPOSE it followed
(R243), 64 a ground of the own range's that cannot be void, 65 a declaration from another range; `withdrew` names the
slots that sent WITHDRAW; `heard` belongs to R242, `watched` and `mismatches` to R250, `follow` to R263 (the step and N
last committed in a context), `restoreTried` to R271. -/
structure Cairn where
  epoch : BitVec 32 := 0
  ownState : BitVec 2 := 3
  ownSlot : BitVec 6 := 0
  ownPos : BitVec 14 := 0
  members : SMap (Nat × Bool) := []
  spares : List (Nat × Nat) := []
  reportTimeout : BitVec 32 := 0x02FAF080
  hbTimeout : BitVec 32 := 0x001E8480
  lastOutcome : BitVec 4 := 0
  skipCause : BitVec 4 := 0
  watch : Bool := false
  timeout : Bool := false
  recordSeq : Word := 0
  declared : List Nat := []
  declaredBy : List (Nat × Nat) := []
  withdrew : List Nat := []
  proposed : List Nat := []
  heard : SMap Word := []
  withdrawn : Bool := false
  joins : List (Nat × Nat × Digest) := []
  watched : List (Nat × Nat) := []
  mismatches : List (Nat × Nat) := []
  follow : SMap (Nat × Nat) := []
  restoreTried : List (Nat × Nat) := []
  restoreHold : Bool := false
  lostMask : Byte := 0
  catchState : BitVec 2 := 0
  catchSteps : BitVec 16 := 0
  catchSubject : BitVec 14 := 0
  catchBelay : BitVec 2 := 0
  catchFails : Nat := 0
  deriving DecidableEq, Repr

/-- The dump engine (R280 to R283). `asked` is the number of blocks dealt with, in ascending block ID; `dir` the directory
of the full copy so far, `compact` the compact copy's records so far, `header` the compact copy's first 4 KiB. -/
structure Dump where
  active : Bool := false
  suspect : Bool := false
  deadline : Bool := false
  compactValid : Bool := false
  fullValid : Bool := false
  answered : BitVec 16 := 0
  noAnswer : BitVec 16 := 0
  asked : Nat := 0
  t0 : Word := 0
  dir : List (BitVec 128) := []
  compact : List Byte := []
  header : List Byte := []
  source : Bool := false
  window : BitVec 3 := 0
  deriving DecidableEq, Repr

/-- An event record (Table 16-3). -/
structure Event where
  code : BitVec 16
  cls : BitVec 2
  seq : BitVec 32
  ticks : Word
  step : Word
  detail : Word
  deriving DecidableEq, Repr

/-- Events, I3C, firmware update (chapter 16). -/
structure Mgmt where
  queue : List Event := []
  seq : BitVec 32 := 0
  lost : Bool := false
  receiver : Option Byte := none
  hostSeq : BitVec 32 := 0
  hostCls : BitVec 2 := 0
  hostNew : Bool := false
  hostCode : BitVec 16 := 0
  ready : Bool := false
  directAddr : BitVec 7 := 0
  mctpAddr : BitVec 7 := 0
  eid : Byte := 0
  updating : Bool := false
  targetFw : Option Bool := none
  targetWihorn : Option Bool := none
  blockedFuse : BitVec 16 := 0
  blockedPin : BitVec 16 := 0
  blockedHost : BitVec 16 := 0
  blockedLink : BitVec 16 := 0
  blockedRaised : Bool := false
  deriving DecidableEq, Repr

/-- The CXL port (R306 to R312). -/
structure HostPort where
  decoderBase : Word := 0
  committed : Bool := false
  snoop : List Nat := []
  waiting : List Nat := []
  ideKeys : List (Nat × BitVec 256) := []
  ideOn : List Nat := []
  rate : BitVec 2 := 0
  narrow : Bool := false
  rasUncorrectable : Bool := false
  msixPending : BitVec 9 := 0
  reissue : Bool := false
  deriving DecidableEq, Repr

/-- A secured session (R345): set up once FINISH verified; `generation` counts its key updates. -/
structure Session where
  id : BitVec 16
  up : Bool := false
  generation : Nat := 0
  deriving DecidableEq, Repr

/-- SPDM and debug (R345 to R349); `boundary` is the preloaded boundary register. -/
structure Security where
  negotiated : Bool := false
  versioned : Bool := false
  capabilities : Bool := false
  sessions : List Session := []
  nextSession : BitVec 16 := 1
  challenge : Option (BitVec 128) := none
  debugOpen : Bool := false
  boundary : Word := 0
  deriving DecidableEq, Repr

/-- What the module sends to the world: newest first. -/
inductive Output where
  /-- A register or table read's value (R352, R353). -/
  | readData (v : List Byte)
  /-- A completion with Completer Abort status (R352). -/
  | completerAbort
  /-- Configuration Request Retry Status, or a successful completion (R298). -/
  | configRetry | configOk
  /-- Data, or poison, of a host CXL.mem read (R184). -/
  | memData (hpa : Word) (d : BitVec 512) | memPoison (hpa : Word)
  /-- BISnpInv, BISnpCur for a line (R309); RdShared, RdCurr, ItoMWr of CXL.cache (R311). -/
  | bisnp (line : Nat) (inv : Bool)
  | rdShared (hpa : Nat) | rdCurr (hpa len : Nat) | itoMWr (hpa : Nat) (d : List Byte)
  | snpResponse (hpa : Word)
  /-- An MSI-X message, vector 0 … 8 (R306). -/
  | msix (v : Nat)
  /-- An event record to the receiver or poller (R333). -/
  | eventMessage (e : Event) | noEvent
  /-- Management answers (Table 16-5, R332). -/
  | answer (what : String) (data : List Byte)
  | refusedCommand (why : String)
  /-- A membership, heartbeat, claim, control frame or cairn message (R193, R202, R240 to R255, R264). -/
  | heartbeatTo (slot : Nat) | proposeTo (slot peer : Nat) | withdrawTo (slot : Nat) | joinTo (slot : Nat) (digest : Digest)
  | claimOut (port : Nat) (addr : BitVec 15) | controlOut (port : Nat) (ack : Byte) (nak : Bool) (c d sh : Nat)
  | packetOut (port : Nat) (p : Packet) (crc : BitVec 64)
  /-- A received packet handed to its consumer, whose own command acts on it (R191). -/
  | handed (port : Nat) (p : Packet)
  | rangeMapOut (slot : Nat) (counts : List (BitVec 2))
  | reportOut (slot : Nat) (r : CairnReport)
  | summaryOut (dest range : Nat) (rs : List CairnReport) (joins : List (Nat × Digest))
  | verdictOut (v : Verdict) | digestOut (pos : Nat) (c : CtxIdx) (attempt : BitVec 2) (shard rope : Nat) (d : BitVec 64)
  | declarationOut (range pos : Nat)
  /-- Payload traffic handed to the links for a position (R133, R151, R215, R228, R248, R267). -/
  | tokenOut (addr : BitVec 15) (token : Nat) (inc : Nat) (step : BitVec 16) (ctxEpoch : Byte)
  | failedChunkOut (pos chunk : Nat)
  | fetchOut (pos : Nat) (addr : BitVec 36) (plane : BitVec 2)
  | fetchDataOut (pos : Nat) (addr : BitVec 36) (plane : BitVec 2) (d : List (BitVec 272))
  | belayOut (pos : Nat) (m : BelayMsg)
  | copyOut (pos : Nat) (items : List CopyItem)
  | flowAckOut (slot : Bool) (flow : Nat) (base : BitVec 32)
  deriving DecidableEq, Repr

end Sys2Proof.Machine

namespace Sys2Proof.Config

/-- ARG and payload of the packet that carries a message, where no rule lays them out: every TYPE but COLL (Table 11-1) and
CLAIM (chapter 10). Safe. -/
opaque messageArg (o : Machine.Output) : Word
opaque messagePayload (o : Machine.Output) : List Byte

end Sys2Proof.Config

namespace Sys2Proof.Machine
open Sys2Proof

/-- The whole module. `pending` is the queue of waiting commands; `free` counts free values used (the model's own
field, not the spec's). -/
structure State where
  pending : List Instr := []
  free : Nat := 0
  fuses : Fuses := {}
  flash : Flash := {}
  pwr : Power := {}
  boot : Boot := {}
  err : Errors := {}
  img : Image := {}
  tors : SMap Tor := []
  mem : Mem := {}
  links : Links := {}
  ni : Ni := {}
  ctxs : SMap Context := []
  crn : Cairn := {}
  dmp : Dump := {}
  mgt : Mgmt := {}
  host : HostPort := {}
  sec : Security := {}
  ceilInbox : List (CtxIdx × Nat × Nat × CeilReport) := []
  flbCounts : BitVec 64 := 0
  planeFetchTotal : BitVec 32 := 0
  prefetch : Bool := false
  out : List Output := []
  deriving DecidableEq, Repr

/-- Faults: the machine stops. -/
inductive Fault where
  /-- A memory request names an address at or above 0x180_0000_0000 (R161: no such address exists, and no requester
  but management can form one). Raised by MEMORY_REQUEST, SLOT_MERGE and DEBUG_ACCESS. Safe. -/
  | unpopulated (addr : Nat)
  deriving DecidableEq, Repr

/-- Refusals: no meaning for the command. -/
inductive Refusal where
  /-- The command's row has no meaning yet. Safe. -/
  | notModelled (mnemonic : String)
  /-- A tor word whose fields R116 or R117 reserve: no image that holds it loads, so it is never issued. Raised by the
  tor-word commands. Safe. -/
  | reservedEncoding (mnemonic : String)
  deriving DecidableEq, Repr

/-- The module in a recognised reset, RESET_L still low: every register at its reset value (R357), rails and board
power good valid, the queue empty. -/
def State.reset : State := {}

end Sys2Proof.Machine
end

