-- ==== Sys2Proof/Machine/Ops.lean ====
section
/-! DEFINITION. Shared operations: finite maps and memory, bit fields and byte order, saturating counts, free values,
events (R333), error causes (R236, R359), output, and access to the machine's parts. -/

namespace Sys2Proof.Machine
open Sys2Proof

/-! ## Finite maps -/

/-- The value at a key, or the map's default. -/
def mapGet {α : Type} (d : α) : SMap α → Nat → α
  | [], _ => d
  | (k, v) :: t, i => if k = i then v else mapGet d t i

/-- Puts a value into a rising list at a key, whatever the value. -/
def regPut {α : Type} : SMap α → Nat → α → SMap α
  | [], i, v => [(i, v)]
  | (k, w) :: t, i, v => if i < k then (i, v) :: (k, w) :: t else if i = k then (i, v) :: t else (k, w) :: regPut t i v

/-- Writes a key, keeping the keys rising and listing no default. -/
def mapSet {α : Type} [DecidableEq α] (d : α) (m : SMap α) (i : Nat) (v : α) : SMap α :=
  if v = d then m.filter (fun e => e.1 != i) else regPut m i v

/-- Keys strictly rising above a bound. -/
def keysAbove {α : Type} : Option Nat → SMap α → Bool
  | _, [] => true
  | none, (k, _) :: t => keysAbove (some k) t
  | some b, (k, _) :: t => decide (b < k) && keysAbove (some k) t

/-- The canonical form of a map with default `d`. -/
def mapWf {α : Type} [DecidableEq α] (d : α) (m : SMap α) : Bool :=
  keysAbove none m && m.all (fun e => decide (e.2 ≠ d))

/-- The canonical form of a memory: an unlisted byte reads 0 (R165). -/
def memWf (m : Memory) : Bool := mapWf 0 m

def memByte (m : Memory) (a : Nat) : Byte := mapGet 0 m a
def memSetByte (m : Memory) (a : Nat) (b : Byte) : Memory := mapSet 0 m a b

/-- n bytes from an address. -/
def memBytes (m : Memory) (a : Nat) : Nat → List Byte
  | 0 => []
  | n + 1 => memByte m a :: memBytes m (a + 1) n

def memSetBytes (m : Memory) (a : Nat) : List Byte → Memory
  | [] => m
  | b :: bs => memSetBytes (memSetByte m a b) (a + 1) bs

/-- Sets n bytes to zero. -/
def memClear (m : Memory) (lo hi : Nat) : Memory := m.filter (fun e => decide (e.1 < lo) || decide (hi ≤ e.1))

/-! ## Bits and bytes -/

/-- Little-endian bytes of a vector (R6). -/
def leBytes (n : Nat) {w : Nat} (x : BitVec w) : List Byte :=
  (List.range n).map (fun i => (x >>> (8 * i)).setWidth 8)

/-- The vector of width w that little-endian bytes spell (R6). -/
def ofLe (w : Nat) : List Byte → BitVec w
  | [] => 0
  | b :: bs => b.setWidth w ||| (ofLe w bs <<< 8)

/-- Little-endian number of bytes `[o, o+n)` of a byte list; bytes past its end read 0. -/
def leNat (bs : List Byte) (o n : Nat) : Nat :=
  ((bs.drop o).take n).foldr (fun b acc => b.toNat + 256 * acc) 0

/-- Bits [lo+len-1:lo] of a vector, as a number. -/
def field {w : Nat} (x : BitVec w) (lo len : Nat) : Nat := (x.extractLsb' lo len).toNat

/-- Puts v into bits [lo+len-1:lo] of a zero word. -/
def put (v lo len : Nat) : Word := ((BitVec.ofNat 64 v) &&& BitVec.ofNat 64 (2 ^ len - 1)) <<< lo

def bit {w : Nat} (x : BitVec w) (i : Nat) : Bool := x.getLsbD i

def boolNat (b : Bool) : Nat := if b then 1 else 0

/-- Writes element i of width ew into a packed vector. -/
def setLane {w : Nat} (ew : Nat) (x : BitVec w) (i : Nat) (v : BitVec ew) : BitVec w :=
  let m : BitVec w := (BitVec.allOnes ew).setWidth w <<< (ew * i)
  (x &&& ~~~m) ||| (v.setWidth w <<< (ew * i))

def getLane {w : Nat} (ew : Nat) (x : BitVec w) (i : Nat) : BitVec ew := x.extractLsb' (ew * i) ew

/-- Packs a list of lanes, lane 0 lowest. -/
def packLanes (w ew : Nat) : List (BitVec ew) → BitVec w
  | [] => 0
  | v :: vs => v.setWidth w ||| (packLanes w ew vs <<< ew)

/-- Saturating increment. -/
def satInc {w : Nat} (x : BitVec w) : BitVec w := if x = BitVec.allOnes w then x else x + 1

/-- wrap(x, w) of R10. -/
def wrapInt (x : Int) (w : Nat) : Int := (BitVec.ofInt w x).toInt

/-- asr(x, n) of R10: floor of x / 2^n. -/
def asrInt (x : Int) (n : Nat) : Int := x.fdiv (2 ^ n)

def clampNat (x lo hi : Nat) : Nat := min (max x lo) hi

/-- List element or a default. -/
def nth {α : Type} (d : α) (l : List α) (i : Nat) : α := (l[i]?).getD d

def setNth {α : Type} (l : List α) (i : Nat) (v : α) : List α := l.set i v

/-- floor(log2 n) for n > 0, 0 for 0: structural on fuel. -/
def log2Fuel : Nat → Nat → Nat
  | 0, _ => 0
  | f + 1, n => if n < 2 then 0 else 1 + log2Fuel f (n / 2)

def log2Nat (n : Nat) : Nat := log2Fuel 2048 n

/-- Integer square root by bits, structural on the bit count. -/
def isqrtBits : Nat → Nat → Nat → Nat
  | 0, _, r => r
  | k + 1, n, r => let t := r + 2 ^ k; if t * t ≤ n then isqrtBits k n t else isqrtBits k n r

/-- floor(sqrt n) for n < 2^2048. -/
def isqrt (n : Nat) : Nat := isqrtBits 1024 n 0

/-- CRC-64 of R26 (reflected form of 0x42F0_E1EB_A9EA_3693), bit by bit. -/
def crcBits : Nat → BitVec 64 → BitVec 64
  | 0, c => c
  | n + 1, c => crcBits n (if c.getLsbD 0 then (c >>> 1) ^^^ 0xC96C5795D7870F42 else c >>> 1)

def crc64 (bs : List Byte) : BitVec 64 :=
  ~~~(bs.foldl (fun c b => crcBits 8 (c ^^^ b.setWidth 64)) (BitVec.allOnes 64))

/-! ## The machine's parts -/

/-- Takes the next free value. -/
def State.takeFree (s : State) (w : Nat) : BitVec w × State := (Config.free w s.free, { s with free := s.free + 1 })

def State.emit (s : State) (o : Output) : State := { s with out := o :: s.out }

def State.emits (s : State) (os : List Output) : State := { s with out := os.reverse ++ s.out }

def State.tor (s : State) (t : TorIdx) : Tor := mapGet {} s.tors t.toNat
def State.setTor (s : State) (t : TorIdx) (x : Tor) : State := { s with tors := mapSet {} s.tors t.toNat x }
def State.ctx (s : State) (c : CtxIdx) : Context := mapGet {} s.ctxs c.toNat
def State.setCtx (s : State) (c : CtxIdx) (x : Context) : State := { s with ctxs := mapSet {} s.ctxs c.toNat x }
def State.port (s : State) (p : Nat) : Port := mapGet {} s.links.ports p
def State.setPort (s : State) (p : Nat) (x : Port) : State :=
  { s with links := { s.links with ports := mapSet {} s.links.ports p x } }
def State.sub (s : State) (i : Nat) : Subchannel := mapGet {} s.mem.subs i
def State.setSub (s : State) (i : Nat) (x : Subchannel) : State :=
  { s with mem := { s.mem with subs := mapSet {} s.mem.subs i x } }

/-- Every context index. -/
def allCtx : List CtxIdx := [0, 1, 2, 3, 4, 5, 6, 7]

/-- The context that owns a tor's ridge (R314), if any declared one does. -/
def State.torCtx (s : State) (t : TorIdx) : Option CtxIdx :=
  allCtx.find? (fun c =>
    let e := nth {} s.img.active.contexts c.toNat
    e.valid && e.ridges.getLsbD (t.toNat / 64))

/-- The fuse-map part of a tor's repair (R107). -/
def fuseOf (f : Fuses) (t : Nat) : Option FuseRepair := (f.repair.find? (fun e => e.1 == t)).map (·.2)

/-- phys(l) of R107 under a mapped-out row m (7: none). -/
def physRow (m : BitVec 3) (l : Nat) : Nat := if m = 7 ∨ l < m.toNat then l else l + 1

/-- Every block works: not in reset, not tripped, past bring-up (MODE 1), not contained, reference present. -/
def State.live (s : State) : Bool :=
  !s.pwr.held && !s.pwr.tripped && s.boot.mode == 1 && s.err.containState != 1 && !s.pwr.refclkLost

/-- Powered, out of reset and not tripped. -/
def State.powered (s : State) : Bool := !s.pwr.held && !s.pwr.tripped

/-- BAR0 answers: from the end of bring-up step 4, and not in bivouac mode (R356). -/
def State.barAnswers (s : State) : Bool := s.powered && decide (5 ≤ s.boot.step) && s.boot.mode != 3

/-- One tick of the time base (R15, R288): TICKS counts unless the module is held in reset or the reference is lost. -/
def State.tick (s : State) : State :=
  if s.pwr.held || s.pwr.refclkLost then s else { s with pwr := { s.pwr with ticks := s.pwr.ticks + 1 } }

/-! ## Events -/

/-- Event codes of Table 16-4: the class is fixed by the code's range. -/
def eventClass (code : Nat) : BitVec 2 :=
  if code < 0x10 then 0 else if code < 0x20 then 1 else if code < 0x30 then 2 else 3

/-- Removes the oldest queued record of a class, if there is one (R333). -/
def dropOldest (q : List Event) (cls : BitVec 2) : Option (List Event) :=
  if q.any (fun e => e.cls == cls) then some (q.eraseP (fun e => e.cls == cls)) else none

/-- The current step of the running context with the lowest number; 0 outside a run (Table 16-3). -/
def State.runStep (s : State) : Word :=
  match allCtx.find? (fun c => (s.ctx c).state == 3 || (s.ctx c).state == 4) with
  | some c => (s.ctx c).step
  | none => 0

/-- The queue sends its oldest record to the receiver, if one is set and the MCTP target responds (R333). -/
def State.sendHead (s : State) : State :=
  match s.mgt.receiver, s.mgt.queue with
  | some _, e :: _ => if s.mgt.ready then s.emit (.eventMessage e) else s
  | _, _ => s

/-- Raises an event (R333, R334): queue, host mirror, MSI-X vector 8, RAS. A record that comes to the head of the queue
is sent. -/
def State.raise (s : State) (code : Nat) (detail : Nat) : State :=
  let cls := eventClass code
  let e : Event := { code := BitVec.ofNat 16 code, cls := cls, seq := s.mgt.seq + 1, ticks := s.pwr.ticks,
                     step := s.runStep, detail := BitVec.ofNat 64 detail }
  let (q, lost) :=
    if s.mgt.queue.length < 256 then (s.mgt.queue ++ [e], s.mgt.lost)
    else match dropOldest s.mgt.queue 3 with
      | some q => (q ++ [e], true)
      | none => match dropOldest s.mgt.queue 2 with
        | some q => (q ++ [e], true)
        | none => (s.mgt.queue, true)
  let serious := decide (cls.toNat ≤ 1)
  let fresh := q.head? != s.mgt.queue.head?
  let s := { s with
    mgt := { s.mgt with queue := q, lost := lost, seq := s.mgt.seq + 1, hostSeq := s.mgt.seq + 1, hostCls := cls,
                        hostCode := BitVec.ofNat 16 code, hostNew := s.mgt.hostNew || serious },
    host := { s.host with rasUncorrectable := s.host.rasUncorrectable || cls == 0 } }
  let s := if fresh then s.sendHead else s
  if serious then s.emit (.msix 8) else s

/-! ## Error causes (Table 12-1) -/

/-- Records a cause in ERR_CAUSE (first cause, or SECONDARY; R359). -/
def Errors.record (e : Errors) (cause ordinal row tor : Nat) : Errors :=
  if e.causeValid then { e with secondary := satInc e.secondary }
  else { e with causeValid := true, secondary := 0, ordinal := BitVec.ofNat 4 ordinal, row := BitVec.ofNat 3 row,
                tor := BitVec.ofNat 13 tor, cause := BitVec.ofNat 8 cause }

def State.recordCause (s : State) (cause ordinal row tor : Nat) : State :=
  { s with err := s.err.record cause ordinal row tor }

/-- Counts n further causes as secondary (R88). -/
def State.recordSecondary (s : State) : Nat → State
  | 0 => s
  | n + 1 => { s with err := { s.err with secondary := satInc s.err.secondary } }.recordSecondary n

/-- Counts a request that a hardware bound stopped; the first after reset raises SEC_BLOCKED (R338). -/
def State.raiseBlocked (s : State) : State :=
  if s.mgt.blockedRaised then s else { s with mgt := { s.mgt with blockedRaised := true } }.raise 0x2A 0

end Sys2Proof.Machine
end

