-- ==== Sys2Proof/Machine/Wire.lean ====
section
/-! DEFINITION. The way out of the module: the plan table's questions (Table 02-5, R20), packet headers (Table 10-2),
routes (R199, R200), credits and retry (R192, R193), the send side of flows (R195, R196, R198), and the messages that
leave in packets. -/

namespace Sys2Proof.Machine
open Sys2Proof

/-! ## The plan table (Table 02-5, R20) -/

def State.plan (s : State) : Plan := s.img.active.plan

/-- The plan's entry of a port, 0 where the plan has none. -/
def State.planPort (s : State) (p : Nat) : BitVec 32 := nth 0 s.plan.ports p

/-- CLASS of a valid port entry: 1 range, 2 up-link, 0 dark. -/
def State.portClass (s : State) (p : Nat) : Nat := if bit (s.planPort p) 31 then field (s.planPort p) 29 2 else 0

def State.ownRange (s : State) : Nat := field s.plan.ownAddr 6 9
def State.planSlot (s : State) : Nat := field s.plan.ownAddr 0 6

/-- The slot a range port's plan entry names. -/
def State.portPeer (s : State) (p : Nat) : Nat := field (s.planPort p) 14 6

/-- The 96 ports. -/
def allPorts : List Nat := List.range 96

/-- Range ports to a slot that are up (STATE 3). -/
def State.upLinksTo (s : State) (q : Nat) : List Nat :=
  allPorts.filter (fun p => s.portClass p == 1 && s.portPeer p == q && (s.port p).state == 3)

/-- The range peers the plan names, in ascending slot order. -/
def State.rangePeers (s : State) : List Nat :=
  (List.range 33).filter (fun q => allPorts.any (fun p => s.portClass p == 1 && s.portPeer p == q))

/-- A single-module system: no range present (R22, R379). -/
def State.singleModule (s : State) : Bool := !s.plan.groups.any (fun g => bit g 31)

/-- A position's entry of the membership record (R241): its slot and whether it is ACTIVE; none where it is VACANT. -/
def State.member (s : State) (pos : Nat) : Option (Nat × Bool) :=
  (s.crn.members.find? (fun e => e.1 == pos)).map (·.2)

def State.isActive (s : State) (pos : Nat) : Bool := match s.member pos with | some (_, a) => a | none => false

/-- The position that a slot of a range holds. -/
def State.posOfSlot (s : State) (range slot : Nat) : Option Nat :=
  (s.crn.members.find? (fun e => e.1 / 32 == range && e.2.1 == slot)).map (·.1)

/-- A range's spare slot. -/
def State.spareOf (s : State) (range : Nat) : Option Nat := (s.crn.spares.find? (fun e => e.1 == range)).map (·.2)

/-! ## The header (Table 10-2) -/

abbrev Header := BitVec 256
def Header.lseq (h : Header) : BitVec 8 := h.extractLsb' 0 8
def Header.slotFlow (h : Header) : Bool := bit h 43
def Header.hops (h : Header) : Nat := field h 44 3
def Header.cls (h : Header) : Nat := field h 47 1
def Header.ctx (h : Header) : CtxIdx := h.extractLsb' 48 3
def Header.type (h : Header) : Nat := field h 51 5
def Header.length (h : Header) : Nat := field h 56 13
def Header.srcPos (h : Header) : Nat := field h 69 14
def Header.treeDest (h : Header) : BitVec 15 := h.extractLsb' 83 15
def Header.src (h : Header) : BitVec 15 := h.extractLsb' 98 15
def Header.dest (h : Header) : BitVec 15 := h.extractLsb' 113 15
def Header.ctxEpoch (h : Header) : Byte := h.extractLsb' 128 8
def Header.membEpoch (h : Header) : Byte := h.extractLsb' 136 8
def Header.step (h : Header) : BitVec 16 := h.extractLsb' 144 16
def Header.seq (h : Header) : BitVec 32 := h.extractLsb' 160 32
def Header.arg (h : Header) : Word := h.extractLsb' 192 64

/-- Replaces a field of a header. -/
def Header.set (h : Header) (lo len v : Nat) : Header :=
  let m : Header := BitVec.ofNat 256 ((2 ^ len - 1) * 2 ^ lo)
  (h &&& ~~~m) ||| (BitVec.ofNat 256 (v % 2 ^ len * 2 ^ lo))

def addrRange (a : BitVec 15) : Nat := field a 6 9
def addrSlot (a : BitVec 15) : Nat := field a 0 6
def mkAddr (range slot : Nat) : BitVec 15 := BitVec.ofNat 15 (range * 64 + slot)

/-- CLASS of each TYPE of Table 10-3; none for a reserved type. -/
def typeClass (t : Nat) : Option Nat :=
  if t = 0x01 ∨ t = 0x04 ∨ t = 0x07 ∨ t = 0x08 then some 1
  else if (0x02 ≤ t ∧ t ≤ 0x0B) ∨ t = 0x10 then some 0 else none

/-- The CRC-64 of a packet: header bytes, then payload (R189). -/
def packetCrc (h : Header) (payload : List Byte) : BitVec 64 := crc64 (leBytes 32 h ++ payload)

/-! ## Slots, positions, routes -/

/-- The slot a position's module holds (R241); POS where the record names none. -/
def State.slotOfPos (s : State) (p : Nat) : Nat :=
  match s.member p with | some (q, _) => q | none => p % 32

def State.addrOfPos (s : State) (p : Nat) : BitVec 15 := mkAddr (p / 32) (s.slotOfPos p)

/-- The range-port number of a physical port (Table 10-4); the first link of a pair has the lower one. -/
def rangePortNo (p : Nat) : Nat := 4 * (p % 24) + p / 24

/-- Up links to a slot, the first link of the pair first (R199). -/
def State.pairLinks (s : State) (q : Nat) : List Nat :=
  (s.upLinksTo q).mergeSort (fun a b => decide (rangePortNo a ≤ rangePortNo b))

/-- Working up-links, in ascending port order (R200). -/
def State.upLinks (s : State) : List Nat := allPorts.filter (fun p => s.portClass p == 2 && (s.port p).state == 3)

/-- Links up from slot v to slot q by the range map v sent (R203). -/
def State.mapLinks (s : State) (v q : Nat) : Nat := (nth 0 (mapGet [] s.links.rangeMaps v) q).toNat

/-- The slot through which a two-hop detour to q runs, if either is open (R199). -/
def State.detourOf (s : State) (q : Nat) : Option Nat :=
  let e := nth 0 s.plan.detour q
  let ok (v : Nat) : Bool := !(s.upLinksTo v).isEmpty && decide (0 < s.mapLinks v q)
  if ok (field e 0 6) then some (field e 0 6) else if ok (field e 8 6) then some (field e 8 6) else none

/-- The port towards a slot of the own range (R199); forwarded packets never detour. -/
def State.slotRoute (s : State) (q : Nat) (detour : Bool) : Option Nat :=
  match s.pairLinks q with
  | p :: _ => some p
  | [] => if detour then (match s.detourOf q with | some v => (s.pairLinks v).head? | none => none) else none

/-- The next slot after ours, mod 33, that has working up-links by its range map (R200, item 3). A range map counts
links to slots only, so a peer that any link reaches stands for one that has up-links (DEDUCED, notes/assumptions/6.md). -/
def State.nextExit (s : State) : Option Nat :=
  ((List.range 32).map (fun i => (s.planSlot + 1 + i) % 33)).find? (fun q => !(s.upLinksTo q).isEmpty)

/-- The port a packet leaves on (R199, R200). `exit` is the sender's exit slot, none at a later hop. -/
def State.route (s : State) (h : Header) (exit : Option Nat) : Option Nat :=
  let mine := addrRange h.src == s.ownRange && addrSlot h.src == s.planSlot
  if addrRange h.dest = s.ownRange then s.slotRoute (addrSlot h.dest) mine
  else
    match exit with
    | some x => if x = s.planSlot then
        (match s.upLinks with
          | [] => s.nextExit.bind (fun q => s.slotRoute q mine)
          | ups => ups[h.seq.toNat % ups.length]?)
        else s.slotRoute x mine
    | none =>
      match s.upLinks with
      | [] => s.nextExit.bind (fun q => s.slotRoute q mine)
      | ups => ups[h.seq.toNat % ups.length]?

/-! ## Sending on a port -/

/-- Takes a credit for a packet of a class: its own reserved first, then a shared one; data leaves the last two shared
credits to a waiting control packet (R192). -/
def Port.takeCredit (p : Port) (cls : Nat) : Option Port :=
  if cls = 0 then
    if 0 < p.creditCtl then some { p with creditCtl := p.creditCtl - 1 }
    else if 0 < p.creditShared then some { p with creditShared := p.creditShared - 1 } else none
  else
    if 0 < p.creditData then some { p with creditData := p.creditData - 1 }
    else if (if p.ctlQ.isEmpty then 0 else 2) < p.creditShared then some { p with creditShared := p.creditShared - 1 }
    else none

/-- Sends one packet: LSEQ, retry buffer (R193). -/
def Port.transmit (p : Port) (k : Packet) : Port × Packet :=
  let k := { k with header := Header.set k.header 0 8 p.txNext.toNat }
  ({ p with txNext := p.txNext + 1, retry := p.retry ++ [(k, 1)] }, k)

/-- Frames and claims pass: the port is up, claims, or is lit to answer claims (R202). -/
def Port.lit (p : Port) : Bool := p.state == 2 || p.state == 3 || (p.state == 5 && p.outcome != 6) || (p.state == 0 && p.outcome == 3)

/-- The packet that goes next, with its credit taken: the oldest control packet where a credit lets it go, else the
oldest data packet (R192). A port that is not up has link-local packets only. -/
def Port.next (p : Port) : Option (Port × Packet) :=
  let data : Option (Port × Packet) := match p.dataQ with
    | k :: t => (p.takeCredit 1).map (fun q => ({ q with dataQ := t }, k))
    | [] => none
  match p.ctlQ with
  | k :: t => (match p.takeCredit 0 with | some q => some ({ q with ctlQ := t }, k) | none => data)
  | [] => data

/-- Moves queued packets onto the link while the retry buffer and the credits allow. -/
def Port.pump : Nat → Port → List Packet → Port × List Packet
  | 0, p, acc => (p, acc)
  | f + 1, p, acc =>
    if !p.lit || decide (32 ≤ p.retry.length) then (p, acc)
    else match p.next with
      | some (q, k) => let (q, k) := q.transmit k; q.pump f (acc ++ [k])
      | none => (p, acc)

/-- A packet may leave: from the stop broadcast of a containment on, ports send MEMBERSHIP alone (Table 13-8), and under
EXTEST every optical engine is dark (R348). -/
def State.mayLeave (s : State) (k : Packet) : Bool :=
  !s.pwr.extest && (s.err.containState != 1 || Header.type k.header == 0x0A)

/-- Packets leave on a port, each with its trailer (R189). -/
def State.sendOut (s : State) (n : Nat) (ks : List Packet) : State :=
  s.emits ((ks.filter s.mayLeave).map (fun k => Output.packetOut n k (packetCrc k.header k.payload)))

/-- Sends what a port's queues hold and may leave; the rest stays queued. -/
def State.pumpPort (s : State) (n : Nat) : State :=
  let p := s.port n
  let (q, ks) := ({ p with ctlQ := p.ctlQ.filter s.mayLeave, dataQ := p.dataQ.filter s.mayLeave } : Port).pump 64 []
  (s.setPort n { q with ctlQ := q.ctlQ ++ p.ctlQ.filter (fun k => !s.mayLeave k),
                        dataQ := q.dataQ ++ p.dataQ.filter (fun k => !s.mayLeave k) }).sendOut n ks

/-- Queues a packet on a port, behind or ahead of its class. -/
def Port.enqueue (p : Port) (k : Packet) (ahead : Bool) : Port :=
  let put (q : List Packet) : List Packet := if ahead then k :: q else q ++ [k]
  if Header.cls k.header = 0 then { p with ctlQ := put p.ctlQ } else { p with dataQ := put p.dataQ }

/-- Queues a packet on a port, behind or ahead of its class, counting the hop on a range link (R199). The egress filter
stops a destination outside the plan (Table 16-6). -/
def State.queueOn (s : State) (n : Nat) (k : Packet) (ahead : Bool) : State :=
  let hops := k.header |> Header.hops
  let dest := Header.dest k.header
  if 32 < addrSlot dest ∨ s.plan.rangeLimit ≤ addrRange dest then
    { s with mgt := { s.mgt with blockedLink := satInc s.mgt.blockedLink } }.raiseBlocked
  else
  let range := s.portClass n == 1
  let p := s.port n
  if range && decide (4 < hops + 1) then s.setPort n { p with hopLimit := satInc p.hopLimit }
  else s.setPort n (p.enqueue (if range then { k with header := Header.set k.header 44 3 (hops + 1) } else k) ahead)

/-- Routes a packet; one without a route is a path loss (R201, R207). -/
def State.sendRouted (s : State) (k : Packet) (exit : Option Nat) : State :=
  match s.route k.header exit with
  | some n => (s.queueOn n k false).pumpPort n
  | none => s

/-! ## The send side of flows -/

/-- Builds a positional packet's header (R189, R195, R197). -/
def State.posHeader (s : State) (c : CtxIdx) (type dest : Nat) (tree : BitVec 15) (seq : BitVec 32) (arg : Word)
    (len : Nat) : Header :=
  let x := s.ctx c
  let cls := (typeClass type).getD 0
  (arg ++ seq ++ (x.step.setWidth 16 : BitVec 16) ++ (s.crn.epoch.setWidth 8 : BitVec 8) ++ x.epoch
    ++ s.addrOfPos dest ++ s.plan.ownAddr ++ tree ++ s.crn.ownPos ++ BitVec.ofNat 13 len ++ BitVec.ofNat 5 type ++ c
    ++ BitVec.ofNat 1 cls ++ (0 : BitVec 3) ++ (0 : BitVec 1) ++ (0 : BitVec 35) ++ (0 : BitVec 8) : BitVec 256)

/-- Builds a slot-flow packet's header (R198): it carries no context, and SRC_POS is ignored (DESIGN CHOICE 0,
notes/assumptions/148.md). -/
def State.slotHeader (s : State) (type q : Nat) (seq : BitVec 32) (arg : Word) (len : Nat) : Header :=
  let cls := (typeClass type).getD 0
  (arg ++ seq ++ (s.runStep.setWidth 16 : BitVec 16) ++ (s.crn.epoch.setWidth 8 : BitVec 8) ++ (0 : BitVec 8)
    ++ mkAddr s.ownRange q ++ s.plan.ownAddr ++ mkAddr s.ownRange q ++ (0 : BitVec 14) ++ BitVec.ofNat 13 len
    ++ BitVec.ofNat 5 type ++ (0 : BitVec 3) ++ BitVec.ofNat 1 cls ++ (0 : BitVec 3) ++ (1 : BitVec 1) ++ (0 : BitVec 35)
    ++ (0 : BitVec 8) : BitVec 256)

/-- The flow entry of a position and class (R195), and of a slot and class (R198). -/
def State.flow (s : State) (f : Nat) : Flow := mapGet {} s.links.flows f
def State.setFlow (s : State) (f : Nat) (x : Flow) : State :=
  { s with links := { s.links with flows := mapSet {} s.links.flows f x } }
def State.slotFlowOf (s : State) (f : Nat) : Flow := mapGet {} s.links.slotFlows f
def State.setSlotFlow (s : State) (f : Nat) (x : Flow) : State :=
  { s with links := { s.links with slotFlows := mapSet {} s.links.slotFlows f x } }

/-- Sends a packet to a position: NEXT_SEQ, the window of 256, the exit and entry slots (R196, R200). The module's own
position has no flow (R195). -/
def State.sendPos (s : State) (c : CtxIdx) (type dest : Nat) (arg : Word) (payload : List Byte) (exit entry : Nat) : State :=
  let f := 2 * dest + (typeClass type).getD 0
  let x := s.flow f
  let far := decide (dest / 32 ≠ s.ownRange)
  let tree := if far then mkAddr (dest / 32) entry else s.addrOfPos dest
  let k : Packet := { header := s.posHeader c type dest tree x.nextSeq arg payload.length, payload := payload }
  let exit := if far then some exit else none
  if dest = s.crn.ownPos.toNat ∧ s.crn.ownState.toNat ≤ 1 then s
  else if (x.nextSeq - x.acked).toNat < 256 then (s.setFlow f { x with nextSeq := x.nextSeq + 1 }).sendRouted k exit
  else s.setFlow f { x with nextSeq := x.nextSeq + 1, wait := x.wait ++ [(k, exit)] }

/-- The exit and entry slots of the route table for packets that no node entry sends (R200, R388). -/
def State.tableRoute (s : State) (c : CtxIdx) (dest : Nat) : Nat × Nat :=
  match (s.ctx c).image with
  | some im => let e := nth 0 im.routes (dest / 32); (field e 0 6, field e 8 6)
  | none => (s.planSlot, 0)

/-- Sends a packet to a slot of the own range on its slot flow (R198). -/
def State.sendSlot (s : State) (type q : Nat) (arg : Word) (payload : List Byte) : State :=
  let f := 2 * q + (typeClass type).getD 0
  let x := s.slotFlowOf f
  let k : Packet := { header := s.slotHeader type q x.nextSeq arg payload.length, payload := payload }
  if (x.nextSeq - x.acked).toNat < 256 then (s.setSlotFlow f { x with nextSeq := x.nextSeq + 1 }).sendRouted k none
  else s.setSlotFlow f { x with nextSeq := x.nextSeq + 1, wait := x.wait ++ [(k, none)] }

/-! ## Messages

A message leaves as what it says (an `Output`) and as the packet that carries it. A message that is longer than a packet
still takes one (DESIGN CHOICE, notes/assumptions/148.md). -/

/-- A message's payload, at most 4,096 bytes (R189). -/
def messageBytes (o : Output) : List Byte := (Config.messagePayload o).take 4096

/-- Sends a message to a position. -/
def State.tell (s : State) (c : CtxIdx) (type dest : Nat) (o : Output) : State :=
  let r := s.tableRoute c dest
  (s.emit o).sendPos c type dest (Config.messageArg o) (messageBytes o) r.1 r.2

/-- Sends a message to each of some positions. -/
def State.tellAll (s : State) (c : CtxIdx) (type : Nat) (ps : List Nat) (f : Nat → Output) : State :=
  ps.foldl (fun s p => s.tell c type p (f p)) s

/-- Sends a message to a slot of the own range. -/
def State.tellSlot (s : State) (type q : Nat) (o : Output) : State :=
  (s.emit o).sendSlot type q (Config.messageArg o) (messageBytes o)

/-- Sends a message to each of some slots of the own range. -/
def State.tellSlots (s : State) (type : Nat) (qs : List Nat) (f : Nat → Output) : State :=
  qs.foldl (fun s q => s.tellSlot type q (f q)) s

/-- The context whose flow range holds an entry (R195). -/
def State.flowCtx (s : State) (f : Nat) : CtxIdx :=
  (allCtx.find? (fun c =>
    let e := nth {} s.img.active.contexts c.toNat
    e.valid && decide (e.flowFirst ≤ f) && decide (f < e.flowFirst + e.flowCount))).getD 0

/-- A range's delegates as a sender sees them (R255): the positions in its two lowest live slots. -/
def State.delegatesOf (s : State) (g : Nat) : List Nat :=
  (((List.range 33).filterMap (fun q => s.posOfSlot g q)).filter (fun p => !s.crn.declared.contains p)).take 2

end Sys2Proof.Machine
end

