-- ==== Sys2Proof/Machine/Contain.lean ====
section
/-! DEFINITION. Causes and their reach: failed ordinals (R236), WITHDRAW (R240), STATE_POISON (R392), failed starts
(R299), containment (R277, R278). -/

namespace Sys2Proof.Machine
open Sys2Proof

/-! ## Ordinals -/

/-- Whose work: an ordinal, or every ordinal (R236). -/
inductive Work where
  | ordinal (k : Nat) | shared
  deriving DecidableEq, Repr

/-- A micro-batch map byte (Table 02-21); unmapped work counts as SHARED. -/
def workOfByte (b : Byte) : Work := if b.toNat < 16 then .ordinal b.toNat else .shared

def Work.number : Work → Nat
  | .ordinal k => k
  | .shared => 0

/-- The ordinals of a work item. -/
def Context.workMask (x : Context) (w : Work) : BitVec 16 :=
  match w with
  | .ordinal k => BitVec.ofNat 16 (2 ^ k)
  | .shared => BitVec.ofNat 16 (2 ^ (match x.image with | some im => im.mbCount | none => 16) - 1)

/-- Marks ordinals failed for the step (R236); once the verdict is held, for the step that follows (R24). -/
def Context.failWork (x : Context) (w : Work) : Context :=
  if x.inStep && x.verdict.isSome then { x with lateFailed := x.lateFailed ||| x.workMask w }
  else { x with mbFailed := x.mbFailed ||| x.workMask w }

/-- A work item fails with a cause of class micro-batch: ERR_CAUSE, ERR_COUNTS and the failed ordinal (R88, R236). The
further causes of the item count as secondary. -/
def State.failItem (s : State) (c : CtxIdx) (w : Work) (cause row tor : Nat) (others : Nat) : State :=
  let s := (s.recordCause cause w.number row tor).recordSecondary others
  let s := { s with err := { s.err with tileFailures := s.err.tileFailures + 1 } }
  let x := (s.ctx c).failWork w
  s.setCtx c { x with counts := { x.counts with tileFailures := x.counts.tileFailures + 1 } }

/-! ## Withdrawal, containment, failed starts -/

/-- Sends one slot-flow packet to a peer on every working link of the pair (R240). -/
def State.sendOnPair (s : State) (type q : Nat) (arg : Word) (payload : List Byte) : State :=
  let f := 2 * q + (typeClass type).getD 0
  let x := s.slotFlowOf f
  let k : Packet := { header := s.slotHeader type q x.nextSeq arg payload.length, payload := payload }
  (s.upLinksTo q).foldl (fun s n => (s.queueOn n k false).pumpPort n) (s.setSlotFlow f { x with nextSeq := x.nextSeq + 1 })

/-- WITHDRAW, naming the module itself, on every working range link (R240). -/
def State.sendWithdraw (s : State) : State :=
  (s.rangePeers.filter (fun q => !(s.upLinksTo q).isEmpty)).foldl (fun s q =>
    (s.emits ((s.upLinksTo q).map (fun _ => Output.withdrawTo q))).sendOnPair 0x0A q (Config.messageArg (.withdrawTo q))
      (messageBytes (.withdrawTo q)))
    { s with crn := { s.crn with withdrawn := true } }

/-- WITHDRAW of a run abandoned at once (R327): a single-module system has no peers to declare it, and a module that holds
no position has none to give up. -/
def State.abortWithdraw (s : State) : State := if s.singleModule || decide (2 ≤ s.crn.ownState.toNat) then s else s.sendWithdraw

/-- FAULT_L driven low, if its fuse mask allows that state (R338, R369). -/
def State.driveFault (s : State) : State :=
  if (nth 0 s.fuses.pinMask 0).getLsbD 3 then { s with pwr := { s.pwr with faultLow := true } }
  else { s with mgt := { s.mgt with blockedPin := satInc s.mgt.blockedPin } }.raiseBlocked

/-- A failed start (R299, Table 14-7). Once the self-check has ended, only step 7 is still at work. -/
def State.failStart (s : State) (cause detail : Nat) : State :=
  let step := if s.boot.links && s.boot.step == 8 && s.boot.selfChecked then 7 else s.boot.step
  let s := s.raise 0x0005 cause
  ({ s with boot := { s.boot with mode := 2, failedStep := step, failCause := BitVec.ofNat 8 cause,
                                  failDetail := BitVec.ofNat 8 detail } }).driveFault

/-- Containment (R278, Table 13-8 orders 1 to 3, and the start of order 5): once only; a later module-class cause counts
as secondary (R286). -/
def State.contain (s : State) (cause : Nat) : State :=
  if s.err.containState = 1 then s
  else
    let s := s.sendWithdraw
    let suspect := s.mem.contained || !s.mem.initDone || (cause == 0x42 && field s.err.hangBlock 13 3 == 2)
    { s with
      err := { s.err with containState := 1, containCause := BitVec.ofNat 8 cause, logPending := s.boot.mode == 1,
                          blockResult := if s.err.blockRunning.isSome then 6 else s.err.blockResult, blockRunning := none },
      dmp := { active := true, suspect := suspect, t0 := s.pwr.ticks, window := s.dmp.window, source := s.dmp.source } }

/-- A cause of class module: before ready it is a failed start (Table 14-7), after it containment. -/
def State.moduleCause (s : State) (cause startCause startDetail event : Nat) : State :=
  let s := (s.recordCause cause 0 7 0).raise event cause
  if s.boot.mode = 0 ∧ startCause ≠ 0 then s.failStart startCause startDetail
  else if s.boot.mode = 0 ∨ s.boot.mode = 1 then s.contain cause else s

/-- STATE_POISON (R392): the module withdraws without containing itself. -/
def State.statePoison (s : State) : State := (s.recordCause 0x30 0 7 0).sendWithdraw

/-- An uncorrectable read (R170): recorded once, then MULTI_UE; reads stop and the fatal error is raised. -/
def State.memUe (s : State) (b : Nat) (synd : BitVec 16) (source : Nat) : State :=
  if s.mem.contained then { s with mem := { s.mem with multiUe := true } }.moduleCause 0x40 0 0 0x0001
  else
    { s with mem := { s.mem with contained := true, ueAddr := BitVec.ofNat 36 b, ueSynd := synd,
                                 ueSource := BitVec.ofNat 4 source } }.moduleCause 0x40 0 0 0x0001

end Sys2Proof.Machine
end

