-- ==== Sys2Proof/Machine/Ecc.lean ====
section
/-! DEFINITION. The burst code over GF(16) (R166 to R168, R171), the address map (R162), and bursts in module memory:
burst b of module memory occupies cells 36 · b … 36 · b + 35, payload, E, FLAGS, CODE low, CODE high (R43). -/

namespace Sys2Proof.Machine
open Sys2Proof

/-- Multiplication by x modulo x^4 + x + 1. -/
def gfX (a : BitVec 4) : BitVec 4 := (a <<< 1) ^^^ (if a.getLsbD 3 then 3 else 0)

/-- GF(16) multiplication (R167). -/
def gfMul (a b : BitVec 4) : BitVec 4 :=
  let t (i : Nat) (p : BitVec 4) : BitVec 4 := if b.getLsbD i then p else 0
  t 0 a ^^^ t 1 (gfX a) ^^^ t 2 (gfX (gfX a)) ^^^ t 3 (gfX (gfX (gfX a)))

/-- The inverse of a nonzero element: its 14th power. -/
def gfInv (a : BitVec 4) : BitVec 4 :=
  let a2 := gfMul a a
  let a4 := gfMul a2 a2
  let a8 := gfMul a4 a4
  gfMul a2 (gfMul a4 a8)

/-- q(a, b) of R167. -/
def gfQ (a b : BitVec 4) : BitVec 4 := gfMul a a ^^^ gfMul a b ^^^ gfMul 8 (gfMul b b)

/-- Four symbols. -/
structure Sym4 where
  x0 : BitVec 4 := 0
  x1 : BitVec 4 := 0
  x2 : BitVec 4 := 0
  x3 : BitVec 4 := 0
  deriving DecidableEq, Repr

/-- The locator of symbol position i (R167). -/
def gfPoint (i : Nat) : Sym4 :=
  if i = 68 then { x0 := 1 }
  else if i = 69 then { x1 := 1 }
  else if i = 70 then { x0 := 1, x1 := 1, x2 := 1 }
  else if i = 71 then { x0 := 1, x1 := 8, x3 := 1 }
  else
    let n := if i ≤ 13 then i + 2 else i + 3
    let a := BitVec.ofNat 4 (n % 16)
    let b := BitVec.ofNat 4 (n / 16)
    { x0 := 1, x1 := gfQ a b, x2 := a, x3 := b }

/-- Adds symbol × locator. -/
def Sym4.acc (t : Sym4) (v : BitVec 4) (p : Sym4) : Sym4 :=
  { x0 := t.x0 ^^^ gfMul v p.x0, x1 := t.x1 ^^^ gfMul v p.x1, x2 := t.x2 ^^^ gfMul v p.x2, x3 := t.x3 ^^^ gfMul v p.x3 }

/-- The sum of symbol × locator over the first n positions of a burst. -/
def gfSum {w : Nat} (x : BitVec w) : Nat → Sym4
  | 0 => {}
  | n + 1 =>
    let t := gfSum x n
    let v := getLane 4 x n
    if v = 0 then t else t.acc v (gfPoint n)

/-- A burst with its CODE (R167). -/
def encodeBurst (d : BitVec 272) : Burst :=
  let t := gfSum d 68
  let code : BitVec 16 := (t.x3 ++ t.x2 ++ (t.x1 ^^^ t.x2 ^^^ gfMul 8 t.x3) ++ (t.x0 ^^^ t.x2 ^^^ t.x3))
  code ++ d

/-- A poisoned burst: CODE xor 0x1081 (R171). -/
def poisonBurst (d : BitVec 272) : Burst := encodeBurst d ^^^ ((0x1081 : BitVec 16) ++ (0 : BitVec 272))

/-- What a read of a burst finds (R168). -/
inductive ReadRes where
  | clean (d : BitVec 272) | corrected (d : BitVec 272) | poison | uncorrectable (synd : BitVec 16)
  deriving DecidableEq, Repr

/-- The position a syndrome's n names (R168). -/
def gfPosition (n : Nat) : Option Nat :=
  if n = 0 then some 68 else if n = 1 then some 70 else if n = 16 then some 71
  else if n ≤ 15 then some (n - 2) else if n ≤ 70 then some (n - 3) else none

/-- Decodes a burst (R168). -/
def decodeBurst (x : Burst) : ReadRes :=
  let t := gfSum x 72
  let synd : BitVec 16 := t.x3 ++ t.x2 ++ t.x1 ++ t.x0
  let fix (i : Nat) (v : BitVec 4) : BitVec 272 := (x ^^^ (v.setWidth 288 <<< (4 * i))).setWidth 272
  if synd = 0 then .clean (x.setWidth 272)
  else if synd = 0x1000 then .poison
  else if t.x0 = 0 then
    if t.x2 = 0 ∧ t.x3 = 0 then .corrected (fix 69 t.x1) else .uncorrectable synd
  else
    let r := gfInv t.x0
    let a := gfMul t.x2 r
    let b := gfMul t.x3 r
    if t.x1 ≠ gfMul t.x0 (gfQ a b) then .uncorrectable synd
    else match gfPosition (16 * b.toNat + a.toNat) with
      | some i => .corrected (fix i t.x0)
      | none => .uncorrectable synd

/-- The data a read delivers, if any. -/
def ReadRes.data? : ReadRes → Option (BitVec 272)
  | .clean d => some d
  | .corrected d => some d
  | _ => none

/-! ## The address map (R161, R162) -/

/-- Bursts of one massif. -/
def massifBursts : Nat := 0x300000000

/-- Bursts of the module: addresses at or above are unpopulated (R161). -/
def moduleBursts : Nat := 4 * massifBursts

/-- The global subchannel of a module burst. -/
def subOf (b : Nat) : Nat :=
  let m := b / massifBursts
  let x : BitVec 34 := BitVec.ofNat 34 (b % massifBursts)
  64 * m + (field x 0 6 ^^^ field x 6 6 ^^^ field x 12 6 ^^^ field x 18 6 ^^^ field x 24 6 ^^^ field x 30 4)

/-- A burst's location within its subchannel. -/
def locOf (b : Nat) : Nat := (b % massifBursts) / 64

/-- The burst at a location of a global subchannel. -/
def burstAt (sub loc : Nat) : Nat :=
  let base := (sub / 64) * massifBursts + loc * 64
  base + (subOf base ^^^ sub) % 64

/-! ## Bursts in the cells -/

def State.cells (s : State) : Memory := s.mem.cells
def State.setCells (s : State) (m : Memory) : State := { s with mem := { s.mem with cells := m } }

/-- The 288 stored bits of a burst. -/
def State.rawBurst (s : State) (b : Nat) : Burst := ofLe 288 (memBytes s.cells (36 * b) 36)

/-- Stores 288 bits; a read of the burst in flight is stale from now on (R169). -/
def State.setRaw (s : State) (b : Nat) (x : Burst) : State :=
  let i := subOf b
  let q := s.sub i
  let s := s.setCells (memSetBytes s.cells (36 * b) (leBytes 36 x))
  if q.inflight.any (fun f => f.req.addr.toNat == b) then
    s.setSub i { q with inflight := q.inflight.map (fun f => if f.req.addr.toNat = b then { f with stale := true } else f) }
  else s

/-- The requests for a burst that still wait at its subchannel. -/
def State.waitingFor (s : State) (b : Nat) : List MemReq := (s.sub (subOf b)).queue.filter (fun r => r.addr.toNat == b)

/-- A request joins its subchannel's queue; a write makes every read of its burst that is out stale (R169). -/
def State.queueRequest (s : State) (r : MemReq) : State :=
  let i := subOf r.addr.toNat
  let q := s.sub i
  let out := if r.write.isSome then q.inflight.map (fun f => if f.req.addr = r.addr then { f with stale := true } else f) else q.inflight
  s.setSub i { q with queue := q.queue ++ [r], inflight := out }

/-- An access that the model serves at once counts as a grant of its subchannel (R175, R177; DESIGN CHOICE,
notes/assumptions/31.md). -/
def State.countServed (s : State) (b : Nat) (dyn : Bool) : State :=
  let q := s.sub (subOf b)
  s.setSub (subOf b) { q with recent := (q.recent <<< 1) ||| (if dyn then 1 else 0), dynamic := q.dynamic + (if dyn then 1 else 0),
                              scheduled := q.scheduled + (if dyn then 0 else 1) }

/-- A write of a burst whole, with its CODE. Behind requests for the same burst that still wait, the write takes its place
in their order (R164); else it is served at once, with the bits given. -/
def State.serveWrite (s : State) (r : MemReq) (bits : Burst) : State :=
  if (s.waitingFor r.addr.toNat).isEmpty then (s.setRaw r.addr.toNat bits).countServed r.addr.toNat (r.client != .ni 0)
  else s.queueRequest r

/-- A scheduled write by the module (Table 09-4). -/
def State.writeBurst (s : State) (b : Nat) (d : BitVec 272) : State :=
  s.serveWrite { client := .ni 0, addr := BitVec.ofNat 36 b, write := some d } (encodeBurst d)

/-- Reads a burst after every write to it that reached its subchannel before (R164). -/
def State.readBurst (s : State) (b : Nat) : ReadRes :=
  match (s.waitingFor b).reverse.find? (fun r => r.write.isSome) with
  | some r => if r.poison then .poison else .clean (r.write.getD 0)
  | none => decodeBurst (s.rawBurst b)

/-- Writes bursts at rising addresses. -/
def State.writeBursts (s : State) (b : Nat) : List (BitVec 272) → State
  | [] => s
  | d :: ds => (s.writeBurst b d).writeBursts (b + 1) ds

/-- The payload of a burst's 272 bits. -/
def payload (d : BitVec 272) : BitVec 256 := d.setWidth 256
def burstE (d : BitVec 272) : Nat := field d 256 8
def burstFlags (d : BitVec 272) : BitVec 8 := d.extractLsb' 264 8

def mkBurst (flags e : BitVec 8) (p : BitVec 256) : BitVec 272 := flags ++ e ++ p

/-- A corrected read: write-back and count, with CE_HIGH and MEM_CE_HIGH at each multiple of 4,096 (R169). -/
def State.noteCorrected (s : State) (b : Nat) (d : BitVec 272) (writeBack : Bool) : State :=
  let i := subOf b
  let s := if writeBack then s.setRaw b (encodeBurst d) else s
  let x := s.sub i
  let n := satInc x.corrected
  let s := s.setSub i { x with corrected := n, lastCeLoc := BitVec.ofNat 28 (locOf b) }
  if n.toNat % 4096 = 0 ∧ n ≠ x.corrected then
    { s with mem := { s.mem with ceHigh := true } }.raise 0x21 i
  else s

end Sys2Proof.Machine
end

