-- ==== Sys2Proof/Machine/Flags.lean ====
section
/-! DEFINITION. FP32 arithmetic with its flags: the conversion of R89, fast mode (R91, R92), strict mode (R93, R94),
and the flag word FPF (R95). Flag bits of FPF: 0 invalid, 1 division by zero, 2 overflow, 3 underflow, 4 inexact
(DESIGN CHOICE, notes/assumptions/3.md). -/

namespace Sys2Proof.Machine
open Sys2Proof

/-- Rounding attributes; RND codes 0 … 4 of R125, and the two classes of R63. -/
inductive Rm where
  | ne | na | up | down | zero
  deriving DecidableEq, Repr

/-- RND of R125; none for the reserved codes. -/
def rmOfCode (n : Nat) : Option Rm :=
  if n = 0 then some .ne else if n = 1 then some .na else if n = 2 then some .up else if n = 3 then some .down
  else if n = 4 then some .zero else none

/-- round_cls of R63. -/
def clsRm (pilot : Bool) : Rm := if pilot then .na else .ne

/-- An FP32 datum. -/
inductive Fp where
  | nan (x : F32) | inf (neg : Bool) | zero (neg : Bool) | fin (neg : Bool) (m : Nat) (e : Int)
  deriving DecidableEq, Repr

def f32Nan : F32 := 0x7FC00000
def f32Inf (neg : Bool) : F32 := if neg then 0xFF800000 else 0x7F800000
def f32Zero (neg : Bool) : F32 := if neg then 0x80000000 else 0
def f32Max (neg : Bool) : F32 := if neg then 0xFF7FFFFF else 0x7F7FFFFF
def f32One : F32 := 0x3F800000
def f32Quiet (x : F32) : F32 := x ||| 0x00400000
/-- A signalling NaN has its quiet bit clear. -/
def f32Signals (x : F32) : Bool := field x 23 8 == 255 && field x 0 23 != 0 && !bit x 22

/-- Reads a pattern exactly; with `daz` a subnormal is read as zero of its sign (R91). -/
def fpDecode (daz : Bool) (x : F32) : Fp :=
  let neg := bit x 31
  let ex := field x 23 8
  let fr := field x 0 23
  if ex = 255 then (if fr = 0 then .inf neg else .nan x)
  else if ex = 0 then (if fr = 0 ∨ daz then .zero neg else .fin neg fr (-149))
  else .fin neg (fr + 2 ^ 23) (ex - 150)

/-- Rounds m / 2^sh (plus a fraction below one unit of m when `sticky`) to an integer. -/
def roundShift (rm : Rm) (neg : Bool) (m sh : Nat) (sticky : Bool) : Nat × Bool :=
  let q := m / 2 ^ sh
  let r := m % 2 ^ sh
  let twice := 2 * r
  let unit := 2 ^ sh
  let exact := r == 0 && !sticky
  let above := decide (unit < twice) || (decide (unit = twice) && sticky)
  let tie := decide (unit = twice) && !sticky
  let inc := !exact && (match rm with
    | .ne => above || (tie && q % 2 == 1)
    | .na => above || tie
    | .up => !neg
    | .down => neg
    | .zero => false)
  (if inc then q + 1 else q, !exact)

/-- A magnitude m · 2^e (with sticky) rounded to 24 bits over an unbounded exponent: significand, exponent, inexact. -/
def round24 (rm : Rm) (neg : Bool) (m : Nat) (e : Int) (sticky : Bool) : Nat × Int × Bool :=
  let l := log2Nat m
  if l ≤ 23 then (m * 2 ^ (23 - l), e - (23 - l : Nat), sticky)
  else
    let (q, ix) := roundShift rm neg m (l - 23) sticky
    if q = 2 ^ 24 then (2 ^ 23, e + (l - 22 : Nat), ix) else (q, e + (l - 23 : Nat), ix)

/-- A result pattern with the flags it raised. -/
structure FpRes where
  val : F32
  flags : BitVec 5 := 0
  deriving DecidableEq, Repr

def flInvalid : BitVec 5 := 1
def flDivZero : BitVec 5 := 2
def flOverflow : BitVec 5 := 4
def flUnderflow : BitVec 5 := 8
def flInexact : BitVec 5 := 16

def f32Pack (neg : Bool) (biased frac : Nat) : F32 :=
  (if neg then (0x80000000 : F32) else 0) ||| BitVec.ofNat 32 (biased * 2 ^ 23 + frac)

/-- Fast-mode encoding (R91): 24-bit rounding over an unbounded exponent, then flush below 2^-126 and overflow. -/
def fpFast (rm : Rm) (neg : Bool) (m : Nat) (e : Int) (sticky : Bool) : F32 :=
  if m = 0 then f32Zero neg
  else
    let (q, u, _) := round24 rm neg m e sticky
    if u + 23 < -126 then f32Zero neg
    else if 128 ≤ u + 23 then f32Inf neg
    else f32Pack neg (u + 150).toNat (q - 2 ^ 23)

/-- IEEE 754 encoding with subnormals and flags (R89, R93): tininess after rounding (R94). -/
def fpIeee (rm : Rm) (neg : Bool) (m : Nat) (e : Int) (sticky : Bool) : FpRes :=
  if m = 0 then { val := f32Zero neg }
  else
    let l : Int := log2Nat m
    let u : Int := max (l + e - 23) (-149)
    let (q, ix) := if u ≤ e then (m * 2 ^ (e - u).toNat, sticky) else roundShift rm neg m (u - e).toNat sticky
    let (q, u) := if q = 2 ^ 24 then (2 ^ 23, u + 1) else (q, u)
    if 2 ^ 23 ≤ q ∧ 105 ≤ u then
      let toInf := match rm with | .ne => true | .na => true | .up => !neg | .down => neg | .zero => false
      { val := if toInf then f32Inf neg else f32Max neg, flags := flOverflow ||| flInexact }
    else
      let (_, un, _) := round24 rm neg m e sticky
      let fl := (if ix then flInexact else 0) ||| (if ix ∧ un + 23 < -126 then flUnderflow else 0)
      if q < 2 ^ 23 then { val := f32Pack neg 0 q, flags := fl }
      else { val := f32Pack neg (u + 150).toNat (q - 2 ^ 23), flags := fl }

/-- The FP32 rule of R89 for an exact integer x · 2^e. -/
def fpOfInt (pilot : Bool) (x : Int) (e : Int) : F32 :=
  if x = 0 then 0 else (fpIeee (clsRm pilot) (decide (x < 0)) x.natAbs e false).val

/-- The FP32 rule of R89 for an exact quotient x · 2^e / d (R219). -/
def fpOfRat (pilot : Bool) (x : Int) (e : Int) (d : Nat) : F32 :=
  if x = 0 then 0
  else
    let n := x.natAbs * 2 ^ (64 + log2Nat d)
    (fpIeee (clsRm pilot) (decide (x < 0)) (n / d) (e - (64 + log2Nat d : Nat)) (n % d != 0)).val

/-- The mode of one FP32 operation: fast with the context's class, or strict with an attribute. -/
inductive FpMode where
  | fast (pilot : Bool) | strict (rm : Rm)
  deriving DecidableEq, Repr

def FpMode.isFast : FpMode → Bool
  | .fast _ => true
  | .strict _ => false

def FpMode.rm : FpMode → Rm
  | .fast p => clsRm p
  | .strict r => r

/-- Encodes an exact nonzero or rounded result in a mode. -/
def fpPut (md : FpMode) (neg : Bool) (m : Nat) (e : Int) (sticky : Bool) : FpRes :=
  match md with
  | .fast p => { val := fpFast (clsRm p) neg m e sticky }
  | .strict r => fpIeee r neg m e sticky

/-- The NaN result: fast 0x7FC0_0000; strict the first NaN operand, quieted (R94), invalid when one signals. -/
def fpNan (md : FpMode) (ops : List F32) : FpRes :=
  match md with
  | .fast _ => { val := f32Nan }
  | .strict _ =>
    let isNan (x : F32) : Bool := field x 23 8 == 255 && field x 0 23 != 0
    { val := match ops.find? isNan with | some x => f32Quiet x | none => f32Nan,
      flags := if ops.any f32Signals then flInvalid else 0 }

def fpInvalid (md : FpMode) : FpRes :=
  { val := f32Nan, flags := if md.isFast then 0 else flInvalid }

/-- The sign of an exact zero sum (IEEE 754; R91 fixes roundTiesToEven's rule in fast mode). -/
def zeroSumSign (md : FpMode) (na nb : Bool) : Bool :=
  if na = nb then na else (match md with | .strict .down => true | _ => false)

/-- The exact sum of two dyadics, encoded; equal exponents first. -/
def fpSum (md : FpMode) (na : Bool) (ma : Nat) (ea : Int) (nb : Bool) (mb : Nat) (eb : Int) : FpRes :=
  let lo := min ea eb
  let sg (n : Bool) (m : Nat) (e : Int) : Int :=
    let v : Int := (m * 2 ^ (e - lo).toNat : Nat)
    if n then -v else v
  let x := sg na ma ea + sg nb mb eb
  if x = 0 then { val := f32Zero (zeroSumSign md na nb) }
  else fpPut md (decide (x < 0)) x.natAbs lo false

/-- Fused multiply-add a · b + c (R91, R93, R94). -/
def fpFma (md : FpMode) (a b c : F32) : FpRes :=
  let d := fpDecode md.isFast
  match d a, d b, d c with
  | .zero _, .inf _, .nan _ => { (fpNan md [a, b, c]) with flags := if md.isFast then 0 else flInvalid }
  | .inf _, .zero _, .nan _ => { (fpNan md [a, b, c]) with flags := if md.isFast then 0 else flInvalid }
  | .nan _, _, _ => fpNan md [a, b, c]
  | _, .nan _, _ => fpNan md [a, b, c]
  | _, _, .nan _ => fpNan md [a, b, c]
  | .inf _, .zero _, _ => fpInvalid md
  | .zero _, .inf _, _ => fpInvalid md
  | .inf na, .inf nb, .inf nc => if (na ^^ nb) = nc then { val := f32Inf nc } else fpInvalid md
  | .inf na, .fin nb _ _, .inf nc => if (na ^^ nb) = nc then { val := f32Inf nc } else fpInvalid md
  | .fin na _ _, .inf nb, .inf nc => if (na ^^ nb) = nc then { val := f32Inf nc } else fpInvalid md
  | .inf na, .inf nb, _ => { val := f32Inf (na ^^ nb) }
  | .inf na, .fin nb _ _, _ => { val := f32Inf (na ^^ nb) }
  | .fin na _ _, .inf nb, _ => { val := f32Inf (na ^^ nb) }
  | _, _, .inf nc => { val := f32Inf nc }
  | .fin na ma ea, .fin nb mb eb, .fin nc mc ec => fpSum md (na ^^ nb) (ma * mb) (ea + eb) nc mc ec
  | .fin na ma ea, .fin nb mb eb, .zero _ => fpPut md (na ^^ nb) (ma * mb) (ea + eb) false
  | .zero na, .zero nb, .zero nc => { val := f32Zero (zeroSumSign md (na ^^ nb) nc) }
  | .zero na, .fin nb _ _, .zero nc => { val := f32Zero (zeroSumSign md (na ^^ nb) nc) }
  | .fin na _ _, .zero nb, .zero nc => { val := f32Zero (zeroSumSign md (na ^^ nb) nc) }
  | _, _, .fin nc mc ec => fpPut md nc mc ec false

/-- Addition. -/
def fpAdd (md : FpMode) (a b : F32) : FpRes :=
  let d := fpDecode md.isFast
  match d a, d b with
  | .nan _, _ => fpNan md [a, b]
  | _, .nan _ => fpNan md [a, b]
  | .inf na, .inf nb => if na = nb then { val := f32Inf na } else fpInvalid md
  | .inf na, _ => { val := f32Inf na }
  | _, .inf nb => { val := f32Inf nb }
  | .fin na ma ea, .fin nb mb eb => fpSum md na ma ea nb mb eb
  | .fin na ma ea, .zero _ => fpPut md na ma ea false
  | .zero _, .fin nb mb eb => fpPut md nb mb eb false
  | .zero na, .zero nb => { val := f32Zero (zeroSumSign md na nb) }

def f32Neg (x : F32) : F32 := x ^^^ 0x80000000

/-- Subtraction: a NaN operand is taken as it stands. -/
def fpSub (md : FpMode) (a b : F32) : FpRes :=
  match fpDecode md.isFast b with
  | .nan _ => fpNan md [a, b]
  | _ => fpAdd md a (f32Neg b)

/-- Multiplication. -/
def fpMul (md : FpMode) (a b : F32) : FpRes :=
  let d := fpDecode md.isFast
  match d a, d b with
  | .nan _, _ => fpNan md [a, b]
  | _, .nan _ => fpNan md [a, b]
  | .inf _, .zero _ => fpInvalid md
  | .zero _, .inf _ => fpInvalid md
  | .inf na, .inf nb => { val := f32Inf (na ^^ nb) }
  | .inf na, .fin nb _ _ => { val := f32Inf (na ^^ nb) }
  | .fin na _ _, .inf nb => { val := f32Inf (na ^^ nb) }
  | .zero na, .zero nb => { val := f32Zero (na ^^ nb) }
  | .zero na, .fin nb _ _ => { val := f32Zero (na ^^ nb) }
  | .fin na _ _, .zero nb => { val := f32Zero (na ^^ nb) }
  | .fin na ma ea, .fin nb mb eb => fpPut md (na ^^ nb) (ma * mb) (ea + eb) false

/-! ## Fast-mode reciprocal, division and roots (R92) -/

/-- rcp[i] = round_ne(2^24 / (257 + 2i)); the quotient is never a tie, since 257 + 2i is odd. -/
def rcpTable (i : Nat) : Nat := (2 * 2 ^ 24 + (257 + 2 * i)) / (2 * (257 + 2 * i))

/-- rsq[i] = round_ne(2^16 / sqrt(mid)): mid is num / 128, and r is the integer nearest 2^16 · sqrt(128 / num). -/
def rsqTable (i : Nat) : Nat :=
  let num := if i < 64 then 128 + (2 * i + 1) else 256 + 2 * (2 * (i - 64) + 1)
  -- floor(2 · 2^16 · sqrt(128 / num)), then to the nearest half
  let t := isqrt (4 * 2 ^ 32 * 128 / num)
  (t + 1) / 2

/-- 2^k · x for a finite pattern, with R91's flush and overflow. -/
def fpScale (pilot : Bool) (x : F32) (k : Int) : F32 :=
  match fpDecode true x with
  | .fin n m e => fpFast (clsRm pilot) n m (e + k) false
  | _ => x

/-- k with 1 ≤ |x| / 2^k < 2, for a normal pattern. -/
def f32Exp (x : F32) : Int := (field x 23 8 : Int) - 127

/-- The pattern of m = |x| / 2^k in 1 … 2. -/
def f32Sig (x : F32) : F32 := f32Pack false 127 (field x 0 23)

def f32Of (n : Nat) (e : Int) : F32 := fpFast .ne false n e false

/-- The two refinement rounds of recip_fast on m in 1 … 2. -/
def recipCore (pilot : Bool) (m : F32) : F32 :=
  let md := FpMode.fast pilot
  let y := f32Of (rcpTable (field m 16 7)) (-16)
  let step (y : F32) : F32 :=
    let e := (fpFma md (f32Neg m) y f32One).val
    (fpFma md y e y).val
  step (step y)

def recipFast (pilot : Bool) (x : F32) : F32 :=
  match fpDecode true x with
  | .nan _ => f32Nan
  | .zero n => f32Inf n
  | .inf n => f32Zero n
  | .fin n _ _ =>
    let y := fpScale pilot (recipCore pilot (f32Sig x)) (-(f32Exp x))
    if n then f32Neg y else y

def divFast (pilot : Bool) (a b : F32) : F32 :=
  let md := FpMode.fast pilot
  match fpDecode true a, fpDecode true b with
  | .nan _, _ => f32Nan
  | _, .nan _ => f32Nan
  | .zero _, .zero _ => f32Nan
  | .inf _, .inf _ => f32Nan
  | .inf na, .zero nb => f32Inf (na ^^ nb)
  | .inf na, .fin nb _ _ => f32Inf (na ^^ nb)
  | .fin na _ _, .zero nb => f32Inf (na ^^ nb)
  | .zero na, .inf nb => f32Zero (na ^^ nb)
  | .zero na, .fin nb _ _ => f32Zero (na ^^ nb)
  | .fin na _ _, .inf nb => f32Zero (na ^^ nb)
  | .fin na _ _, .fin nb _ _ =>
    let ma := f32Sig a
    let mb := f32Sig b
    let r := recipCore pilot mb
    let q := (fpMul md ma r).val
    let d := (fpFma md (f32Neg mb) q ma).val
    let q := (fpFma md d r q).val
    let y := fpScale pilot q (f32Exp a - f32Exp b)
    if na ^^ nb then f32Neg y else y

def rsqrtCore (pilot : Bool) (x : F32) : F32 :=
  let md := FpMode.fast pilot
  let ex := f32Exp x
  let k := ex.fdiv 2
  let m := f32Pack false (127 + (ex - 2 * k).toNat) (field x 0 23)
  let i := if ex = 2 * k then field x 17 6 else 64 + field x 17 6
  let y := f32Of (rsqTable i) (-16)
  let half : F32 := 0x3F000000
  let step (y : F32) : F32 :=
    let p := (fpMul md y y).val
    let e := (fpFma md (f32Neg m) p f32One).val
    (fpFma md (fpMul md half y).val e y).val
  fpScale pilot (step (step y)) (-k)

def rsqrtFast (pilot : Bool) (x : F32) : F32 :=
  match fpDecode true x with
  | .nan _ => f32Nan
  | .zero n => f32Inf n
  | .inf n => if n then f32Nan else 0
  | .fin n _ _ => if n then f32Nan else rsqrtCore pilot x

def sqrtFast (pilot : Bool) (x : F32) : F32 :=
  let md := FpMode.fast pilot
  match fpDecode true x with
  | .nan _ => f32Nan
  | .zero n => f32Zero n
  | .inf n => if n then f32Nan else f32Inf false
  | .fin n _ _ =>
    if n then f32Nan
    else
      let r := rsqrtCore pilot x
      let s := (fpMul md x r).val
      let d := (fpFma md (f32Neg s) s x).val
      (fpFma md (fpMul md 0x3F000000 r).val d s).val

/-! ## Strict division and square root (R93) -/

def divStrict (rm : Rm) (a b : F32) : FpRes :=
  let md := FpMode.strict rm
  match fpDecode false a, fpDecode false b with
  | .nan _, _ => fpNan md [a, b]
  | _, .nan _ => fpNan md [a, b]
  | .zero _, .zero _ => fpInvalid md
  | .inf _, .inf _ => fpInvalid md
  | .inf na, .zero nb => { val := f32Inf (na ^^ nb) }
  | .inf na, .fin nb _ _ => { val := f32Inf (na ^^ nb) }
  | .fin na _ _, .zero nb => { val := f32Inf (na ^^ nb), flags := flDivZero }
  | .zero na, .inf nb => { val := f32Zero (na ^^ nb) }
  | .zero na, .fin nb _ _ => { val := f32Zero (na ^^ nb) }
  | .fin na _ _, .inf nb => { val := f32Zero (na ^^ nb) }
  | .fin na ma ea, .fin nb mb eb =>
    let n := ma * 2 ^ 64
    fpIeee rm (na ^^ nb) (n / mb) (ea - eb - 64) (n % mb != 0)

def sqrtStrict (rm : Rm) (x : F32) : FpRes :=
  let md := FpMode.strict rm
  match fpDecode false x with
  | .nan _ => fpNan md [x]
  | .zero n => { val := f32Zero n }
  | .inf n => if n then fpInvalid md else { val := f32Inf false }
  | .fin n m e =>
    if n then fpInvalid md
    else
      let (m, e) := if e % 2 = 0 then (m, e) else (2 * m, e - 1)
      let big := m * 2 ^ 64
      let r := isqrt big
      fpIeee rm false r (e / 2 - 32) (r * r != big)

def fpDiv (md : FpMode) (a b : F32) : FpRes :=
  match md with | .fast p => { val := divFast p a b } | .strict r => divStrict r a b

def fpSqrt (md : FpMode) (x : F32) : FpRes :=
  match md with | .fast p => { val := sqrtFast p x } | .strict r => sqrtStrict r x

/-! ## Minimum, maximum, comparison, conversion -/

/-- An ordering key: −0 below +0. -/
def fpKey (daz : Bool) (x : F32) : Int :=
  match fpDecode daz x with
  | .zero n => if n then -1 else 0
  | _ => if bit x 31 then -1 - (field x 0 31 : Int) else field x 0 31

/-- A finite or infinite operand as the mode reads it. -/
def fpRead (md : FpMode) (x : F32) : F32 :=
  match fpDecode md.isFast x with | .zero n => f32Zero n | _ => x

/-- IEEE 754-2019 minimum and maximum (R91). -/
def fpMinMax (md : FpMode) (isMax : Bool) (a b : F32) : FpRes :=
  match fpDecode md.isFast a, fpDecode md.isFast b with
  | .nan _, _ => fpNan md [a, b]
  | _, .nan _ => fpNan md [a, b]
  | _, _ =>
    let le := decide (fpKey md.isFast a ≤ fpKey md.isFast b)
    { val := fpRead md (if le = isMax then b else a) }

/-- CMP of Table 07-6: 0 equal, 1 less, 2 less or equal, 3 not equal; unordered is unequal. The second component:
an operand is a NaN; the third: one signals. -/
def fpCompare (md : FpMode) (cmp : Nat) (a b : F32) : Bool × Bool × Bool :=
  let key (x : F32) : Int := match fpDecode md.isFast x with | .zero _ => 0 | _ => fpKey md.isFast x
  match fpDecode md.isFast a, fpDecode md.isFast b with
  | .nan _, _ => (cmp == 3, true, f32Signals a || f32Signals b)
  | _, .nan _ => (cmp == 3, true, f32Signals a || f32Signals b)
  | _, _ =>
    let r := if cmp = 0 then decide (key a = key b) else if cmp = 1 then decide (key a < key b)
             else if cmp = 2 then decide (key a ≤ key b) else decide (key a ≠ key b)
    (r, false, false)

/-- FP32 → INT32 (VCVT SUB = 0). Strict: R94. Fast: a NaN or out-of-range input is an invalid operation, which R91
gives 0x7FC0_0000 (DEDUCED, notes/assumptions/4.md). -/
def fpToInt (md : FpMode) (x : F32) : FpRes :=
  let bad : FpRes := if md.isFast then { val := f32Nan } else { val := 0x80000000, flags := flInvalid }
  match fpDecode md.isFast x with
  | .nan _ => bad
  | .inf _ => bad
  | .zero _ => { val := 0 }
  | .fin n m e =>
    let (q, ix) := if 0 ≤ e then (m * 2 ^ e.toNat, false) else roundShift md.rm n m (-e).toNat false
    let v : Int := if n then -(q : Int) else q
    if v < -(2 ^ 31) ∨ 2 ^ 31 ≤ v then bad
    else { val := BitVec.ofInt 32 v, flags := if ix ∧ ¬ md.isFast then flInexact else 0 }

/-- INT32 → FP32 (VCVT SUB = 1), and flt of R231. -/
def intToFp (md : FpMode) (x : Int) : FpRes :=
  if x = 0 then { val := 0 } else fpPut md (decide (x < 0)) x.natAbs 0 false

end Sys2Proof.Machine
end

