-- ==== Sys2Proof/Machine/Operands.lean ====
section
/-! DEFINITION. Tensor descriptors (Table 07-3), block shapes (Table 03-9), the decoding of stored blocks (R48 to R55,
R58), the integer forms and signed digits of the cube (R79, R80), the anchor and shift (R83), the transpose (R174),
and the field accessors of the tile, drain and stream tables. -/

namespace Sys2Proof.Machine
open Sys2Proof

/-! ## Tensor descriptor -/

abbrev Desc := BitVec 512

def Desc.format (d : Desc) : Nat := field d 32 4
def Desc.layout (d : Desc) : Nat := field d 36 2
def Desc.planes (d : Desc) : Nat := field d 38 2
/-- SCREE_CAP: 0, 1, 2 or 4 entries. -/
def Desc.cap (d : Desc) : Nat := nth 0 [0, 1, 2, 4] (field d 40 2)
def Desc.rotAxis (d : Desc) : Nat := field d 44 1
/-- h of ROT_ORDER: 0 for none, else 2, 3, 4 (Table 04-5). -/
def Desc.rotH (d : Desc) : Nat := nth 0 [0, 2, 3, 4] (field d 42 2)
def Desc.scaleOn (d : Desc) : Bool := bit d 45
def Desc.movable (d : Desc) : Bool := bit d 46
def Desc.ceiling (d : Desc) : Nat := field d 48 8
def Desc.scale (d : Desc) : Int := (d.extractLsb' 56 8).toInt
def Desc.rows (d : Desc) : Nat := field d 64 32
def Desc.cols (d : Desc) : Nat := field d 96 32
def Desc.base (d : Desc) : Nat := field d 128 36
def Desc.plane1 (d : Desc) : Nat := field d 164 36
def Desc.plane2 (d : Desc) : Nat := field d 200 36
def Desc.screeBase (d : Desc) : Nat := field d 236 36
def Desc.cls (d : Desc) : Nat := field d 272 3
def Desc.home (d : Desc) : Nat := field d 275 7
def Desc.settleToken (d : Desc) : Nat := field d 288 17
def Desc.tensorId (d : Desc) : BitVec 32 := d.extractLsb' 0 32

def Desc.isK4n (d : Desc) : Bool := decide (d.format ≤ 2)
def Desc.isG16 (d : Desc) : Bool := d.format == 3
def Desc.isInt (d : Desc) : Bool := d.format == 4 || d.format == 5
def Desc.isScaled (d : Desc) : Bool := d.isK4n || d.isG16

/-- B_r × B_c (Table 03-9). -/
def Desc.blockRows (d : Desc) : Nat :=
  if d.format ≤ 2 ∨ d.format = 4 then 8 else if d.format = 3 ∨ d.format = 5 then 4
  else if d.layout = 2 then 8 else if d.layout = 3 then 4 else 1
def Desc.blockCols (d : Desc) : Nat :=
  if d.format = 3 then 4 else if d.format ≤ 5 then 8 else if d.layout = 3 then 4 else 8

/-- Base bursts of one block (Table 03-9). -/
def Desc.blockBursts (d : Desc) : Nat :=
  if d.format ≤ 5 then 1 else if d.layout = 2 then 8 else if d.layout = 3 then 2 else 1

def ceilDiv (a b : Nat) : Nat := (a + b - 1) / b
def roundUp (a b : Nat) : Nat := ceilDiv a b * b

/-- Stored rows and columns: a rotated dimension is rounded up to its group (R76; DEDUCED,
notes/assumptions/5.md). -/
def Desc.storedCols (d : Desc) : Nat :=
  if d.rotH ≠ 0 ∧ d.rotAxis = 0 then roundUp d.cols (4 ^ d.rotH) else d.cols
def Desc.storedRows (d : Desc) : Nat :=
  if d.rotH ≠ 0 ∧ d.rotAxis = 1 then roundUp d.rows (4 ^ d.rotH) else d.rows

/-- Blocks in one block row. -/
def Desc.gridCols (d : Desc) : Nat := ceilDiv d.storedCols d.blockCols
def Desc.gridRows (d : Desc) : Nat := ceilDiv d.storedRows d.blockRows
/-- Blocks of the tensor. -/
def Desc.blocks (d : Desc) : Nat := d.gridRows * d.gridCols

/-- The sequence index of the block that holds an element (R47). -/
def Desc.seqOf (d : Desc) (r c : Nat) : Nat := (r / d.blockRows) * d.gridCols + c / d.blockCols

/-- The position within its block of an element. -/
def Desc.posOf (d : Desc) (r c : Nat) : Nat := (r % d.blockRows) * d.blockCols + c % d.blockCols

/-- The burst address of block seq, burst j of the base region. -/
def Desc.burstAddr (d : Desc) (seq j : Nat) : Nat := d.base + seq * d.blockBursts + j

/-- The burst address of plane p of block seq. -/
def Desc.planeAddr (d : Desc) (p seq : Nat) : Nat := (if p = 1 then d.plane1 else d.plane2) + seq

/-- A block's base bursts, and its first n plane bursts, in the copy at an offset. -/
def Desc.baseBursts (d : Desc) (seq off : Nat) : List Nat := (List.range d.blockBursts).map (fun j => d.burstAddr seq j + off)
def Desc.planeBursts (d : Desc) (n seq off : Nat) : List Nat := (List.range n).map (fun p => d.planeAddr (p + 1) seq + off)

/-- The burst and first word of a block's scree slot (R51). -/
def Desc.screeAddr (d : Desc) (seq : Nat) : Nat := d.screeBase + seq * d.cap / 8
def Desc.screeWord (d : Desc) (seq : Nat) : Nat := seq * d.cap % 8

/-- Whether element i of block seq lies inside the stored tensor (R46). -/
def Desc.validAt (d : Desc) (seq i : Nat) : Bool :=
  let r := (seq / d.gridCols) * d.blockRows + i / d.blockCols
  let c := (seq % d.gridCols) * d.blockCols + i % d.blockCols
  decide (r < d.storedRows) && decide (c < d.storedCols)

/-! ## Tile, drain and stream tables -/

abbrev TileEntry := BitVec 256
def TileEntry.aDesc (x : TileEntry) : Nat := field x 0 16
def TileEntry.bDesc (x : TileEntry) : Nat := field x 16 16
def TileEntry.m0 (x : TileEntry) : Nat := field x 32 32
def TileEntry.n0 (x : TileEntry) : Nat := field x 64 32
def TileEntry.k0 (x : TileEntry) : Nat := field x 96 32
def TileEntry.klen (x : TileEntry) : Nat := field x 128 25
def TileEntry.taps (x : TileEntry) : Nat := field x 153 5

abbrev DrainEntry := BitVec 64
def DrainEntry.outDesc (x : DrainEntry) : Nat := field x 0 16
def DrainEntry.conv (x : DrainEntry) : Nat := field x 16 3
def DrainEntry.toStore (x : DrainEntry) : Bool := bit x 19
def DrainEntry.rung (x : DrainEntry) : Nat := field x 20 2
def DrainEntry.ceil (x : DrainEntry) : Nat := field x 22 2
def DrainEntry.norm (x : DrainEntry) : Bool := bit x 24
def DrainEntry.tsaddr (x : DrainEntry) : Nat := field x 25 19

abbrev StreamEntry := BitVec 256
def StreamEntry.desc (x : StreamEntry) : Nat := field x 0 16
def StreamEntry.target (x : StreamEntry) : Nat := field x 16 2
def StreamEntry.plane (x : StreamEntry) : Nat := field x 18 2
def StreamEntry.scree (x : StreamEntry) : Bool := bit x 20
def StreamEntry.xpose (x : StreamEntry) : Bool := bit x 21
def StreamEntry.isStore (x : StreamEntry) : Bool := bit x 22
def StreamEntry.start (x : StreamEntry) : Nat := field x 24 32
def StreamEntry.nIn (x : StreamEntry) : Nat := field x 56 16
def StreamEntry.strideIn (x : StreamEntry) : Int := (x.extractLsb' 72 32).toInt
def StreamEntry.nOut (x : StreamEntry) : Nat := field x 104 16
def StreamEntry.strideOut (x : StreamEntry) : Int := (x.extractLsb' 120 32).toInt
def StreamEntry.tsaddr (x : StreamEntry) : Nat := field x 152 19

/-- Blocks the stream visits, and the i-th one's sequence index (R130). -/
def StreamEntry.count (x : StreamEntry) : Nat := x.nOut * x.nIn
def StreamEntry.seqAt (x : StreamEntry) (i : Nat) : Nat :=
  ((x.start : Int) + (i / x.nIn : Nat) * x.strideOut + (i % x.nIn : Nat) * x.strideIn).toNat

/-! ## Blocks -/

/-- Grid magnitudes of Table 03-3. -/
def k4nMag (k : Nat) : Nat := nth 0 [0, 2, 4, 6, 9, 12, 16, 22] k

def nibble (d : BitVec 272) (i : Nat) : Nat := field d (4 * i) 4

def flZero (f : BitVec 8) : Bool := bit f 4
def flEscape (f : BitVec 8) : Bool := bit f 7

/-- Stored position of view position i of a transposed square block of n columns. -/
def transPos (n i : Nat) : Nat := (i % n) * n + i / n

/-- Escape codes before stored position i of an untransposed base burst. -/
def escapesBefore (b : BitVec 272) (i : Nat) : Nat := ((List.range i).filter (fun j => nibble b j == 8)).length

/-- Escape codes before stored position i where the burst holds the transposed codes (R174): stored order counts. -/
def escBefore (blk : Block) (i : Nat) : Nat :=
  if blk.xpose then ((List.range i).filter (fun j => nibble blk.base (transPos 8 j) == 8)).length
  else escapesBefore blk.base i

/-- Number of escape codes of a block. -/
def escCount (b : BitVec 272) : Nat := escapesBefore b 64

/-- The code nibble at stored position i: a block that passed the transpose unit holds it at the mirrored place. -/
def Block.nib (blk : Block) (d : BitVec 272) (i : Nat) : Nat := nibble d (if blk.xpose then transPos 8 i else i)

/-- An element as the cube takes it: an ordinary integer, or an escape's scree value. -/
inductive Elem where
  | num (n : Int) | esc (n : Int)
  deriving DecidableEq, Repr

/-- The scree entry of the escape at stored position i. -/
def Block.entry (blk : Block) (i : Nat) : BitVec 32 := nth 0 blk.scree (escBefore blk i)

/-- K4N element at stored position i: in units for the digit input without planes, else in sixteenths (R79). -/
def k4nElem (blk : Block) (i : Nat) (units : Bool) : Elem :=
  if flZero (burstFlags blk.base) then .num 0
  else
    let c := blk.nib blk.base i
    if c = 8 then .esc ((blk.entry i).extractLsb' 10 16).toInt
    else
      let g : Int := if c < 8 then k4nMag c else -(k4nMag (c - 8) : Int)
      if units then .num g
      else
        let p (d : BitVec 272) : Int := (BitVec.ofNat 4 (blk.nib d i)).toInt
        .num (16 * g + (if 1 ≤ blk.planes then 8 * p blk.p1 else 0) + (if 2 ≤ blk.planes then p blk.p2 else 0))

/-- Element at stored position i of a block of a cube-readable format, as the given input takes it. -/
def blockElem (d : Desc) (blk : Block) (i : Nat) (digit : Bool) : Elem :=
  if d.isK4n then k4nElem blk i (digit && blk.planes == 0)
  else if flZero (burstFlags blk.base) then .num 0
  else if d.isG16 then .num ((blk.base.extractLsb' (16 * i) 16).toInt)
  else if d.format = 4 then .num ((blk.base.extractLsb' (4 * (if blk.xpose then transPos 8 i else i)) 4).toInt)
  else .num ((blk.base.extractLsb' (8 * i) 8).toInt)

/-- q of Table 05-1. -/
def formQ (d : Desc) (blk : Block) (digit : Bool) : Int :=
  if d.isK4n then (if digit && blk.planes == 0 then 131 else 135) else if d.isG16 then 141 else 0

/-- E of an operand block: the block's, or SCALE for INT (R83). -/
def blockE (d : Desc) (blk : Block) : Int :=
  if d.isInt then (if d.scaleOn then d.scale else 0) else burstE blk.base

/-- F of Table 05-3 at ceiling c. -/
def anchorF (d : Desc) (c : Nat) : Int := if d.isInt then (if d.scaleOn then d.scale else 0) else (c : Int) - 47

/-- Q of Table 05-3. -/
def anchorQ (a b : Desc) : Int :=
  if a.isScaled && b.isScaled then 276
  else if a.isInt && b.isInt then 0
  else if a.isG16 || b.isG16 then 141 else 135

/-- The anchor of a pass (R83). -/
def anchorOf (a b : Desc) (ca cb : Nat) : Int := anchorF a ca + anchorF b cb - anchorQ a b

/-- Passes of Table 05-2 by the digit operand, which is A when MODE's DSIDE says so (R80, R122). An INT8 digit operand
takes two whatever the other is: its values have up to four digits (R80, R81; DEDUCED, notes/assumptions/129.md). -/
def passCount (digit : Desc) (planes : Nat) : Nat :=
  if digit.isK4n then (if planes = 0 then 1 else 2) else if digit.format = 5 then 2 else 1

/-- Canonical signed digits of n, most significant first, on fuel. -/
def csd : Nat → Nat → Int → List Int → List Int
  | 0, _, _, acc => acc
  | f + 1, k, n, acc =>
    if n = 0 then acc
    else if n % 2 = 0 then csd f (k + 1) (n / 2) acc
    else
      let d : Int := if n % 4 = 1 then 1 else -1
      csd f (k + 1) ((n - d) / 2) (d * 2 ^ k :: acc)

/-- The part of n that digit pass p presents: digits 3p … 3p + 2 (R80). -/
def digitPart (n : Int) (p : Nat) : Int := (((csd 24 0 n []).drop (3 * p)).take 3).foldl (· + ·) 0

/-! ## Format checks (R58) -/

/-- FMT_RESERVED. -/
def fmtReserved (d : BitVec 272) : Bool := field d 264 2 != 0 || field d 266 2 == 3

/-- FMT_ESCAPE of a K4N base burst with ZERO = 0. -/
def fmtEscape (d : Desc) (b : BitVec 272) : Bool :=
  let n := escCount b
  (n != 0 && !flEscape (burstFlags b)) || (n == 0 && flEscape (burstFlags b)) || decide (d.cap < n)

/-- FMT_PLANE. -/
def fmtPlane (blk : Block) : Bool :=
  let bad (d : BitVec 272) : Bool := d.extractLsb' 256 16 != blk.base.extractLsb' 256 16
  (decide (1 ≤ blk.planes) && bad blk.p1) || (decide (2 ≤ blk.planes) && bad blk.p2)

/-- FMT_SCREE: an escape's entry names another position or block (R52). -/
def fmtScree (blk : Block) (seq : Nat) : Bool :=
  (List.range 64).any (fun i => blk.nib blk.base i == 8 &&
    (field (blk.entry i) 26 6 != i || field (blk.entry i) 0 10 != seq % 1024))

/-- Table 12-1 codes of a block's own format errors, lowest first: with `paired = false` planes and scree are not
read (R82). Outside the K4N family no code is an escape code (Table 03-2, R53), so ESCAPE = 1 is FMT_ESCAPE there
(DEDUCED, notes/assumptions/125.md). -/
def fmtCauses (d : Desc) (blk : Block) (seq : Nat) (paired : Bool) : List Nat :=
  let z := flZero (burstFlags blk.base)
  (if d.isK4n && !z && fmtEscape d blk.base then [0x03] else [])
  ++ (if (d.isG16 || d.isInt) && !z && flEscape (burstFlags blk.base) then [0x03] else [])
  ++ (if d.isK4n && !z && paired && fmtScree blk seq then [0x04] else [])
  ++ (if d.isK4n && !z && paired && fmtPlane blk then [0x05] else [])
  ++ (if (d.isScaled || d.isInt) && fmtReserved blk.base then [0x06] else [])
  ++ (if blk.poison || (paired && blk.finePoison) then [0x0C] else [])

/-! ## Values for DEQ and the vector unit -/

/-- The exact value of element i of a block as (m, e): m · 2^e (R45 to R54). FP32 and INT32 hold eight per burst. -/
def blockValue (d : Desc) (blk : Block) (i : Nat) : Int × Int :=
  if d.isK4n then
    (match k4nElem blk i false with | .num n => n | .esc n => n, (burstE blk.base : Int) - 135)
  else if flZero (burstFlags blk.base) && d.isG16 then (0, 0)
  else if d.isG16 then ((blk.base.extractLsb' (16 * i) 16).toInt, (burstE blk.base : Int) - 141)
  else (match blockElem d blk i false with | .num n => n | .esc n => n, if d.scaleOn then d.scale else 0)

/-! ## Transpose unit (R174) -/

/-- Transposes nibbles of an 8 × 8 burst. -/
def transNibbles (x : BitVec 272) : BitVec 272 :=
  (x.extractLsb' 256 16 ++ packLanes 256 4 ((List.range 64).map (fun i => x.extractLsb' (4 * transPos 8 i) 4)))

/-- Transposes an FP32 or INT32 block of n × n words held in bursts of eight words. -/
def transWords (n : Nat) (bs : List (BitVec 272)) : List (BitVec 272) :=
  let word (i : Nat) : BitVec 32 := (nth 0 bs (i / 8)).extractLsb' (32 * (i % 8)) 32
  (List.range bs.length).map (fun b =>
    (0 : BitVec 16) ++ packLanes 256 32 ((List.range 8).map (fun j => word (transPos n (8 * b + j)))))

end Sys2Proof.Machine
end

