-- ==== Sys2Proof/Machine/Quant.lean ====
section
/-! DEFINITION. The quantisers (R63 to R68), the drain's conversions (R89, R90), rotations (R76), XP blocks (R59, R60),
the exact norm (R143, R144), the counter generator (R97) and the digest of R251. Inputs are exact dyadic numbers
(m, e), value m · 2^e. -/

namespace Sys2Proof.Machine
open Sys2Proof

/-- An exact dyadic number m · 2^e. -/
abbrev Dy := Int × Int

/-- m · 2^e as an integer count of 2^u; exact when u ≤ e, else floor. -/
def Dy.at (x : Dy) (u : Int) : Int := if u ≤ x.2 then x.1 * 2 ^ (x.2 - u).toNat else x.1.fdiv (2 ^ (u - x.2).toNat)

/-- Rounds m · 2^e to an integer with ties as the class says, away from zero or to even (R10). -/
def roundDy (rm : Rm) (x : Dy) : Int :=
  if 0 ≤ x.2 then x.1 * 2 ^ x.2.toNat
  else
    let q := (roundShift rm (decide (x.1 < 0)) x.1.natAbs (-x.2).toNat false).1
    if x.1 < 0 then -(q : Int) else q

def Dy.shift (x : Dy) (k : Int) : Dy := (x.1, x.2 + k)

/-- |x| ≤ |y|. -/
def dyLeAbs (x y : Dy) : Bool :=
  let u := min x.2 y.2
  decide ((Dy.at (x.1.natAbs, x.2) u) ≤ (Dy.at (y.1.natAbs, y.2) u))

/-! ## K4N (R64, R65) -/

/-- need(m) of R65 for m ≠ 0: 22 · 2^t takes significands up to 1.375 at t = l + x + 131 − 4. -/
def needK4n (x : Dy) : Int :=
  let m := x.1.natAbs
  let l := log2Nat m
  if 8 * m ≤ 11 * 2 ^ l then (l : Int) + x.2 + 127 else (l : Int) + x.2 + 128

/-- round_grid of R64 on a magnitude a / one. -/
def roundGrid (pilot : Bool) (a one : Nat) : Nat :=
  let k := ((List.range 8).filter (fun k => k4nMag k * one ≤ a)).length - 1
  if k4nMag k * one = a ∨ k = 7 then k
  else
    let lo := a - k4nMag k * one
    let hi := k4nMag (k + 1) * one - a
    if lo < hi then k else if hi < lo then k + 1
    else if pilot then k + 1 else if k % 2 = 0 then k else k + 1

/-- A quantised block: E, FLAGS, bursts of base and planes, scree entries, and what R66 counts. -/
structure QBlock where
  e : Nat := 0
  flags : BitVec 8 := 0
  bursts : List (BitVec 272) := []
  scree : List (BitVec 32) := []
  sat : Bool := false
  unf : Bool := false
  esc : Bool := false
  low : Bool := false
  zero : Bool := false
  mant : List Int := []
  deriving DecidableEq, Repr

def mkFlags (esc sat unf zero : Bool) (rung : Nat) : BitVec 8 :=
  BitVec.ofNat 8 (128 * boolNat esc + 64 * boolNat sat + 32 * boolNat unf + 16 * boolNat zero + 4 * rung)

/-- A zero block of n bursts (R44, R50). -/
def zeroBlock (unf : Bool) (rung n cap : Nat) : QBlock :=
  let f := mkFlags false false unf true rung
  { flags := f, bursts := List.replicate n (mkBurst f 0 0), scree := List.replicate cap 0, unf := unf, low := unf,
    zero := true, mant := List.replicate 16 0 }

/-- One element's code, plane nibbles and scree value (R65). -/
structure QElem where
  code : Nat := 0
  r1 : Int := 0
  r2 : Int := 0
  esc : Option Int := none

/-- Encodes v units, |v| ≤ 22 when not an escape. -/
def quantElem (pilot sat : Bool) (v : Dy) : QElem :=
  let u := min v.2 0
  let one : Nat := 2 ^ (-u).toNat
  let a := (Dy.at v u).natAbs
  let neg := decide (v.1 < 0)
  if !sat && decide (22 * one < a) then { code := 8, esc := some (roundDy (clsRm pilot) (v.shift 4)) }
  else
    let a := min a (22 * one)
    let k := roundGrid pilot a one
    let g : Int := if neg then -(k4nMag k : Int) else k4nMag k
    let vi : Int := if neg then -(a : Int) else a
    let d : Int := vi - g * one
    let r1 := roundDy (clsRm pilot) (d, u + 1)
    let r2 := roundDy (clsRm pilot) (16 * d - 8 * r1 * one, u)
    { code := if g < 0 then k + 8 else k, r1 := r1, r2 := r2 }

/-- The k-th largest by magnitude of a list, repeats counted. -/
def dropMax (xs : List Dy) : List Dy :=
  match xs with
  | [] => []
  | x :: t =>
    let m := t.foldl (fun a b => if dyLeAbs a b then b else a) x
    xs.erase m

def maxAbs (xs : List Dy) : Option Dy :=
  match xs with
  | [] => none
  | x :: t => some (t.foldl (fun a b => if dyLeAbs a b then b else a) x)

def iterNat {α : Type} (f : α → α) : Nat → α → α
  | 0, x => x
  | n + 1, x => iterNat f n (f x)

/-- quant_k4n of R65: 64 inputs, none for padding; c live ceiling. -/
def quantK4n (x : List (Option Dy)) (c cap planes seq rung : Nat) (pilot : Bool) : QBlock :=
  let nz := (x.filterMap id).filter (fun d => d.1 != 0)
  match maxAbs nz with
  | none => zeroBlock false rung (planes + 1) cap
  | some top =>
    let eAll := needK4n top
    let eIn : Int := match maxAbs (iterNat dropMax cap nz) with | some m => needK4n m | none => 0
    let e := if 0 < cap ∧ 3 ≤ eAll - eIn then max eIn (eAll - 6) else eAll
    let floor : Int := (c : Int) - 47
    if eAll < floor then zeroBlock true rung (planes + 1) cap
    else
      let sat := decide ((c : Int) < e)
      let low := decide (e < floor)
      let e := if sat then (c : Int) else if low then floor else e
      let q (d : Option Dy) : QElem := match d with
        | none => {}
        | some d => quantElem pilot sat (d.shift (131 - e))
      let qs := x.map q
      let esc := qs.any (fun z => z.code == 8)
      let unf := low && (x.zip qs).any (fun p => match p.1 with | some d => d.1 != 0 && p.2.code == 0 | none => false)
      let f := mkFlags esc sat unf false rung
      let nib (g : QElem → BitVec 4) : BitVec 256 := packLanes 256 4 (qs.map g)
      let mk (p : BitVec 256) : BitVec 272 := mkBurst f (BitVec.ofInt 8 e) p
      let b0 := mk (nib (fun z => BitVec.ofNat 4 z.code))
      let b1 := mk (nib (fun z => BitVec.ofInt 4 z.r1))
      let b2 := mk (nib (fun z => BitVec.ofInt 4 z.r2))
      let ents := (qs.zipIdx).filterMap (fun p => p.1.esc.map (fun v =>
        (BitVec.ofNat 6 p.2 ++ BitVec.ofInt 16 v ++ BitVec.ofNat 10 seq : BitVec 32)))
      { e := e.toNat, flags := f, bursts := [b0, b1, b2].take (planes + 1),
        scree := (ents ++ List.replicate cap 0).take cap, sat := sat, unf := unf, esc := esc, low := low }

/-! ## G16 (R67) -/

/-- need_g of R67 for m ≠ 0. -/
def needG16 (pilot : Bool) (x : Dy) : Int :=
  let m := x.1.natAbs
  let l := log2Nat m
  let e := (l : Int) + x.2 + 127
  if roundDy (clsRm pilot) (m, x.2 + 141 - e) ≤ 32767 then e else e + 1

/-- quant_g16 of R67; `mant` keeps the mantissas. -/
def quantG16 (x : List (Option Dy)) (c rung : Nat) (pilot : Bool) : QBlock :=
  let nz := (x.filterMap id).filter (fun d => d.1 != 0)
  match maxAbs nz with
  | none => zeroBlock false rung 1 0
  | some top =>
    let e := needG16 pilot top
    if e < (c : Int) - 47 then zeroBlock true rung 1 0
    else
      let sat := decide ((c : Int) < e)
      let e := if sat then (c : Int) else e
      let m (d : Option Dy) : Int := match d with
        | none => 0
        | some d => max (-32767) (min 32767 (roundDy (clsRm pilot) (d.shift (141 - e))))
      let ms := x.map m
      let f := mkFlags false sat false false rung
      { e := e.toNat, flags := f, bursts := [mkBurst f (BitVec.ofInt 8 e) (packLanes 256 16 (ms.map (BitVec.ofInt 16)))],
        sat := sat, mant := ms }

/-- An FP32 input of a quantiser: subnormals exact, an infinity beyond every ceiling; none for a NaN (R68). -/
def fpDy (x : F32) : Option Dy :=
  match fpDecode false x with
  | .nan _ => none
  | .inf n => some (if n then -1 else 1, 400)
  | .zero _ => some (0, 0)
  | .fin n m e => some (if n then -(m : Int) else m, e)

def f32Finite (x : F32) : Bool := field x 23 8 != 255

/-- Adds one written block to the counts of R66. -/
def Counts.add (n : Counts) (q : QBlock) : Counts :=
  { blocks := n.blocks + 1, sat := n.sat + boolNat q.sat, unf := n.unf + boolNat q.unf, esc := n.esc + boolNat q.esc,
    low := n.low + boolNat q.low, maxE := if q.zero then n.maxE else max n.maxE q.e,
    minE := if q.zero then n.minE else some (match n.minE with | some e => min e q.e | none => q.e) }

def Counts.sum (a b : Counts) : Counts :=
  { blocks := a.blocks + b.blocks, sat := a.sat + b.sat, unf := a.unf + b.unf, esc := a.esc + b.esc, low := a.low + b.low,
    maxE := max a.maxE b.maxE,
    minE := match a.minE, b.minE with | some x, some y => some (min x y) | some x, none => some x | none, y => y }

/-- Quantises one block of a tensor from its elements. -/
def quantBlock (d : Desc) (c seq rung : Nat) (pilot : Bool) (x : List (Option Dy)) : QBlock :=
  if d.isG16 then quantG16 x c rung pilot else quantK4n x c d.cap d.planes seq rung pilot

/-- The inputs of block seq, with padding positions removed (R46). -/
def maskBlock (d : Desc) (seq : Nat) (x : List Dy) : List (Option Dy) :=
  x.zipIdx.map (fun p => if d.validAt seq p.2 then some p.1 else none)

/-! ## Rotation (R76) -/

def popcountOdd (n : Nat) : Bool := ((List.range 8).filter (fun i => n.testBit i)).length % 2 == 1

/-- A block of a rotated tensor with z in place of what lies beyond the logical edge. -/
def edgeZero {α : Type} (d : Desc) (seq : Nat) (z : α) (x : List α) : List α :=
  x.zipIdx.map (fun p =>
    let r := (seq / d.gridCols) * d.blockRows + p.2 / d.blockCols
    let c := (seq % d.gridCols) * d.blockCols + p.2 % d.blockCols
    if r < d.rows ∧ c < d.cols then p.1 else z)

/-- A block that lies wholly beyond the logical edge of a rotated tensor. -/
def beyondEdge (d : Desc) (seq : Nat) : Bool :=
  decide (d.rows ≤ (seq / d.gridCols) * d.blockRows) || decide (d.cols ≤ (seq % d.gridCols) * d.blockCols)

/-- One group of n = 4^h values: y_j = 2^(−h) Σ (−1)^popcount(i and j) x_i, exactly. -/
def rotate (h : Nat) (xs : List Dy) : List Dy :=
  let u : Int := xs.foldl (fun a x => if x.1 = 0 then a else min a x.2) 0
  let vs := xs.map (fun x => if x.1 = 0 then 0 else Dy.at x u)
  (List.range xs.length).map (fun j =>
    ((vs.zipIdx.foldl (fun a p => if popcountOdd (p.2 &&& j) then a - p.1 else a + p.1) 0), u - h))

/-! ## XP (R59, R60) -/

/-- canonical of R60 on fuel: the trailing zeros all mantissas share, up to B = 255. -/
def xpShrink : Nat → List Int → Nat → List Int × Nat
  | 0, m, e => (m, e)
  | f + 1, m, e => if e < 255 ∧ m.all (fun x => x % 2 == 0) then xpShrink f (m.map (· / 2)) (e + 1) else (m, e)

def xpCanonical (m : List Int) (e : Nat) (sat unf : Bool) (touch : Nat) : Acc :=
  if m.all (· == 0) then { zero := true, sat := sat, unf := unf, touch := touch, m := [], residues := [] }
  else
    let (m, e) := xpShrink 256 m e
    { zero := false, b := e, m := m, sat := sat, unf := unf, touch := touch,
      residues := m.map (fun x => (x.emod 127).toNat) }

/-- xp_add (R60); TOUCH adds (R212). -/
def xpAdd (a b : Acc) : Acc :=
  let sat := a.sat || b.sat
  let unf := a.unf || b.unf
  let t := a.touch + b.touch
  if a.zero then { b with sat := sat, unf := unf, touch := t }
  else if b.zero then { a with sat := sat, unf := unf, touch := t }
  else
    let lo := min a.b b.b
    let z := xpCanonical (List.zipWith (fun x y => x * 2 ^ (a.b - lo) + y * 2 ^ (b.b - lo)) a.m b.m) lo sat unf t
    -- R239: the residues are carried beside the mantissas, through the two shifts, the sum and the final shift
    let back := (7 - (z.b - lo) % 7) % 7
    let r (u v : Nat) : Nat := (u * 2 ^ ((a.b - lo) % 7) + v * 2 ^ ((b.b - lo) % 7)) * 2 ^ back % 127
    { z with residues := List.zipWith r a.residues b.residues }

/-- Whether an accumulator's residues agree with its mantissas (R239). -/
def Acc.residuesOk (a : Acc) : Bool :=
  if a.zero then a.residues.all (· == 0) else a.residues == a.m.map (fun x => (x.emod 127).toNat)

/-- A G16 burst as an XP block (R60). -/
def xpOfG16 (d : BitVec 272) (touch : Nat) : Acc :=
  let f := burstFlags d
  if flZero f then { zero := true, sat := bit f 6, unf := bit f 5, touch := touch }
  else xpCanonical ((List.range 16).map (fun i => (d.extractLsb' (16 * i) 16).toInt)) (burstE d) (bit f 6) (bit f 5) touch

/-- Width code of a canonical block: 0 24, 1 32, 2 48, 3 96. -/
def xpWidth (m : List Int) : Nat :=
  let fits (w : Nat) : Bool := m.all (fun x => decide (-(2 ^ (w - 1)) ≤ x) && decide (x ≤ 2 ^ (w - 1) - 1))
  if fits 24 then 0 else if fits 32 then 1 else if fits 48 then 2 else 3

def xpBytes (w : Nat) : Nat := nth 12 [3, 4, 6, 12] w

/-- The bytes of an XP block (Table 03-12). -/
def xpEncode (a : Acc) : List Byte :=
  let w := if a.zero then 0 else xpWidth a.m
  let hd : BitVec 16 := BitVec.ofNat 16 (4096 * boolNat a.unf + 2048 * boolNat a.sat + 1024 * boolNat a.zero + 256 * w + (if a.zero then 0 else a.b))
  leBytes 2 hd ++ (if a.zero then [] else a.m.flatMap (fun x => leBytes (xpBytes w) (BitVec.ofInt 96 x)))

/-- Reads one XP block; the rest of the bytes. -/
def xpDecode (touch : Nat) (bs : List Byte) : Acc × List Byte :=
  let hd : BitVec 16 := ofLe 16 (bs.take 2)
  let sat := bit hd 11
  let unf := bit hd 12
  let r := bs.drop 2
  if bit hd 10 then ({ zero := true, sat := sat, unf := unf, touch := touch }, r)
  else
    let n := xpBytes (field hd 8 2)
    let m := (List.range 16).map (fun i =>
      let v := leNat r (n * i) n
      if v < 2 ^ (8 * n - 1) then (v : Int) else (v : Int) - 2 ^ (8 * n))
    ({ zero := false, b := field hd 0 8, m := m, sat := sat, unf := unf, touch := touch,
       residues := m.map (fun x => (x.emod 127).toNat) }, r.drop (16 * n))

/-! ## The exact norm (R143, R144) -/

/-- The sum of squares of G16 blocks, in units of 2^(2C − 376). -/
def normSum (c : Nat) (qs : List QBlock) : Nat :=
  qs.foldl (fun s q => if q.zero then s
    else s + (q.mant.foldl (fun t m => t + m.natAbs * m.natAbs) 0) * 4 ^ (q.e - (c - 47))) 0

/-- The zero norm ZN. -/
def zeroNorm : Int := -(2 ^ 31)

/-- Bits of log2 of y / 2^64 in [1, 2), most significant first, by repeated squaring. -/
def log2Bits : Nat → Nat → Nat → Nat
  | 0, _, acc => acc
  | n + 1, y, acc =>
    let z := y * y / 2 ^ 64
    if 2 ^ 65 ≤ z then log2Bits n (z / 2) (2 * acc + 1) else log2Bits n z (2 * acc)

/-- fr of R144: the integer nearest log2(1 + f16 · 2^−16) · 2^20, from 24 bits of the logarithm. -/
def logFr (f16 : Nat) : Nat := (log2Bits 24 ((2 ^ 16 + f16) * 2 ^ 48) 0 + 8) / 16

/-- lognorm of R144. -/
def logNorm (s c : Nat) : Int :=
  if s = 0 then zeroNorm
  else
    let p := log2Nat s
    let f16 := s * 2 ^ 16 / 2 ^ p - 2 ^ 16
    asrInt (((p : Int) + 2 * c - 376) * 2 ^ 20 + logFr f16) 1

/-! ## Counter generator (R97) and digest (R251) -/

def mix (z : Word) : Word :=
  let z := (z ^^^ (z >>> 30)) * 0xBF58476D1CE4E5B9
  let z := (z ^^^ (z >>> 27)) * 0x94D049BB133111EB
  z ^^^ (z >>> 31)

def kcg (seed step : Word) (tensor : BitVec 32) (index : Word) (lane : Nat) : BitVec 32 :=
  let k := mix (seed ^^^ (step * 0x9E3779B97F4A7C15))
  let k := mix (k ^^^ (tensor.setWidth 64 * 0xD6E8FEB86659FD93))
  (mix (k ^^^ (index * 4 + BitVec.ofNat 64 lane))).setWidth 32

/-- kcg[31:8] · 2^−24, exact. -/
def uniformOf (d : BitVec 32) : F32 := fpFast .ne false (field d 8 24) (-24) false

/-- p = 2^61 − 1 of R251. -/
def digestP : Nat := 2 ^ 61 - 1

def digestKey (seed : Word) : Nat := (mix (seed ^^^ 0x4B474341)).toNat % (digestP - 1) + 1

/-- tag(t, reg, o) of R251. -/
def digestTag (t : BitVec 32) (reg o : Nat) : Nat :=
  (mix (mix (t.setWidth 64 * 4 + BitVec.ofNat 64 reg) ^^^ BitVec.ofNat 64 o)).toNat % digestP

/-- bh of R251 over the 272 bits of one burst. -/
def burstHash (key : Nat) (g : Nat) (d : BitVec 272) : Nat :=
  let r := (key + g) % digestP
  let r := if r = 0 then 1 else r
  let ws := (List.range 8).map (fun j => field d (32 * j) 32) ++ [field d 256 16]
  (ws.foldl (fun (p : Nat × Nat) w => (p.1 + w * p.2, p.2 * r % digestP)) (0, r)).1 % digestP

end Sys2Proof.Machine
end

