-- ==== Sys2Proof/Machine/Access.lean ====
section
/-! DEFINITION. Module reads and slot merges with their effects (R168 to R171, R391), copy records and live copies
(R225, R226), and the tables of a loaded schedule image (R385 to R388). -/

namespace Sys2Proof.Machine
open Sys2Proof

/-! ## Reads -/

/-- A read by the module: a correction is written back and counted, an uncorrectable burst contains (R169, R170). Once
contained no read is issued: none delivers data. UE_SOURCE 1 is scheduled traffic, every other source dynamic (R175). -/
def State.moduleRead (s : State) (b source : Nat) : ReadRes × State :=
  if s.mem.contained then (.uncorrectable 0, s)
  else
  let s := s.countServed b (source != 1)
  match s.readBurst b with
  | .clean d => (.clean d, s)
  | .corrected d => (.corrected d, s.noteCorrected b d true)
  | .poison => (.poison, s)
  | .uncorrectable sy => (.uncorrectable sy, s.memUe b sy source)

/-- Reads bursts in order, stopping at the first that delivers no data; the last component: it was poison. -/
def State.readBursts (s : State) (source : Nat) : List Nat → Option (List (BitVec 272)) × State × Bool
  | [] => (some [], s, false)
  | b :: bs =>
    match s.moduleRead b source with
    | (.clean d, s) =>
      let (r, s, p) := s.readBursts source bs
      (r.map (d :: ·), s, p)
    | (.corrected d, s) =>
      let (r, s, p) := s.readBursts source bs
      (r.map (d :: ·), s, p)
    | (.poison, s) => (none, s, true)
    | (.uncorrectable _, s) => (none, s, false)

/-- A slot merge (R391): read and correct, replace the words, write back with E = FLAGS = 0. True when it took place;
poison leaves the burst unchanged, an uncorrectable read contains. -/
def State.mergeSlot (s : State) (b first : Nat) (words : List (BitVec 32)) : ReadRes × State :=
  match s.moduleRead b 1 with
  | (.poison, s) => (.poison, s)
  | (.uncorrectable sy, s) => (.uncorrectable sy, s)
  | (r, s) =>
    let d := (r.data?).getD 0
    let p := words.zipIdx.foldl (fun (p : BitVec 256) w => if first + w.2 < 8 then setLane 32 p (first + w.2) w.1 else p) (payload d)
    (r, s.writeBurst b (mkBurst 0 0 p))

/-! ## The schedule image's tables -/

def Sched.desc (im : Sched) (d : Nat) : Desc := nth 0 im.descs d
def Sched.torEntry? (im : Sched) (t : Nat) : Option TorEntry := im.tors.find? (fun e => e.tor == t)
def Sched.stream? (im : Sched) (t : Nat) : Option Stream :=
  (im.torEntry? t).bind (fun e => im.streams[e.stream]?)
def Sched.tile (im : Sched) (t i : Nat) : TileEntry := match im.stream? t with | some st => nth 0 st.tiles i | none => 0
def Sched.drain (im : Sched) (t i : Nat) : DrainEntry := match im.stream? t with | some st => nth 0 st.drains i | none => 0
def Sched.load (im : Sched) (i : Nat) : StreamEntry := nth 0 im.loads i

/-- T_s of R387: the tiles of the streams before stream k. -/
def Sched.altBase (im : Sched) (k : Nat) : Nat := ((im.streams.take k).map (fun st => st.tiles.length)).foldl (· + ·) 0

/-- The number of tile i's ALTERNATES entry (R387). -/
def Sched.altNo (im : Sched) (t i : Nat) : Nat :=
  match im.torEntry? t with
  | some e => im.altBase e.stream + i
  | none => i

/-- An entry point of an ALTERNATES entry: 0 rung 0, 1 rung 1, 2 rung 2, 3 raised, 4 dropped; none for 0xFFFF_FFFF. -/
def Sched.altEntry (im : Sched) (n which : Nat) : Option Nat :=
  match im.alts[n]? with
  | none => none
  | some a => let x := field a (32 * which) 32; if x = 0xFFFFFFFF then none else some x

/-- What the micro-batch map gives a word or a tile of a tor's stream (Table 02-21). -/
def Sched.workOfWord (im : Sched) (t word : Nat) : Work :=
  match im.torEntry? t with | some e => workOfByte (nth 0xFF e.map word) | none => .shared
def Sched.workOfTile (im : Sched) (t tile : Nat) : Work :=
  match im.torEntry? t, im.stream? t with
  | some e, some st => workOfByte (nth 0xFF e.map (st.words.length + tile))
  | _, _ => .shared

/-! ## Parameter entries and coefficient rows (Tables 11-3, 11-4) -/

abbrev ParamEntry := BitVec 256
def ParamEntry.group (p : ParamEntry) : Nat := field p 0 8
def ParamEntry.wDesc (p : ParamEntry) : Nat := field p 8 16
def ParamEntry.wtDesc (p : ParamEntry) : Nat := field p 24 16
def ParamEntry.mDesc (p : ParamEntry) : Nat := field p 40 16
def ParamEntry.s1Desc (p : ParamEntry) : Nat := field p 56 16
def ParamEntry.s2Desc (p : ParamEntry) : Nat := field p 72 16
def ParamEntry.copyOffset (p : ParamEntry) : Nat := field p 88 36
def ParamEntry.recordBase (p : ParamEntry) : Nat := field p 124 36

abbrev CoefRow := BitVec 512
def CoefRow.denom (r : CoefRow) : Bool := bit r 1
def CoefRow.elclip (r : CoefRow) : Bool := bit r 2
def CoefRow.lagclip (r : CoefRow) : Bool := bit r 3
def CoefRow.bias (r : CoefRow) : Bool := bit r 4
def CoefRow.catchUp (r : CoefRow) : Bool := bit r 5
def CoefRow.avg (r : CoefRow) : Nat := field r 6 2
def CoefRow.strict (r : CoefRow) : Bool := bit r 8
def CoefRow.rnd (r : CoefRow) : Nat := field r 9 3
def CoefRow.sched (r : CoefRow) : Nat := field r 12 4
/-- FP32 field k of Table 11-4: 0 A1, 1 B1, 2 A2, 3 B2, 4 c_g, 5 c_d, 6 c_u, 7 EPS, 8 LAMBDA, 9 CLIP. -/
def CoefRow.fp (r : CoefRow) (k : Nat) : F32 := r.extractLsb' (32 + 32 * k) 32

def Sched.param (im : Sched) (i : Nat) : ParamEntry := nth 0 im.params i
def Sched.row (im : Sched) (i : Nat) : CoefRow := nth 0 im.groups i

/-- The parameter whose entry names a descriptor as W, Wᵀ, M, S1 or S2; 0 in WT_DESC and S2_DESC names none (R221). -/
def Sched.paramOf (im : Sched) (d : Nat) : Option Nat :=
  (im.params.zipIdx.find? (fun (p : ParamEntry × Nat) =>
    p.1.wDesc == d || p.1.mDesc == d || p.1.s1Desc == d || (d != 0 && (p.1.wtDesc == d || p.1.s2Desc == d)))).map (·.2)

/-- Rope members: ROPE_SIZE from PLAN; the member a position is of its rope, and the rope. Positions are listed in
ascending order (R379, R385). -/
def Sched.posIndex (im : Sched) (pos : Nat) : Nat := (im.positions.findIdx (fun e => e.1 == pos))

def State.ropeOf (s : State) (im : Sched) (pos : Nat) : Nat := im.posIndex pos / max 1 s.plan.ropeSize
def State.ropeMember (s : State) (im : Sched) (pos : Nat) : Nat := im.posIndex pos % max 1 s.plan.ropeSize

/-- The position of member m of rope r. -/
def State.posOfRope (s : State) (im : Sched) (r m : Nat) : Option Nat := (im.positions[r * s.plan.ropeSize + m]?).map (·.1)

/-- The rope member that owns a master block (R208): a parameter with no shard entry belongs to member 0. -/
def Sched.ownerMember (im : Sched) (param seq : Nat) : Nat :=
  match im.shards.find? (fun e => e.param == param && decide (e.first ≤ seq) && decide (seq < e.first + e.count)) with
  | some e => e.member
  | none => 0

/-- Whether this module owns a master block under its image's position. -/
def State.owns (s : State) (im : Sched) (param seq : Nat) : Bool := im.ownerMember param seq == s.ropeMember im im.position

/-- The parameters with no shard entry: each is a single shard of member 0 (R208). -/
def Sched.wholeParams (im : Sched) : List Nat :=
  (List.range im.params.length).filter (fun p => !im.shards.any (fun e => e.param == p))

/-- The number of the shard that holds a master block: its entry's, or past the entries for a parameter with none. -/
def Sched.shardOf (im : Sched) (param seq : Nat) : Nat :=
  match im.shards.findIdx? (fun e => e.param == param && decide (e.first ≤ seq) && decide (seq < e.first + e.count)) with
  | some i => i
  | none => im.shards.length + param

/-! ## Copy records and live copies (R225, R226) -/

/-- The burst and first word of a block's copy record. -/
def recordBurst (p : ParamEntry) (seq : Nat) : Nat := p.recordBase + seq / 4
def recordWord (seq : Nat) : Nat := 2 * (seq % 4)

/-- STAMP0 and STAMP1 of a record word pair in a burst. -/
def stampsOf (d : BitVec 272) (seq : Nat) : Nat × Nat :=
  (field d (32 * recordWord seq) 32, field d (32 * recordWord seq + 32) 32)

/-- The live copy: the larger stamp not above the pointer. -/
def liveOf (pointer : Nat) (st : Nat × Nat) : Nat :=
  if st.1 ≤ pointer then (if st.2 ≤ pointer ∧ st.1 < st.2 then 1 else 0) else if st.2 ≤ pointer then 1 else 0

/-- The name of a copy of a block: where its copy record's stamp stands. -/
def copyKey (p : ParamEntry) (seq copy : Nat) : Nat := 2 * (4 * p.recordBase + seq) + copy

/-- The live copy of a context's block: a copy whose step or attempt was not committed stays unseen until it is written
again, whatever step the pointer reaches (R226, R259; DEDUCED, notes/assumptions/127.md). -/
def Context.liveCopy (x : Context) (p : ParamEntry) (seq : Nat) (st : Nat × Nat) : Nat :=
  let hide (copy n : Nat) : Nat := if x.unseen.contains (copyKey p seq copy) then x.pointer + 1 else n
  liveOf x.pointer (hide 0 st.1, hide 1 st.2)

/-- A block's stamps as memory holds them, without effects on the counters. -/
def State.stamps (s : State) (p : ParamEntry) (seq : Nat) : Nat × Nat :=
  match s.readBurst (recordBurst p seq) with
  | .clean d => stampsOf d seq
  | .corrected d => stampsOf d seq
  | _ => (0, 0xFFFFFFFF)

/-- The master block that governs block seq of descriptor d of a parameter: Wᵀ uses its W block's record (R225). -/
def Sched.recordSeq (im : Sched) (p : ParamEntry) (d seq : Nat) : Nat :=
  if d = p.wtDesc ∧ p.wtDesc ≠ 0 then
    let t := im.desc d
    (seq % t.gridCols) * (im.desc p.wDesc).gridCols + seq / t.gridCols
  else seq

/-- The offset in bursts of the copy a read of block seq of descriptor d takes (R226): 0 for a tensor without copies. -/
def State.liveOffset (s : State) (x : Context) (im : Sched) (d seq : Nat) : Nat :=
  match im.paramOf d with
  | none => 0
  | some i =>
    let p := im.param i
    if x.liveCopy p (im.recordSeq p d seq) (s.stamps p (im.recordSeq p d seq)) = 1 then p.copyOffset else 0

/-- The plane-valid bit of a plane burst (R151): set for the blocks of shards the module owns, and for the bursts that
have landed since effect 1 of R24. -/
def State.planeOk (s : State) (x : Context) (im : Sched) (d seq addr : Nat) : Bool :=
  if (im.desc d).cls ≠ 0 then true
  else match im.paramOf d with
    | none => true
    | some i => s.owns im i (im.recordSeq (im.param i) d seq) || mapGet false x.planeValid addr

end Sys2Proof.Machine
end

