-- ==== Sys2Proof/Machine/Links.lean ====
section
/-! DEFINITION. The receive side of flows (R196), a port going down and the rescue (R206), and the classes of peers
(R203, R204). -/

namespace Sys2Proof.Machine
open Sys2Proof

/-! ## Receive side of a flow -/

/-- Advances BASE past the set bits at its front. -/
def Flow.slide : Nat → Flow → Flow
  | 0, x => x
  | n + 1, x => if bit x.seen 0 then { x with base := x.base + 1, seen := x.seen >>> 1 }.slide n else x

/-- What a sequence number finds (R196). -/
inductive FlowRes where
  | accepted (x : Flow) | duplicate | beyond
  deriving DecidableEq, Repr

def Flow.accept (x : Flow) (seq : BitVec 32) : FlowRes :=
  if seq.toNat < x.base.toNat then .duplicate
  else
    let i := seq.toNat - x.base.toNat
    if 256 ≤ i then .beyond
    else if bit x.seen i then .duplicate
    else .accepted ({ x with seen := x.seen ||| (1 <<< i) }.slide 256)

/-! ## Peers (R203, R204) -/

/-- 2 full, 1 half, 0 detoured, none unreachable (Table 10-6). -/
def State.peerClass (s : State) (q : Nat) : Option Nat :=
  let n := (s.upLinksTo q).length
  if n = 0 then (if (s.detourOf q).isSome then some 0 else none) else some (min n 2)

def State.directPeers (s : State) : Nat := (s.rangePeers.filter (fun q => !(s.upLinksTo q).isEmpty)).length
def State.unreachablePeers (s : State) : List Nat := s.rangePeers.filter (fun q => (s.peerClass q).isNone)
def State.portsUp (s : State) : Nat := (allPorts.filter (fun p => (s.port p).state == 3)).length

/-- R204's three conditions. -/
def State.meetsPlan (s : State) : Bool :=
  decide (s.plan.minDirect ≤ s.directPeers) && decide (s.plan.minUplinks ≤ s.upLinks.length) && s.unreachablePeers.isEmpty

/-- Discovery is settled once every planned port has had an outcome (R202); a port that trains again later leaves it so. -/
def State.discoverySettled (s : State) : Bool :=
  s.links.settled || allPorts.all (fun p => s.portClass p == 0 || (s.port p).outcome != 0)

/-- LNK_STATUS (chapter 10). -/
def State.lnkStatus (s : State) : Word :=
  put s.unreachablePeers.length 48 8 ||| put s.upLinks.length 40 8 ||| put s.directPeers 32 8 ||| put s.portsUp 24 8
  ||| put (boolNat s.links.belowMin) 3 1 ||| s.links.state.setWidth 64

/-- The own link map: working links to each slot (R203). -/
def State.ownMap (s : State) : List (BitVec 2) := (List.range 33).map (fun q => BitVec.ofNat 2 (min 3 (s.upLinksTo q).length))

/-- RANGE_MAP to every peer reached directly (R203). -/
def State.sendRangeMap (s : State) : State :=
  s.tellSlots 0x0B (s.rangePeers.filter (fun q => !(s.upLinksTo q).isEmpty)) (fun q => Output.rangeMapOut q s.ownMap)

/-! ## A port going down (R206) -/

/-- Requeues what a failed port held, in order, ahead of or behind what waits on the alternate routes; a packet that was
on its way to an exit slot over a range link still goes there. The hop over the failed link was not taken; a packet with
no route left is dropped as HOP_LIMIT (R199, R206, R207). -/
def State.requeue (s : State) (n : Nat) (ahead : Bool) : List Packet → State
  | [] => s
  | k :: ks =>
    let range := s.portClass n == 1
    let k := if range then { k with header := Header.set k.header 44 3 (Header.hops k.header - 1) } else k
    match s.route k.header (if range then some (s.portPeer n) else none) with
    | some m => (s.queueOn m k ahead).requeue n ahead ks
    | none => (s.setPort n { s.port n with hopLimit := satInc (s.port n).hopLimit }).requeue n ahead ks

/-- Pumps every port that is up. -/
def State.pumpAll (s : State) : State := allPorts.foldl (fun s n => if (s.port n).state = 3 then s.pumpPort n else s) s

/-- Declares a port down: LNK_DOWN, then the rescue of its retry buffer, ahead, and of its queues, behind (R206). -/
def State.portDown (s : State) (n : Nat) (newState : BitVec 4) : State :=
  let p := s.port n
  let keep (k : Packet) : Bool := Header.type k.header != 0x10
  let rescued := (p.retry.map (·.1)).filter keep
  let later := (p.ctlQ ++ p.dataQ).filter keep
  let s := s.setPort n { p with state := newState, retry := [], ctlQ := [], dataQ := [], cwTicks := [], nak := false }
  let s := if newState = 4 then s.raise 0x23 n else s
  ((s.requeue n true rescued.reverse).requeue n false later).pumpAll

/-- The R205 conditions as they now stand, without events. -/
def State.linkFlags (s : State) : State :=
  let below := !(decide (s.plan.minDirect ≤ s.directPeers) && decide (s.plan.minUplinks ≤ s.upLinks.length))
  { s with links := { s.links with belowMin := s.links.state == 2 && below,
                                   unreachable := s.unreachablePeers.foldl (fun m q => m ||| BitVec.ofNat 33 (2 ^ q)) 0 } }

/-- The hash a CLAIM carries: the first 32 bytes of the identity certificate's (chapter 10). -/
def claimHash : List Byte := (leBytes 64 (Config.shake256 Config.identityCertificate)).take 32

/-- Sends CLAIM on a port: a link-local packet with the own address and the port in ARG (chapter 10); the other fields
that R202 names no value for are 0 (DESIGN CHOICE, notes/assumptions/148.md). -/
def State.sendClaim (s : State) (n : Nat) : State :=
  let arg := put s.plan.ownAddr.toNat 0 15 ||| put n 16 7
  let h : Header := (arg ++ (0 : BitVec 32) ++ (0 : BitVec 16) ++ (0 : BitVec 8) ++ (0 : BitVec 8) ++ (0 : BitVec 15) ++ s.plan.ownAddr
    ++ (0 : BitVec 15) ++ (0 : BitVec 14) ++ (32 : BitVec 13) ++ (0x10 : BitVec 5) ++ (0 : BitVec 3) ++ (0 : BitVec 1) ++ (0 : BitVec 3)
    ++ (0 : BitVec 1) ++ (0 : BitVec 35) ++ (0 : BitVec 8) : BitVec 256)
  (((s.emit (.claimOut n s.plan.ownAddr)).setPort n ((s.port n).enqueue { header := h, payload := claimHash } false))).pumpPort n

/-- Ports whose claim matched at run time return to use, and say so (R202, R205). -/
def State.returnPorts (s : State) : State :=
  let back := allPorts.filter (fun n => (s.port n).returnAtCairn)
  if back.isEmpty then s
  else
    let s := back.foldl (fun s n => (s.setPort n { s.port n with state := 3, returnAtCairn := false }).sendClaim n) s
    (s.linkFlags).sendRangeMap.pumpAll

end Sys2Proof.Machine
end

