-- ==== Sys2Proof/Machine/Ni.lean ====
section
/-! DEFINITION. The network interface (chapter 11): node entries and reduction (R210 to R218), the owner stage (R219,
R220), the update engine (R223 to R226), re-quantisation and gather (R227 to R229), and the schedule engine (R231). -/

namespace Sys2Proof.Machine
open Sys2Proof

/-! ## Node entries (Table 11-2) -/

abbrev NodeEntry := BitVec 256
def NodeEntry.chunk (e : NodeEntry) : Nat := field e 0 24
def NodeEntry.gather (e : NodeEntry) : Bool := bit e 24
def NodeEntry.slice (e : NodeEntry) : Nat := field e 25 2
def NodeEntry.isLocal (e : NodeEntry) : Bool := bit e 27
def NodeEntry.own (e : NodeEntry) : Bool := bit e 28
def NodeEntry.nsrc (e : NodeEntry) : Nat := field e 29 6
def NodeEntry.srcList (e : NodeEntry) : Nat := field e 35 24
def NodeEntry.ndst (e : NodeEntry) : Nat := field e 59 3
def NodeEntry.dst (e : NodeEntry) (k : Nat) : Nat := field e (62 + 14 * k) 14
def NodeEntry.acc (e : NodeEntry) : Nat := field e 118 16
def NodeEntry.param (e : NodeEntry) : Nat := field e 134 24
def NodeEntry.first (e : NodeEntry) : Nat := field e 158 32
def NodeEntry.nmaster (e : NodeEntry) : Nat := field e 190 9
def NodeEntry.exitSlot (e : NodeEntry) (k : Nat) : Nat := field e (199 + 6 * k) 6
def NodeEntry.entrySlot (e : NodeEntry) (k : Nat) : Nat := field e (223 + 6 * k) 6

/-- The active plan's entries (R245). -/
def Context.plan (x : Context) : List NodeEntry :=
  match x.image with | some im => nth [] im.plans x.planIdx | none => []

def Context.findNode (x : Context) (chunk : Nat) (gather : Bool) : Option (Nat × NodeEntry) :=
  (x.plan.zipIdx.find? (fun (p : NodeEntry × Nat) => p.1.chunk == chunk && p.1.gather == gather)).map (fun p => (p.2, p.1))

def Context.node (x : Context) (i : Nat) : Node := mapGet {} x.nodes i
def Context.setNode (x : Context) (i : Nat) (n : Node) : Context := { x with nodes := mapSet {} x.nodes i n }

/-- Source and destination positions of an entry. -/
def Sched.sources (im : Sched) (e : NodeEntry) : List Nat := (im.posList.drop e.srcList).take e.nsrc
def NodeEntry.dests (e : NodeEntry) : List Nat := (List.range e.ndst).map e.dst

/-- The context's rounding class (R63). -/
def State.pilot (s : State) (c : CtxIdx) : Bool := (nth {} s.img.active.contexts c.toNat).pilot

/-! ## ARG of a COLL packet (Table 11-1) -/

structure CollArg where
  chunk : Nat
  first : Nat
  attempt : BitVec 2
  last : Bool
  counted : Bool
  failed : Bool
  gather : Bool
  packets : Nat
  contrib : Nat
  deriving DecidableEq, Repr

def CollArg.ofWord (w : Word) : CollArg :=
  { chunk := field w 0 24, first := field w 24 10, attempt := w.extractLsb' 34 2, last := bit w 36, counted := bit w 37,
    failed := bit w 38, gather := bit w 39, packets := field w 40 8, contrib := field w 48 16 }

def CollArg.toWord (a : CollArg) : Word :=
  put a.chunk 0 24 ||| put a.first 24 10 ||| put a.attempt.toNat 34 2 ||| put (boolNat a.last) 36 1
  ||| put (boolNat a.counted) 37 1 ||| put (boolNat a.failed) 38 1 ||| put (boolNat a.gather) 39 1
  ||| put a.packets 40 8 ||| put a.contrib 48 16

/-- The blocks of a reduction payload (R213), each with its chunk block index. -/
def parseRun (counted : Bool) : Nat → Nat → List Byte → List (Nat × Acc)
  | 0, _, _ => []
  | f + 1, i, bs =>
    if bs.isEmpty then []
    else
      let touch := if counted then leNat bs 0 2 else 1
      let (a, r) := xpDecode touch (if counted then bs.drop 2 else bs)
      (i, a) :: parseRun counted f (i + 1) r

/-- A piece of a payload: its first index, how many blocks, its bytes. -/
abbrev Run := Nat × Nat × List Byte

/-- Packs indexed blocks into packets of consecutive blocks, at most 4,096 bytes each (R215). -/
def packRuns : List (Nat × List Byte) → List Run → List Run
  | [], acc => acc.reverse
  | (i, b) :: t, [] => packRuns t [(i, 1, b)]
  | (i, b) :: t, (f, n, bs) :: acc =>
    if i = f + n ∧ bs.length + b.length ≤ 4096 then packRuns t ((f, n + 1, bs ++ b) :: acc)
    else packRuns t ((i, 1, b) :: (f, n, bs) :: acc)

/-- Sends packets of a chunk to one destination: all but the last with CONTRIB and PACKETS 0 (R212, R213). -/
def State.sendRuns (s : State) (c : CtxIdx) (arg : CollArg) (dst exit entry : Nat) : List Run → State
  | [] => s
  | (f, _, bs) :: t =>
    let last := t.isEmpty
    let a := { arg with first := f, last := last, packets := if last then arg.packets else 0, contrib := if last then arg.contrib else 0 }
    (s.sendPos c 0x01 dst a.toWord bs exit entry).sendRuns c arg dst exit entry t

/-- Sends a chunk's runs to every destination of its entry; nothing to send goes as one empty packet (R213). -/
def State.sendChunk (s : State) (c : CtxIdx) (e : NodeEntry) (arg : CollArg) (runs : List Run) : State :=
  let runs := if runs.isEmpty then [(0, 0, [])] else runs
  let arg := { arg with packets := runs.length }
  (List.range e.ndst).foldl (fun s k => s.sendRuns c arg (e.dst k) (e.exitSlot k) (e.entrySlot k) runs) s

/-! ## The items of a state copy (R267, Table 13-1) -/

/-- The bursts of a BLOCK8 master or state block in a copy. -/
def block8Addrs (d : Desc) (seq off : Nat) : List Nat := (List.range 8).map (fun j => d.burstAddr seq j + off)

/-- One item of a copy: kind, parameter, master block, region. Regions: of the own state 0 master, 1 s1, 2 s2; of the
own planes 1, 2 of W and 3, 4 of Wᵀ; of the bases 0 W, 1 its scree slot, 2 Wᵀ, 3 its scree slot. -/
abbrev CopyKey := CopyKind × Nat × Nat × Nat

/-- The items that the module of rope member m receives. -/
def Sched.copyItems (im : Sched) (pilot : Bool) (m : Nat) : List CopyKey :=
  im.params.zipIdx.flatMap (fun (e : ParamEntry × Nat) =>
    let p := e.1
    let w := im.desc p.wDesc
    let wt := pilot && p.wtDesc != 0
    (List.range w.blocks).flatMap (fun q =>
      let own : List CopyKey :=
        if im.ownerMember e.2 q ≠ m then []
        else [(.ownState, e.2, q, 0), (.ownState, e.2, q, 1)] ++ (if (im.row p.group).denom then [(.ownState, e.2, q, 2)] else [])
          ++ (List.range w.planes).map (fun k => (.ownPlane, e.2, q, k + 1))
          ++ (if wt then (List.range (im.desc p.wtDesc).planes).map (fun k => (.ownPlane, e.2, q, k + 3)) else [])
          ++ [(.stamp, e.2, q, 0)]
      own ++ [(.base, e.2, q, 0)] ++ (if w.cap = 0 then [] else [(.base, e.2, q, 1)])
        ++ (if wt then [(.base, e.2, q, 2)] ++ (if (im.desc p.wtDesc).cap = 0 then [] else [(.base, e.2, q, 3)]) else [])))

/-- The block of Wᵀ that mirrors block q of W (R78). -/
def Sched.mirror (im : Sched) (p : ParamEntry) (q : Nat) : Nat :=
  let w := im.desc p.wDesc
  (q % w.gridCols) * (im.desc p.wtDesc).gridCols + q / w.gridCols

/-- Where an item's bursts stand in copy 0; a scree slot is the burst that holds it. -/
def Sched.copyAddrs (im : Sched) (k : CopyKey) : List Nat :=
  let p := im.param k.2.1
  let q := k.2.2.1
  let w := im.desc p.wDesc
  let wt := im.desc p.wtDesc
  match k.1, k.2.2.2 with
  | .ownState, 0 => block8Addrs (im.desc p.mDesc) q 0
  | .ownState, 1 => block8Addrs (im.desc p.s1Desc) q 0
  | .ownState, _ => block8Addrs (im.desc p.s2Desc) q 0
  | .ownPlane, r => if r ≤ 2 then [w.planeAddr r q] else [wt.planeAddr (r - 2) (im.mirror p q)]
  | .stamp, _ => []
  | .base, 0 => [w.burstAddr q 0]
  | .base, 1 => [w.screeAddr q]
  | .base, 2 => [wt.burstAddr (im.mirror p q) 0]
  | .base, _ => [wt.screeAddr (im.mirror p q)]

/-- Every item of a block has landed: a catching-up module may use it (R268). -/
def State.blockLanded (s : State) (c : CtxIdx) (im : Sched) (param seq : Nat) : Bool :=
  let x := s.ctx c
  s.crn.ownState != 1 || x.copyDone ||
    ((im.copyItems (s.pilot c) (s.ropeMember im im.position)).zipIdx.filter (fun e => e.1.2.1 == param && e.1.2.2.1 == seq)).all
      (fun e => x.copied.contains e.2)

/-! ## The owner stage (R219, R220) -/

/-- A master block of a parameter, as one key. -/
def blockKey (param seq : Nat) : Nat := param * 2 ^ 32 + seq

/-- The gradient of element i of master block m of a node's chunk. -/
def ownerGrad (pilot : Bool) (avg contrib : Nat) (n : Node) (m i : Nat) : F32 :=
  let r := i / 8
  let col := i % 8
  let a := mapGet {} n.accs (4 * m + 2 * (r / 4) + col / 4)
  if a.touch = 0 ∨ a.zero then 0
  else
    let d := if avg = 0 then contrib else if avg = 1 then a.touch else 1
    fpOfRat pilot (nth 0 a.m (4 * (r % 4) + col % 4)) ((a.b : Int) - 141) d

/-- The sum of squares of a block's gradients in units of 2^−298; none when one is not finite. -/
def gradSquares (g : List F32) : Option Nat :=
  g.foldl (fun acc x => match acc, fpDecode false x with
    | some n, .fin _ m e => some (n + (m * 2 ^ (e + 149).toNat) * (m * 2 ^ (e + 149).toNat))
    | some n, .zero _ => some n
    | _, _ => none) (some 0)

/-- One master block of the owner stage: touched when any of its four G16 blocks is. Where a gradient is not finite, what
the block adds to N is a free value, a function of its gradients alone (R14, R16; DESIGN CHOICE,
notes/assumptions/147.md). -/
def State.ownerBlock (s : State) (c : CtxIdx) (im : Sched) (e : NodeEntry) (n : Node) (m : Nat) : State :=
  if (List.range 4).all (fun k => (mapGet ({} : Acc) n.accs (4 * m + k)).touch == 0) then s
  else
    let row := im.row (im.param e.param).group
    let g := (List.range 64).map (ownerGrad (s.pilot c) row.avg n.contrib n m)
    let key := blockKey e.param (e.first + m)
    let x := s.ctx c
    let x := { x with grads := mapSet [] x.grads key g, touched := if x.touched.contains key then x.touched else x.touched ++ [key] }
    if row.lagclip then
      s.setCtx c { x with clipN := x.clipN + (gradSquares g).getD (Config.clipOfNonfinite g).toNat }
    else s.setCtx c x

/-- The owner stage of a complete chunk (R217, R219); a catching-up module holds it until the chunk's blocks have landed
(R268). -/
def State.ownerStage (s : State) (c : CtxIdx) (i : Nat) (e : NodeEntry) : State :=
  let x := s.ctx c
  match x.image with
  | none => s
  | some im =>
    if !(List.range e.nmaster).all (fun m => s.blockLanded c im e.param (e.first + m)) then s.setCtx c { x with heldOwn := x.heldOwn ++ [i] }
    else
      let n := x.node i
      if n.failed then
        { s.setCtx c { x with failedOwn := x.failedOwn ++ [e.chunk], chunkPassed := x.chunkPassed ++ [e.chunk] }
          with ni := { s.ni with failedChunks := s.ni.failedChunks + 1 } }
      else
        let s := (List.range e.nmaster).foldl (fun s m => s.ownerBlock c im e n m) s
        let x := s.ctx c
        s.setCtx c { x with chunkPassed := x.chunkPassed ++ [e.chunk] }

/-! ## Nodes (R215 to R218) -/

/-- Positions of the system that are VACANT or CATCHING_UP (R245, R265). -/
def State.absentPositions (s : State) (im : Sched) : List Nat :=
  if s.singleModule then [] else (im.positions.map (·.1)).filter (fun p => !s.isActive p)

/-- The sources that an attempt goes without (R245): declared positions, and absent ones. -/
def State.goneSources (s : State) (x : Context) (im : Sched) : List Nat := x.declaredAt ++ s.absentPositions im

/-- Whether a node's chunk is complete (R215, item 5). -/
def nodeComplete (im : Sched) (gone : List Nat) (e : NodeEntry) (n : Node) : Bool :=
  (!e.isLocal || n.localDone) &&
  (im.sources e).all (fun p => gone.contains p || let q := mapGet ({} : SrcState) n.srcs p
    match q.announced with | some k => decide (k ≤ q.accepted) | none => false)

/-- Raises NI_RESIDUE or NI_COUNT_OVERFLOW (Table 12-1, class chunk). -/
def State.niFault (s : State) (cause : Nat) : State :=
  let s := s.recordCause cause 0 7 0
  { s with err := { s.err with niFaults := satInc s.err.niFaults },
           ni := { s.ni with countOverflow := s.ni.countOverflow || cause == 0x11 } }

/-- The runs a complete reduction node sends: whole XP blocks, each with its TOUCH unless CONTRIB is 1. -/
def reductionRuns (n : Node) (counted : Bool) : List Run :=
  packRuns (n.accs.filterMap (fun p => if p.2.touch = 0 then none
    else some (p.1, (if counted then leBytes 2 (BitVec.ofNat 16 p.2.touch) else []) ++ xpEncode p.2))) []

/-- Completes a reduction node when it can: residue check (R239), then the sends and the owner stage. A node that has
only a failed local contribution sends FAILED_CHUNK (R140, R217). -/
def State.tryReduce (s : State) (c : CtxIdx) (i : Nat) (e : NodeEntry) : State :=
  let x := s.ctx c
  match x.image with
  | none => s
  | some im =>
    let n := x.node i
    if n.complete || n.broken || !nodeComplete im (s.goneSources x im) e n then s
    else
      let bad := n.accs.any (fun p => !p.2.residuesOk)
      let s := if bad then s.niFault 0x10 else s
      let n := { n with complete := true, failed := n.failed || bad }
      let s := s.setCtx c (x.setNode i n)
      let s :=
        -- a CATCHING_UP module is a source of no reduction node (R266)
        if s.crn.ownState == 1 && e.nsrc == 0 then s
        else if n.failed && e.nsrc == 0 then
          (List.range e.ndst).foldl (fun s k =>
            let o := Output.failedChunkOut (e.dst k) e.chunk
            (s.emit o).sendPos c 0x06 (e.dst k) (Config.messageArg o) (messageBytes o) (e.exitSlot k) (e.entrySlot k)) s
        else
          let counted := n.contrib != 1
          s.sendChunk c e { chunk := e.chunk, first := 0, attempt := x.attempt, last := true, counted := counted,
                            failed := n.failed, gather := false, packets := 1, contrib := n.contrib } (reductionRuns n counted)
      if e.own then s.ownerStage c i e else s

/-- Adds a block to an accumulator, watching the 16-bit counts (R218). -/
def Node.addBlock (n : Node) (i : Nat) (a : Acc) : Node :=
  { n with accs := mapSet {} n.accs i (xpAdd (mapGet {} n.accs i) a) }

def Node.overflows (n : Node) : Bool := decide (65535 < n.contrib) || n.accs.any (fun p => decide (65535 < p.2.touch))

/-- Clamps the counts to 16 bits after an overflow: the chunk is FAILED, so its values are never used (R218). -/
def Node.clampCounts (n : Node) : Node :=
  { n with contrib := min n.contrib 65535, accs := n.accs.map (fun p => (p.1, { p.2 with touch := min p.2.touch 65535 })), failed := true }

/-- Puts a changed node back, with NI_COUNT_OVERFLOW where a count would pass 65,535, and completes it if it can. -/
def State.putNode (s : State) (c : CtxIdx) (i : Nat) (e : NodeEntry) (n : Node) : State :=
  let past := n.overflows
  let s := if past then s.niFault 0x11 else s
  let x := (s.ctx c).setNode i (if past then n.clampCounts else n)
  (s.setCtx c { x with overflowed := x.overflowed || past }).tryReduce c i e

/-- Whether an earlier node of the slice still holds accumulators that an entry needs (R218). -/
def Context.accHeld (x : Context) (i : Nat) (e : NodeEntry) : Bool :=
  x.plan.zipIdx.any (fun (p : NodeEntry × Nat) =>
    let n := x.node p.2
    p.2 != i && !p.1.gather && p.1.slice == e.slice && (n != {}) && !n.complete && !n.broken
    && decide (p.1.acc < e.acc + 4 * e.nmaster) && decide (e.acc < p.1.acc + 4 * p.1.nmaster))

/-! ## The local contribution (R210, R235) -/

/-- HAND words of a chunk in a stream, by word index. -/
def handWords (st : Stream) (chunk : Nat) : List Nat :=
  (st.words.zipIdx.filter (fun (p : BitVec 128 × Nat) => field p.1 120 8 == 0x80 && field p.1 52 24 == chunk)).map (·.2)

/-- The contribution to a chunk is ready: each HAND of it is done, or its tor has sent its step report. -/
def State.localReady (s : State) (x : Context) (im : Sched) (chunk : Nat) : Bool :=
  im.tors.all (fun t => match im.streams[t.stream]? with
    | none => true
    | some st =>
      let tr := s.tor (BitVec.ofNat 13 t.tor)
      tr.reported || (handWords st chunk).all (fun w => x.handed.any (fun h => h.tor == t.tor && h.word == w && h.chunk == chunk)))

/-- Own ordinals excluded from the current attempt (R257): exclusion words that name the own position. -/
def State.excludedOwn (s : State) (x : Context) (k : Nat) : Bool :=
  x.excluded.any (fun w => field w 0 14 == s.crn.ownPos.toNat &&
    (field w 18 4 == 3 || field w 18 4 == 4 || field w 14 4 == k))

/-- The ordinal a belay partner gives up (R247): its own ordinal k. -/
def Context.belayOrdinal (x : Context) : Option Nat :=
  (x.belays.find? (fun b => b.role == 2 && !b.restore)).map (·.ordinal)

/-- CONTRIB of the module's own contribution (R210); a CATCHING_UP module contributes nothing (R266). -/
def State.ownContrib (s : State) (x : Context) (im : Sched) : Nat :=
  if s.crn.ownState = 1 then 0 else ((List.range im.mbCount).filter (fun k => !s.excludedOwn x k && x.belayOrdinal != some k)).length

/-- The sequence index, in a slot tensor, of chunk block j (R211); none beyond the tensor's edge. -/
def subBlock (im : Sched) (e : NodeEntry) (slot : Nat) (j : Nat) : Option Nat :=
  let w := im.desc (im.param e.param).wDesc
  let d := im.desc slot
  let m := e.first + j / 4
  let r := 2 * (m / w.gridCols) + (j % 4) / 2
  let cc := 2 * (m % w.gridCols) + j % 2
  if r < d.gridRows ∧ cc < d.gridCols then some (r * d.gridCols + cc) else none

/-- Reads one retained slot block (R171, R236): poison fails its ordinal. -/
def State.readSlot (s : State) (c : CtxIdx) (im : Sched) (h : Handed) (seq : Nat) : Option (BitVec 272) × State :=
  match s.moduleRead ((im.desc h.desc).burstAddr seq 0) 1 with
  | (.poison, s) => (none, s.failItem c (.ordinal h.ordinal) 0x0C 7 0 0)
  | (r, s) => (r.data?, s)

/-- Adds one ordinal's slots of chunk block j: the add pass of R114; TOUCH counts the ordinal once (R210). -/
def State.addOrdinal (s : State) (c : CtxIdx) (im : Sched) (e : NodeEntry) (j k : Nat) (hs : List Handed) (n : Node) :
    Node × State :=
  let mine := hs.filter (fun h => h.ordinal == k && h.chunk == e.chunk &&
    (match subBlock im e h.desc j with | some q => h.blocks.contains q | none => false))
  let (sum, bad, s) := mine.foldl (fun (p : Acc × Bool × State) h =>
    match subBlock im e h.desc j with
    | none => p
    | some q =>
      match p.2.2.readSlot c im h q with
      | (some d, s) => (xpAdd p.1 (xpOfG16 d 0), p.2.1, s)
      | (none, s) => (p.1, true, s)) (({} : Acc), false, s)
  if bad then ({ n with failed := true }, s)
  else if mine.isEmpty then (n, s)
  else (n.addBlock j { sum with touch := 1 }, s)

/-- Adds the module's contribution to a node (R210, R215 item 2): the ordinals not excluded. A failed tile among them
makes it a failed contribution with nothing added (R217). -/
def State.addLocal (s : State) (c : CtxIdx) (i : Nat) (e : NodeEntry) : State :=
  let x := s.ctx c
  match x.image with
  | none => s
  | some im =>
    let n := x.node i
    if n.localDone || n.complete || n.broken || !e.isLocal || e.gather || !s.localReady x im e.chunk || x.accHeld i e then s
    else
      let hs := (if s.crn.ownState = 1 then [] else x.handed).filter (fun h =>
        h.chunk == e.chunk && !s.excludedOwn x h.ordinal && x.belayOrdinal != some h.ordinal)
      if hs.any (·.failed) then s.putNode c i e { n with localDone := true, failed := true }
      else
        let ks := if s.crn.ownState = 1 then [] else (List.range im.mbCount).filter (fun k => !s.excludedOwn x k)
        let (n, s) := (List.range (4 * e.nmaster)).foldl (fun (p : Node × State) j =>
          ks.foldl (fun (p : Node × State) k => p.2.addOrdinal c im e j k hs p.1) p) (n, s)
        s.putNode c i e { n with localDone := true, contrib := n.contrib + s.ownContrib x im }

/-- Tries every local contribution of the context (after a HAND, a step report, or the start of an attempt). -/
def State.addLocals (s : State) (c : CtxIdx) : State :=
  (s.ctx c).plan.zipIdx.foldl (fun s (p : NodeEntry × Nat) => s.addLocal c p.2 p.1) s

/-- Completes the reduction nodes that an attempt leaves with nothing to wait for (R245). -/
def State.startNodes (s : State) (c : CtxIdx) : State :=
  (s.ctx c).plan.zipIdx.foldl (fun s (p : NodeEntry × Nat) => if p.1.gather then s else s.tryReduce c p.2 p.1) s

/-! ## Receiving (R216, R217) -/

/-- A reduction packet at its node. -/
def State.recvColl (s : State) (m : CollMsg) : State :=
  let x := s.ctx m.ctx
  let a := CollArg.ofWord m.arg
  match x.image, x.findNode a.chunk false with
  | some im, some (i, e) =>
    let n := x.node i
    let p := m.srcPos.toNat
    let src := mapGet ({} : SrcState) n.srcs p
    let bs := parseRun a.counted 4096 a.first m.payload
    if !(im.sources e).contains p then { s with ni := { s.ni with badSource := satInc s.ni.badSource } }
    else if a.attempt ≠ x.attempt then { s with ni := { s.ni with badAttempt := satInc s.ni.badAttempt } }
    else if n.complete then { s with ni := { s.ni with late := satInc s.ni.late } }
    else if (a.last && !a.counted && a.contrib != 1) || bs.any (fun b => src.blocks.contains b.1) then
      { s with ni := { s.ni with blockDup := satInc s.ni.blockDup } }
    else if n.broken then s
    -- the packet waits until the accumulator range is free (R218)
    else if x.accHeld i e then { s.setCtx m.ctx { x with held := x.held ++ [m] } with ni := { s.ni with accWait := true } }
    else
      let src : SrcState := { accepted := src.accepted + 1, announced := if a.last then some a.packets else src.announced,
                              blocks := src.blocks ++ bs.map (·.1) }
      let n := bs.foldl (fun n b => Node.addBlock n b.1 b.2) n
      let n := { n with srcs := mapSet {} n.srcs p src, failed := n.failed || a.failed,
                        contrib := n.contrib + (if a.last then a.contrib else 0) }
      { s with ni := { s.ni with accWait := false } }.putNode m.ctx i e n
  | _, _ => { s with ni := { s.ni with badSource := satInc s.ni.badSource } }

/-- A failed-chunk notice (R217): the source's last packet, with nothing added. -/
def State.recvFailedChunk (s : State) (c : CtxIdx) (p chunk : Nat) : State :=
  let x := s.ctx c
  match x.image, x.findNode chunk false with
  | some im, some (i, e) =>
    let n := x.node i
    if !(im.sources e).contains p then { s with ni := { s.ni with badSource := satInc s.ni.badSource } }
    else if n.complete then { s with ni := { s.ni with late := satInc s.ni.late } }
    else if n.broken then s
    else
      let src := mapGet ({} : SrcState) n.srcs p
      let src := { src with accepted := src.accepted + 1, announced := some (src.accepted + 1) }
      s.putNode c i e { n with srcs := mapSet {} n.srcs p src, failed := true }
  | _, _ => { s with ni := { s.ni with badSource := satInc s.ni.badSource } }

/-! ## The update engine (R223 to R226) -/

/-- pw of R224 on the bits of k, highest first. -/
def pwBits (md : FpMode) (a : F32) (k : Nat) : Nat → F32 × BitVec 5 → F32 × BitVec 5
  | 0, r => r
  | b + 1, r =>
    let q := fpMul md r.1 r.1
    let r := (q.val, r.2 ||| q.flags)
    let r := if k.testBit b then (let q := fpMul md r.1 a; (q.val, r.2 ||| q.flags)) else r
    pwBits md a k b r

def pwOf (md : FpMode) (a : F32) (k : Nat) : F32 × BitVec 5 :=
  if k = 0 then (f32One, 0) else pwBits md a k (log2Nat k + 1) (f32One, 0)

/-- What one element's update yields. -/
structure Upd where
  p : F32
  s1 : F32
  s2 : F32
  flags : BitVec 5
  deriving DecidableEq, Repr

/-- R223 (and R224's catch-up for k missed steps) on one element. -/
def updElem (md : FpMode) (r : CoefRow) (eta k1 k2 factor : F32) (k : Nat) (p s1 s2 g : F32) : Upd :=
  let a1 := r.fp 0; let b1 := r.fp 1; let a2 := r.fp 2; let b2 := r.fp 3
  let cg := r.fp 4; let cd := r.fp 5; let cu := r.fp 6; let eps := r.fp 7; let lam := r.fp 8; let clip := r.fp 9
  let mul := fpMul md
  -- catch-up
  let c1 := pwOf md a1 k
  let c2 := pwOf md a2 k
  let el := mul eta lam
  let de := fpSub md f32One el.val
  let c3 := pwOf md de.val k
  let on := r.catchUp && k != 0
  let s1c := mul s1 c1.1
  let s2c := mul s2 c2.1
  let pc := mul p c3.1
  let fl0 := if on then c1.2 ||| s1c.flags ||| (if r.denom then c2.2 ||| s2c.flags else 0) ||| el.flags ||| de.flags ||| c3.2 ||| pc.flags else 0
  let s1 := if on then s1c.val else s1
  let s2 := if on && r.denom then s2c.val else s2
  let p := if on then pc.val else p
  -- lagged clip
  let gs := mul g factor
  let (g, fl1) := if r.lagclip then (gs.val, gs.flags) else (g, 0)
  let u := fpFma md cg p g
  let mx := fpMinMax md true u.val (f32Neg clip)
  let mn := fpMinMax md false mx.val clip
  let (u, fl2) := if r.elclip then (mn.val, u.flags ||| mx.flags ||| mn.flags) else (u.val, u.flags)
  let bu := mul b1 u
  let s1n := fpFma md a1 s1 bu.val
  let b2u := mul b2 u
  let b2uu := mul b2u.val u
  let s2n := fpFma md a2 s2 b2uu.val
  let k1s := mul k1 s1n.val
  let k2s := mul k2 s2n.val
  let rt := fpSqrt md k2s.val
  let den := fpAdd md rt.val eps
  let dv := fpDiv md k1s.val den.val
  let (d, s2r, fl3) := if r.denom then
      (dv.val, s2n.val, b2u.flags ||| b2uu.flags ||| s2n.flags ||| k1s.flags ||| k2s.flags ||| rt.flags ||| den.flags ||| dv.flags)
    else (s1n.val, s2, 0)
  let cuu := mul cu u
  let w := fpFma md cd d cuu.val
  let dec := fpFma md (f32Neg el.val) p p
  let pn := fpFma md (f32Neg eta) w.val dec.val
  { p := pn.val, s1 := s1n.val, s2 := s2r,
    flags := fl0 ||| fl1 ||| fl2 ||| fl3 ||| bu.flags ||| s1n.flags ||| cuu.flags ||| w.flags ||| el.flags ||| dec.flags ||| pn.flags }

/-- The 64 FP32 values of eight bursts. -/
def fpValues (bs : List (BitVec 272)) : List F32 :=
  bs.flatMap (fun b => (List.range 8).map (fun i => b.extractLsb' (32 * i) 32))

def fpBursts (xs : List F32) : List (BitVec 272) :=
  (List.range (xs.length / 8)).map (fun j => mkBurst 0 0 (packLanes 256 32 ((xs.drop (8 * j)).take 8)))

/-- Adds to a shard's step digest (R252). -/
def Context.digestAdd (x : Context) (im : Sched) (shard : Nat) (tensor : BitVec 32) (reg : Nat) (items : List (Nat × BitVec 272)) : Context :=
  let key := digestKey im.seed
  let v := items.foldl (fun a p => (a + burstHash key (digestTag tensor reg p.1) p.2) % digestP) ((mapGet 0 x.shardDigest shard).toNat)
  { x with shardDigest := mapSet 0 x.shardDigest shard (BitVec.ofNat 64 v) }

/-- Writes one FP32 block of a step to a copy, with its digest. -/
def State.writeBlock8 (s : State) (c : CtxIdx) (im : Sched) (shard : Nat) (d : Desc) (seq off : Nat) (bs : List (BitVec 272)) : State :=
  let s := s.writeBursts (d.burstAddr seq 0 + off) bs
  s.setCtx c ((s.ctx c).digestAdd im shard d.tensorId 0 (bs.zipIdx.map (fun p => (8 * seq + p.2, p.1))))

/-- Stamps the copy that step t writes (R225, R226) and gives that copy. -/
def State.stampCopy (s : State) (c : CtxIdx) (p : ParamEntry) (seq : Nat) : Nat × State :=
  let x := s.ctx c
  let copy := 1 - x.liveCopy p seq (s.stamps p seq)
  let key := copyKey p seq copy
  let s := s.setCtx c { x with unseen := x.unseen.filter (· != key),
                               stamped := if x.stamped.contains key then x.stamped else x.stamped ++ [key] }
  match s.mergeSlot (recordBurst p seq) (recordWord seq + copy) [x.step.setWidth 32] with
  | (.poison, s) => (copy, s.statePoison)
  | (_, s) => (copy, s)

/-- A block whose committed state is poisoned is not updated: its rotation group is left unrequantised and the rest of the
step goes on (R392; DEDUCED, notes/assumptions/130.md). -/
def State.poisonedBlock (s : State) (c : CtxIdx) (keys groups : List Nat) : State :=
  let s := s.statePoison
  let x := s.ctx c
  s.setCtx c { x with written := x.written ++ keys, badGroups := x.badGroups ++ groups }

/-- The blocks of rotation group g of a K4N or G16 tensor: without rotation, block g. -/
def groupBlocks (w : Desc) (g : Nat) : List Nat :=
  if w.rotH = 0 then [g]
  else
    let n := 4 ^ w.rotH / w.blockCols
    if w.rotAxis = 0 then
      let per := max 1 (w.gridCols / n)
      (List.range n).map (fun i => (g / per) * w.gridCols + (g % per) * n + i)
    else (List.range n).map (fun i => ((g / w.gridCols) * n + i) * w.gridCols + g % w.gridCols)

/-- The rotation group of a block. -/
def groupOf (w : Desc) (seq : Nat) : Nat :=
  if w.rotH = 0 then seq
  else
    let n := 4 ^ w.rotH / w.blockCols
    let r := seq / w.gridCols
    let cc := seq % w.gridCols
    if w.rotAxis = 0 then r * max 1 (w.gridCols / n) + cc / n else (r / n) * w.gridCols + cc

/-- The update of one touched master block (R223): reads its live copies, writes the others. -/
def State.updateBlock (s : State) (c : CtxIdx) (param seq : Nat) : State :=
  let x := s.ctx c
  match x.image with
  | none => s
  | some im =>
    let key := blockKey param seq
    let g := mapGet [] x.grads key
    if g.isEmpty || x.written.contains key then s
    else
      let p := im.param param
      let r := im.row p.group
      let live := x.liveCopy p seq (s.stamps p seq)
      let off := if live = 1 then p.copyOffset else 0
      let last := if live = 1 then (s.stamps p seq).2 else (s.stamps p seq).1
      let k := x.step.toNat - last - 1
      let md := im.desc p.mDesc
      let d1 := im.desc p.s1Desc
      let d2 := im.desc p.s2Desc
      match s.readBursts 1 (block8Addrs md seq off ++ block8Addrs d1 seq off ++ (if r.denom then block8Addrs d2 seq off else [])) with
      | (none, s, poison) => if poison then s.poisonedBlock c [key] [blockKey param (groupOf (im.desc p.wDesc) seq)] else s
      | (some bs, s, _) =>
        let vals := fpValues bs
        let mode : FpMode := if r.strict then .strict ((rmOfCode r.rnd).getD .ne) else .fast (s.pilot c)
        let eta := (mapGet {} x.scheds r.sched).eta
        let rr := mapGet {} x.rows p.group
        let us := (List.range 64).map (fun i => updElem mode r eta rr.k1 rr.k2 x.factor k
          (nth 0 vals i) (nth 0 vals (64 + i)) (nth 0 vals (128 + i)) (nth 0 g i))
        let bad := us.any (fun u => !f32Finite u.p || !f32Finite u.s1 || (r.denom && !f32Finite u.s2))
        let fl := us.foldl (fun a u => a ||| u.flags) 0
        let (copy, s) := s.stampCopy c p seq
        let woff := if copy = 1 then p.copyOffset else 0
        let sh := im.shardOf param seq
        let s := s.writeBlock8 c im sh md seq woff (fpBursts (us.map (·.p)))
        let s := s.writeBlock8 c im sh d1 seq woff (fpBursts (us.map (·.s1)))
        let s := if r.denom then s.writeBlock8 c im sh d2 seq woff (fpBursts (us.map (·.s2))) else s
        let s := if bad && !(s.ctx c).nonfinite then s.recordCause 0x21 0 7 0 else s
        let x := s.ctx c
        let s := s.setCtx c { x with written := x.written ++ [key], nonfinite := x.nonfinite || bad,
                                     rows := mapSet {} x.rows p.group { rr with fpf := rr.fpf ||| fl } }
        { s with ni := { s.ni with blocksUpdated := s.ni.blocksUpdated + 1, nonfinite := s.ni.nonfinite || bad } }

/-! ## Re-quantisation (R227) -/

/-- Entries of the own reduction nodes whose chunk holds a master block. -/
def Context.chunksOf (x : Context) (param seq : Nat) : List NodeEntry :=
  x.plan.filter (fun (e : NodeEntry) => !e.gather && e.own && e.param == param && decide (e.first ≤ seq) && decide (seq < e.first + e.nmaster))

/-- A rotation group is final: every chunk that holds one of its blocks passed the owner stage, and the touched blocks
of those chunks are written (R227). -/
def Context.groupFinal (x : Context) (param : Nat) (blocks : List Nat) : Bool :=
  blocks.all (fun b =>
    let cs := x.chunksOf param b
    cs.all (fun (e : NodeEntry) => x.chunkPassed.contains e.chunk &&
      (List.range e.nmaster).all (fun m => let k := blockKey param (e.first + m)
        !x.touched.contains k || x.written.contains k)))

/-- Where step t's masters of a block stand: the copy step t wrote, otherwise the live one. -/
def State.masterOffset (s : State) (x : Context) (p : ParamEntry) (param seq : Nat) : Nat :=
  let live := x.liveCopy p seq (s.stamps p seq)
  let copy := if x.written.contains (blockKey param seq) then 1 - live else live
  if copy = 1 then p.copyOffset else 0

/-- The rotated values of a group of n × n blocks, block after block (R76). -/
def rotateGroup (w : Desc) (vals : List (List Dy)) : List (List Dy) :=
  if w.rotH = 0 then vals
  else
    let n := w.blockCols
    -- line k of the group: row k across the blocks, or column k down them
    let line (k : Nat) : List Dy := rotate w.rotH (vals.flatMap (fun b => (List.range n).map (fun i =>
      nth (0, 0) b (if w.rotAxis = 0 then n * k + i else n * i + k))))
    let lines := (List.range n).map line
    (List.range vals.length).map (fun b => (List.range (n * n)).map (fun i =>
      if w.rotAxis = 0 then nth (0, 0) (nth [] lines (i / n)) (n * b + i % n)
      else nth (0, 0) (nth [] lines (i % n)) (n * b + i / n)))

/-- Writes a quantised block of a tensor to a copy: base, planes, scree slot (R44, R50, R51). Poison in the scree burst
raises STATE_POISON (R391). -/
def State.writeQuant (s : State) (c : CtxIdx) (im : Sched) (shard : Nat) (d : Desc) (seq off : Nat) (bursts : List (BitVec 272))
    (scree : List (BitVec 32)) : State :=
  let at' (j : Nat) : Nat := (if j = 0 then d.burstAddr seq 0 else d.planeAddr j seq) + off
  let s := bursts.zipIdx.foldl (fun s p => State.writeBurst s (at' p.2) p.1) s
  let x := bursts.zipIdx.foldl (fun (x : Context) p => x.digestAdd im shard d.tensorId p.2 [(seq, p.1)]) (s.ctx c)
  let s := s.setCtx c x
  if d.cap = 0 then s
  else match s.mergeSlot (d.screeAddr seq + off) (d.screeWord seq) scree with
    | (.poison, s) => s.statePoison
    | (.uncorrectable _, s) => s
    | (_, s) =>
      let x := s.ctx c
      let item := (shard, d.tensorId.toNat, seq * d.cap / 8, d.screeAddr seq + off)
      if x.screeOut.contains item then s else s.setCtx c { x with screeOut := x.screeOut ++ [item] }

/-- The step digest of a shard (R252): the bursts written, each scree burst once, as it stands. -/
def State.stepDigest (s : State) (x : Context) (im : Sched) (shard : Nat) : BitVec 64 :=
  let key := digestKey im.seed
  let v := x.screeOut.foldl (fun a (e : Nat × Nat × Nat × Nat) =>
    if e.1 = shard then
      match (s.readBurst e.2.2.2).data? with
      | some b => (a + burstHash key (digestTag (BitVec.ofNat 32 e.2.1) 3 e.2.2.1) b) % digestP
      | none => a
    else a) (mapGet 0 x.shardDigest shard).toNat
  BitVec.ofNat 64 v

/-- The Wᵀ form of a quantised block (R78): nibbles and entries transposed. -/
def transQuant (bursts : List (BitVec 272)) (scree : List (BitVec 32)) (n seqT : Nat) : List (BitVec 272) × List (BitVec 32) :=
  let ents := (scree.take n).map (fun (e : BitVec 32) =>
    (BitVec.ofNat 6 (transPos 8 (field e 26 6)) ++ e.extractLsb' 10 16 ++ BitVec.ofNat 10 seqT : BitVec 32))
  (bursts.map transNibbles, ents.mergeSort (fun a b => decide (field a 26 6 ≤ field b 26 6)) ++ scree.drop n)

/-- Writes the four-bit forms of one block of the requantised set, and carries an untouched block's masters and state
forward to the copy that is stamped (DESIGN CHOICE, notes/assumptions/7.md). -/
def State.requantBlock (s : State) (c : CtxIdx) (im : Sched) (param seq : Nat) (vals : List Dy) : State :=
  let p := im.param param
  let w := im.desc p.wDesc
  let sh := im.shardOf param seq
  let x := s.ctx c
  let live := x.liveCopy p seq (s.stamps p seq)
  let q := quantK4n (maskBlock w seq vals) w.ceiling w.cap w.planes seq 0 (s.pilot c)
  let touched := x.written.contains (blockKey param seq)
  let loff := if live = 1 then p.copyOffset else 0
  let ds := [im.desc p.mDesc, im.desc p.s1Desc] ++ (if (im.row p.group).denom then [im.desc p.s2Desc] else [])
  let (copy, s) := s.stampCopy c p seq
  let off := if copy = 1 then p.copyOffset else 0
  let s := if touched || beyondEdge w seq then s else ds.foldl (fun s d =>
    match s.readBursts 1 (block8Addrs d seq loff) with
    | (some bs, s, _) => s.writeBlock8 c im sh d seq off bs
    | (none, s, poison) => if poison then s.statePoison else s) s
  let s := s.writeQuant c im sh w seq off q.bursts q.scree
  let s := if s.pilot c && p.wtDesc != 0 then
      let wt := im.desc p.wtDesc
      let st := (seq % w.gridCols) * wt.gridCols + seq / w.gridCols
      let (bs, sc) := transQuant q.bursts q.scree (escCount (nth 0 q.bursts 0)) st
      s.writeQuant c im sh wt st off bs sc
    else s
  let x := s.ctx c
  s.setCtx c { x with requantised := x.requantised ++ [blockKey param seq] }

/-- A group is touched when one of its master blocks is. -/
def Context.groupTouched (x : Context) (param : Nat) (blocks : List Nat) : Bool :=
  blocks.any (fun b => x.touched.contains (blockKey param b))

/-! ## The gather (R228, R229) -/

/-- The gather bytes of one block: E, FLAGS, payload, one entry for each escape code. -/
def gatherBytes (b : BitVec 272) (scree : List (BitVec 32)) : List Byte :=
  [b.extractLsb' 256 8, burstFlags b] ++ leBytes 32 (payload b) ++ ((scree.take (escCount b)).flatMap (leBytes 4))

/-- The copy step t wrote of a requantised block, with its scree entries. Poison raises STATE_POISON, and no gather goes
out for the block's rotation group (R392; DEDUCED, notes/assumptions/130.md). -/
def State.pendingBlock (s : State) (c : CtxIdx) (im : Sched) (param seq : Nat) : Option (BitVec 272 × List (BitVec 32)) × State :=
  let p := im.param param
  let w := im.desc p.wDesc
  let x := s.ctx c
  let copy := 1 - x.liveCopy p seq (s.stamps p seq)
  let off := if copy = 1 then p.copyOffset else 0
  match s.readBursts 1 ([w.burstAddr seq 0 + off] ++ (if w.cap = 0 then [] else [w.screeAddr seq + off])) with
  | (some bs, s, _) =>
    let d := nth 0 bs 1
    (some (nth 0 bs 0, (List.range w.cap).map (fun k => d.extractLsb' (32 * (w.screeWord seq + k)) 32)), s)
  | (none, s, poison) => (none, if poison then s.poisonedBlock c [] [blockKey param (groupOf w seq)] else s)

/-- The requantised blocks of an owner's gather; the last answer says whether each could be read. -/
def State.gatherBlocks (s : State) (c : CtxIdx) (im : Sched) (e : NodeEntry) :
    List (Nat × (BitVec 272 × List (BitVec 32))) × State × Bool :=
  ((List.range e.nmaster).filter (fun j => (s.ctx c).requantised.contains (blockKey e.param (e.first + j)))).foldl
    (fun (a : List (Nat × (BitVec 272 × List (BitVec 32))) × State × Bool) j =>
      match a.2.1.pendingBlock c im e.param (e.first + j) with
      | (some v, s) => (a.1 ++ [(j, v)], s, a.2.2)
      | (none, s) => (a.1, s, false)) ([], s, true)

/-- Runs of a gather: K4N blocks counted from FIRST_MASTER. -/
def gatherRuns (bs : List (Nat × (BitVec 272 × List (BitVec 32)))) : List Run :=
  packRuns (bs.map (fun p => (p.1, gatherBytes p.2.1 p.2.2))) []

/-- Sends a gather node's chunk (R228). -/
def State.sendGather (s : State) (c : CtxIdx) (i : Nat) (e : NodeEntry) (bs : List (Nat × (BitVec 272 × List (BitVec 32)))) : State :=
  let x := s.ctx c
  let n := x.node i
  let s := s.setCtx c (x.setNode i { n with complete := true, sent := true })
  s.sendChunk c e { chunk := e.chunk, first := 0, attempt := x.attempt, last := true, counted := false, failed := false,
                    gather := true, packets := 1, contrib := 0 } (gatherRuns bs)

/-- Starts the gathers of ready chunks: every rotation group of the chunk final, none left unrequantised (R228). -/
def State.startGathers (s : State) (c : CtxIdx) : State :=
  let x := s.ctx c
  match x.image with
  | none => s
  | some im =>
    x.plan.zipIdx.foldl (fun s (p : NodeEntry × Nat) =>
      let e := p.1
      let x := s.ctx c
      let n := x.node p.2
      let blocks := (List.range e.nmaster).map (e.first + ·)
      let w := im.desc (im.param e.param).wDesc
      let done (b : Nat) : Bool := let gb := groupBlocks w (groupOf w b)
        x.groupFinal e.param gb && (!x.groupTouched e.param gb || x.requantised.contains (blockKey e.param b))
      -- a chunk is barred that is FAILED, or holds a block of a group left unrequantised (R228)
      let left (b : Nat) : Bool := let g := groupOf w b
        x.badGroups.contains (blockKey e.param g) ||
          (groupBlocks w g).any (fun q => (x.chunksOf e.param q).any (fun (f : NodeEntry) => x.failedOwn.contains f.chunk))
      let barred := blocks.any left || x.failedOwn.contains e.chunk
      if !(e.gather && e.own) || n.complete || n.broken || barred || !blocks.all done then s
      else
        let (bs, s, all) := s.gatherBlocks c im e
        if all then s.sendGather c p.2 e bs else s) s

/-- Re-quantises a final rotation group (R227): masters beyond the logical edge enter as zeros (R76). -/
def State.requantGroup (s : State) (c : CtxIdx) (param g : Nat) : State :=
  let x := s.ctx c
  match x.image with
  | none => s
  | some im =>
    let p := im.param param
    let w := im.desc p.wDesc
    let blocks := groupBlocks w g
    let key := blockKey param g
    if !x.groupFinal param blocks || !x.groupTouched param blocks || x.badGroups.contains key
        || blocks.any (fun b => x.requantised.contains (blockKey param b)) then s.startGathers c
    else if blocks.any (fun b => (x.chunksOf param b).any (fun (e : NodeEntry) => x.failedOwn.contains e.chunk)) then
      s.setCtx c { x with badGroups := x.badGroups ++ [key] }
    else
      let m := im.desc p.mDesc
      let inner := blocks.filter (fun b => !beyondEdge w b)
      match s.readBursts 1 (inner.flatMap (fun b => block8Addrs m b (s.masterOffset x p param b))) with
      | (none, s, poison) => if poison then s.poisonedBlock c [] [key] else s
      | (some bs, s, _) =>
        let vals := fpValues bs
        let per := blocks.map (fun b =>
          if beyondEdge w b then List.replicate 64 0 else edgeZero w b 0 ((vals.drop (64 * inner.idxOf b)).take 64))
        if per.any (·.any (fun v => !f32Finite v)) then s.setCtx c { (s.ctx c) with badGroups := x.badGroups ++ [key] }
        else
          let rot := rotateGroup w (per.map (·.map (fun v => (fpDy v).getD (0, 0))))
          let s := blocks.zipIdx.foldl (fun s (q : Nat × Nat) => s.requantBlock c im param q.1 (nth [] rot q.2)) s
          s.startGathers c

/-- The blocks of a gather payload. -/
def parseGather : Nat → Nat → List Byte → List (Nat × (BitVec 272 × List (BitVec 32)))
  | 0, _, _ => []
  | f + 1, i, bs =>
    if bs.length < 34 then []
    else
      let b : BitVec 272 := (ofLe 8 ((bs.drop 1).take 1)) ++ (ofLe 8 (bs.take 1)) ++ (ofLe 256 ((bs.drop 2).take 32))
      let n := if flEscape (burstFlags b) then escCount b else 0
      let ents := (List.range n).map (fun k => ofLe 32 (((bs.drop (34 + 4 * k))).take 4))
      (i, (b, ents)) :: parseGather f (i + 1) (bs.drop (34 + 4 * n))

/-- Writes one gathered block to the non-live copy and stamps it (R229); Wᵀ too in a pilot-compatible context. -/
def State.landGather (s : State) (c : CtxIdx) (im : Sched) (param seq : Nat) (b : BitVec 272) (ents : List (BitVec 32)) : State :=
  let p := im.param param
  let w := im.desc p.wDesc
  let (copy, s) := s.stampCopy c p seq
  let off := if copy = 1 then p.copyOffset else 0
  let sc := (ents ++ List.replicate w.cap 0).take w.cap
  let x := s.ctx c
  let keep := x.shardDigest
  let scree := x.screeOut
  let s := s.writeQuant c im 0 w seq off [b] sc
  let s := if s.pilot c && p.wtDesc != 0 then
      let wt := im.desc p.wtDesc
      let st := (seq % w.gridCols) * wt.gridCols + seq / w.gridCols
      let (bs, tsc) := transQuant [b] sc ents.length st
      s.writeQuant c im 0 wt st off bs tsc
    else s
  s.setCtx c { (s.ctx c) with shardDigest := keep, screeOut := scree }

/-- A gather packet at its node (R229): the drops of R216, then land and forward when complete. -/
def State.recvGather (s : State) (m : CollMsg) : State :=
  let x := s.ctx m.ctx
  let a := CollArg.ofWord m.arg
  match x.image, x.findNode a.chunk true with
  | some im, some (i, e) =>
    let n := x.node i
    let p := m.srcPos.toNat
    let src := mapGet ({} : SrcState) n.srcs p
    let bs := parseGather 4096 a.first m.payload
    if !(im.sources e).contains p then { s with ni := { s.ni with badSource := satInc s.ni.badSource } }
    else if a.attempt ≠ x.attempt then { s with ni := { s.ni with badAttempt := satInc s.ni.badAttempt } }
    else if n.complete then { s with ni := { s.ni with late := satInc s.ni.late } }
    else if bs.any (fun b => src.blocks.contains b.1) then { s with ni := { s.ni with blockDup := satInc s.ni.blockDup } }
    else if n.broken then s
    -- a catching-up sink keeps the packet until the blocks it overwrites have landed (R268)
    else if !bs.all (fun b => s.blockLanded m.ctx im e.param (e.first + b.1)) then s.setCtx m.ctx { x with held := x.held ++ [m] }
    else
      let s := bs.foldl (fun s b => s.landGather m.ctx im e.param (e.first + b.1) b.2.1 b.2.2) s
      let src : SrcState := { accepted := src.accepted + 1, announced := if a.last then some a.packets else src.announced,
                              blocks := src.blocks ++ bs.map (·.1) }
      let n := { n with srcs := mapSet {} n.srcs p src,
                        gathered := bs.foldl (fun g b => mapSet (0, []) g b.1 b.2) n.gathered }
      let s := s.setCtx m.ctx ((s.ctx m.ctx).setNode i n)
      if nodeComplete im (s.goneSources x im) e n then s.sendGather m.ctx i e n.gathered else s
  | _, _ => { s with ni := { s.ni with badSource := satInc s.ni.badSource } }

/-- Tries the packets that wait again, in the order they came (R218, R268). -/
def State.retryHeld (s : State) (c : CtxIdx) : State :=
  let x := s.ctx c
  x.held.foldl (fun s m => if (CollArg.ofWord m.arg).gather then s.recvGather m else s.recvColl m) (s.setCtx c { x with held := [] })

/-- Tries local contributions and waiting packets until no node moves any more. -/
def State.settleNodes : Nat → State → CtxIdx → State
  | 0, s, _ => s
  | f + 1, s, c =>
    let t := (s.addLocals c).retryHeld c
    if (t.ctx c).nodes = (s.ctx c).nodes then t else t.settleNodes f c

/-- What nodes wait for is tried: after a HAND, a step report, a packet, a declaration, or the start of an attempt. -/
def State.feedNodes (s : State) (c : CtxIdx) : State := s.settleNodes ((s.ctx c).plan.length + 1) c

/-- Tries the owner stages that wait for the state copy again (R268). -/
def State.retryOwn (s : State) (c : CtxIdx) : State :=
  let x := s.ctx c
  x.heldOwn.foldl (fun s i => match x.plan[i]? with | some e => s.ownerStage c i e | none => s) (s.setCtx c { x with heldOwn := [] })

/-- The gather of a chunk is missing when its node is incomplete at the opening of the report (R229). -/
def Context.missingGather (x : Context) : Bool :=
  x.plan.zipIdx.any (fun (p : NodeEntry × Nat) => p.1.gather && !(x.node p.2).complete)

/-- Chunk faults to report: FAILED chunks at the owner stages, broken nodes, missing gathers (Table 12-2). -/
def Context.chunkFaults (x : Context) : Bool :=
  !x.failedOwn.isEmpty || x.plan.zipIdx.any (fun (p : NodeEntry × Nat) => (x.node p.2).broken) || x.missingGather

/-- Node entries started and not complete (NI_STATUS.OPEN_NODES). -/
def Context.openNodes (x : Context) : Nat := (x.nodes.filter (fun p => !p.2.complete && !p.2.broken)).length

/-! ## Attempts (R258) -/

/-- Clears what an attempt has built; the copies of step t are overwritten by the next (R226). -/
def Context.clearAttempt (x : Context) : Context :=
  { x with nodes := [], grads := [], touched := [], written := [], chunkPassed := [], requantised := [], badGroups := [],
           unseen := x.unseen ++ x.stamped, stamped := [],
           shardDigest := [], screeOut := [], twinMismatch := [], clipN := 0, nonfinite := false, heldOwn := [], failedOwn := [], held := [] }

/-! ## The schedule engine (R231) -/

abbrev SchedEntry := BitVec 512
def SchedEntry.start (e : SchedEntry) : Nat := field e 0 32
def SchedEntry.etaMax (e : SchedEntry) : F32 := e.extractLsb' 32 32
def SchedEntry.etaMin (e : SchedEntry) : F32 := e.extractLsb' 64 32
def SchedEntry.warm (e : SchedEntry) : Nat := field e 96 32
def SchedEntry.dlen (e : SchedEntry) : Nat := field e 128 32
def SchedEntry.period (e : SchedEntry) : Nat := field e 160 32
def SchedEntry.half (e : SchedEntry) : Nat := field e 192 32
def SchedEntry.gamma (e : SchedEntry) : F32 := e.extractLsb' 224 32
def SchedEntry.interval (e : SchedEntry) : Nat := field e 256 32
def SchedEntry.wshape (e : SchedEntry) : Nat := field e 288 1
def SchedEntry.dshape (e : SchedEntry) : Nat := field e 289 2
def SchedEntry.mult (e : SchedEntry) : Nat := field e 291 4

/-- π · 2^200, floor. -/
def piFixed : Nat := 0x3243F6A8885A308D313198A2E03707344A4093822299F31D008

/-- Σ (−1)^k x^(2k) / (2k)!, x in units of 2^−200: the cosine by its series, on a term count. -/
def cosSeries (x : Int) : Nat → Nat → Int → Int → Int
  | 0, _, _, acc => acc
  | n + 1, k, term, acc =>
    let t := -(term * x / 2 ^ 200 * x / 2 ^ 200) / ((2 * k + 1) * (2 * k + 2) : Nat)
    cosSeries x n (k + 1) t (acc + t)

/-- tc[i] = round_ne to FP32 of (1 + cos(π i / 1024)) / 2; past i = 512 by cos(π − y) = −cos y. -/
def cosTable (i : Nat) : F32 :=
  let one : Int := 2 ^ 200
  let c (j : Nat) : Int := cosSeries ((piFixed * j / 1024 : Nat) : Int) 40 0 one one
  if i = 512 then 0x3F000000
  else
    let v : Int := if i ≤ 512 then one + c i else one - c (1024 - i)
    if v ≤ 0 ∨ i = 1024 then 0 else (fpIeee .ne false v.toNat (-201) false).val

/-- cf of R231 on x in 0 … 1. -/
def cfOf (pilot : Bool) (x : F32) : F32 :=
  let md := FpMode.fast pilot
  let y := (fpMul md x 0x44800000).val
  let i : Nat := match fpDecode true y with
    | .fin false m e => if 0 ≤ e then m * 2 ^ e.toNat else m / 2 ^ (-e).toNat
    | _ => 0
  if 1024 ≤ i then cosTable 1024
  else (fpFma md (fpSub md y (intToFp md i).val).val (fpSub md (cosTable (i + 1)) (cosTable i)).val (cosTable i)).val

/-- advance(j, t) of R231. -/
def schedAdvance (pilot : Bool) (e : SchedEntry) (t : Nat) (r : SchedReg) : SchedReg :=
  let md := FpMode.fast pilot
  let flt (n : Nat) : F32 := (intToFp md n).val
  let mul (a b : F32) : F32 := (fpMul md a b).val
  let sub (a b : F32) : F32 := (fpSub md a b).val
  let fma (a b d : F32) : F32 := (fpFma md a b d).val
  let mx (a b : F32) : F32 := (fpMinMax md true a b).val
  if t < e.start then { r with eta := 0 }
  else
    let n := t - e.start
    if n < e.warm then
      let x := divFast pilot (flt (n + 1)) (flt e.warm)
      { r with eta := if e.wshape = 0 then mul e.etaMax x else mul e.etaMax (sub f32One (cfOf pilot x)) }
    else
      let r :=
        if n = e.warm then { r with q := 0, cyc := 0, len := if 0 < e.period then e.period else e.dlen }
        else if e.period = 0 then { r with q := min (r.q + 1) e.dlen }
        else if r.q + 1 = r.len then { r with q := 0, cyc := min (r.cyc + 1) 65535, len := min (r.len * e.mult) (2 ^ 32 - 1) }
        else { r with q := r.q + 1 }
      let x := divFast pilot (flt r.q) (flt r.len)
      let span := sub e.etaMax e.etaMin
      let eta :=
        if e.dshape = 0 then fma span (cfOf pilot x) e.etaMin
        else if e.dshape = 1 then fma span (sub f32One x) e.etaMin
        else if e.dshape = 2 then
          mx (mul e.etaMax (rsqrtFast pilot (fpAdd md f32One (divFast pilot (flt r.q) (flt e.half))).val)) e.etaMin
        else mx (mul e.etaMax (pwOf md e.gamma (r.q / max 1 e.interval)).1) e.etaMin
      { r with eta := eta }

/-- A row's registers after one advance (R231). -/
def rowAdvance (pilot : Bool) (r : CoefRow) (x : RowReg) : RowReg :=
  let md := FpMode.fast pilot
  let p1 := (fpMul md x.p1 (r.fp 0)).val
  let p2 := (fpMul md x.p2 (r.fp 2)).val
  let k (p : F32) : F32 := if r.bias then divFast pilot f32One (fpSub md f32One p).val else f32One
  { x with p1 := p1, p2 := p2, k1 := k p1, k2 := k p2 }

/-- The engine's advance for step t: every schedule, then every row (R231). -/
def Context.advance (x : Context) (pilot : Bool) (t : Nat) : Context :=
  match x.image with
  | none => x
  | some im =>
    let sc := im.scheds.zipIdx.foldl (fun m (p : SchedEntry × Nat) => mapSet {} m p.2 (schedAdvance pilot p.1 t (mapGet {} m p.2))) x.scheds
    let rw := im.groups.zipIdx.foldl (fun m (p : CoefRow × Nat) => mapSet {} m p.2 (rowAdvance pilot p.1 (mapGet {} m p.2))) x.rows
    { x with scheds := sc, rows := rw }

/-- Advances run for t = 1 … n from the registers' load values (R231, R269). -/
def Context.advanceTo (x : Context) (pilot : Bool) : Nat → Context
  | 0 => { x with scheds := [], rows := [] }
  | n + 1 => (x.advanceTo pilot n).advance pilot (n + 1)

/-- nf of R220: N · 2^−298 in FP32 under the class. -/
def clipNorm (pilot : Bool) (n : Nat) : F32 := fpOfInt pilot n (-298)

/-- The clip factor of R220 from the step's N. -/
def clipFactor (pilot : Bool) (gMax : F32) (n : Nat) : F32 :=
  if n = 0 then f32One
  else (fpMinMax (.fast pilot) false f32One (divFast pilot gMax (sqrtFast pilot (clipNorm pilot n)))).val

end Sys2Proof.Machine
end

