-- ==== Sys2Proof/Machine/Tor.lean ====
section
/-! DEFINITION. A tor's shared operations: issue, the program counter and its stack (R115, R389), repair staging (R108 to
R110), tokens (R133 to R135), effects that wait for earlier words (R134), the run-ahead loader (R130, R131, R173,
R175), the ceiling settle (R71 to R73), failures of work items (R88, R236) and the stand-in walk (R238). -/

namespace Sys2Proof.Machine
open Sys2Proof

/-! ## Fused groups (R112, R124) -/

def ridgeOf (t : TorIdx) : Nat := t.toNat / 64

def State.fused (s : State) (t : TorIdx) : Bool := s.img.active.fusion.getLsbD (ridgeOf t)

/-- The top-left tor of a tor's 2 × 2 group. -/
def leadOfGroup (t : TorIdx) : TorIdx := BitVec.ofNat 13 (t.toNat - t.toNat % 2 - 8 * (t.toNat / 8 % 2))

def State.leadOf (s : State) (t : TorIdx) : TorIdx := if s.fused t then leadOfGroup t else t

/-- The tors that run a pass together: top left, top right, bottom left, bottom right. -/
def State.group (s : State) (t : TorIdx) : List TorIdx :=
  if s.fused t then let l := leadOfGroup t; [l, l + 1, l + 8, l + 9] else [t]

/-- A tor's quadrant in its group: 2 · (bottom) + right. -/
def quadrant (t : TorIdx) : Nat := 2 * (t.toNat / 8 % 2) + t.toNat % 2

/-- A tor that programs may use: not mapped out, nor, in a fused ridge, any tor of its group (R110). -/
def State.torUsable (s : State) (t : TorIdx) : Bool := (s.group t).all (fun u => !(s.tor u).mappedOut)

/-! ## Issue and the program counter -/

/-- The context for which a tor's queued passes run: as `issuer`, whatever the tor waits for. -/
def State.runner (s : State) (t : TorIdx) : Option CtxIdx :=
  if !s.live || !s.torUsable t then none
  else match s.torCtx t with
    | some c => if (s.ctx c).state = 3 then some c else none
    | none => none

/-- Ends the runs of open loops at a program counter (R389): the body's last word starts the next run or leaves the
loop; a counter past the body leaves it. -/
def closeLoops : Nat → Nat → Nat → List LoopFrame → List LoopFrame × Nat
  | 0, pc, _, ls => (ls, pc)
  | _ + 1, pc, _, [] => ([], pc)
  | f + 1, pc, d, l :: ls =>
    if l.depth ≠ d then (l :: ls, pc)
    else if pc = l.start + l.len then
      (if 1 < l.left then ({ l with left := l.left - 1 } :: ls, l.start) else closeLoops f pc d ls)
    else if l.start + l.len < pc then closeLoops f pc d ls
    else (l :: ls, pc)

/-- Moves the program counter. -/
def Tor.goto (r : Tor) (pc : Nat) : Tor :=
  let q := closeLoops (r.loops.length + 1) pc r.stack.length r.loops
  { r with pc := BitVec.ofNat 32 q.2, loops := q.1 }

/-- The program counter passes to the next word (R115). -/
def Tor.next (r : Tor) : Tor := r.goto (r.pc.toNat + 1)

/-- The rung of the ALT-called entry that the tor is in, 0 outside one (R175). -/
def Tor.rung (r : Tor) : Nat := match r.stack with | f :: _ => f.rung | [] => 0

/-- Whether the tor issues the PRE words of its CAIRN (R141). -/
def Tor.issuesPre (r : Tor) : Bool := r.state == 4 && r.reported && decide (0 < r.preLeft)

/-- The index of the word a tor issues: its program counter stays at a CAIRN while the PRE words behind it issue. -/
def Tor.wordAt (r : Tor) : Nat := if r.issuesPre then r.pc.toNat + 1 + r.preDone else r.pc.toNat

/-- A stream's word without the fields that its instruction gives no meaning: PRED, PNEG and MODE of VFPF, MODE of VRAND,
VLD, VST and VBCAST (R125, R126), SA and SB of SMOVI (R127). -/
def plainWord (w : BitVec 128) : BitVec 128 :=
  let op := field w 120 8
  if op = 0x2F then w &&& ~~~(BitVec.ofNat 128 (0xFF * 2 ^ 112))
  else if op = 0x2E ∨ (0x30 ≤ op ∧ op ≤ 0x32) then w &&& ~~~(BitVec.ofNat 128 (0xF * 2 ^ 112))
  else if op = 0x40 then w &&& ~~~(BitVec.ofNat 128 (0xFF * 2 ^ 100))
  else w

/-- The word at a tor's program counter, in the stream of its context's image (R115). -/
def State.wordNow (s : State) (c : CtxIdx) (t : TorIdx) : Option (BitVec 128) :=
  (s.ctx c).image.bind (fun im => (im.stream? t.toNat).bind (fun st => st.words[(s.tor t).wordAt]?))

/-- The context's stream asks the tor for this word next. -/
def State.asks (s : State) (c : CtxIdx) (t : TorIdx) (w : BitVec 128) : Bool := (s.wordNow c t).map plainWord == some w

/-- The context for which a tor issues a word: every block works, the context runs, the tor is issuing, and the word is
the one that its stream holds next (R115, R117). -/
def State.issuer (s : State) (t : TorIdx) (w : BitVec 128) : Option CtxIdx :=
  let r := s.tor t
  if !s.live || !s.torUsable t || r.stopped || r.state != 1 then none
  else match s.torCtx t with
    | some c => if (s.ctx c).state = 3 ∧ s.asks c t w then some c else none
    | none => none

/-- Pushes a return address and jumps (R115). -/
def Tor.call (r : Tor) (entry ret rung : Nat) (settle : Bool) : Tor :=
  { r with pc := BitVec.ofNat 32 entry, stack := { addr := ret, rung := rung, settle := settle } :: r.stack }

/-- The word that a tor issues changes the tor alone. -/
def State.issue (s : State) (t : TorIdx) (w : BitVec 128) (f : CtxIdx → Tor → Tor) : State :=
  match s.issuer t w with
  | none => s
  | some c => let r := s.tor t
    if r.altWait || r.deqWait then s else s.setTor t (f c r).next

/-- A word that sets the program counter itself. -/
def State.issueJump (s : State) (t : TorIdx) (w : BitVec 128) (f : CtxIdx → Tor → Tor) : State :=
  match s.issuer t w with
  | none => s
  | some c => let r := s.tor t
    if r.altWait || r.deqWait then s else s.setTor t (f c r)

/-- A word whose effect reaches beyond its tor. -/
def State.issueWide (s : State) (t : TorIdx) (w : BitVec 128) (f : CtxIdx → Sched → State) : State :=
  match s.issuer t w with
  | none => s
  | some c => let r := s.tor t
    if r.altWait || r.deqWait then s
    else match (s.ctx c).image with | some im => f c im | none => s

/-- The program counter of a tor passes to the next word. -/
def State.pcNext (s : State) (t : TorIdx) : State := s.setTor t (s.tor t).next

/-! ## Registers (R119) -/

/-- The index of the free value that a register not written in this step reads. -/
def regFree (gen : Nat) (t : TorIdx) (cls i : Nat) : Nat := 2 ^ 64 * (1 + ((gen * 8192 + t.toNat) * 4 + cls) * 32 + i)

def Tor.readV (r : Tor) (t : TorIdx) (i : Nat) : BitVec 1024 :=
  match r.v.find? (fun e => e.1 == i) with
  | some e => e.2
  | none => if r.zeroed then 0 else Config.free 1024 (regFree r.gen t 0 i)
def Tor.readS (r : Tor) (t : TorIdx) (i : Nat) : Word :=
  match r.s.find? (fun e => e.1 == i) with
  | some e => e.2
  | none => if r.zeroed then 0 else Config.free 64 (regFree r.gen t 1 i)
/-- P0 reads all ones. -/
def Tor.readP (r : Tor) (t : TorIdx) (i : Nat) : BitVec 32 :=
  if i = 0 then BitVec.allOnes 32
  else match r.p.find? (fun e => e.1 == i) with
    | some e => e.2
    | none => if r.zeroed then 0 else Config.free 32 (regFree r.gen t 2 i)

def Tor.writeV (r : Tor) (i : Nat) (v : BitVec 1024) : Tor := { r with v := regPut r.v i v }
def Tor.writeS (r : Tor) (i : Nat) (v : Word) : Tor := { r with s := regPut r.s i v }
/-- A write of P0 is discarded: P0 always reads all ones. -/
def Tor.writeP (r : Tor) (i : Nat) (v : BitVec 32) : Tor := if i = 0 then r else { r with p := regPut r.p i v }

/-! ## Tiles, ladders, live ceilings -/

/-- The number of a tile's ALTERNATES entry; a fused group uses its lead's (R122). -/
def State.tileNo (s : State) (im : Sched) (t : TorIdx) (tile : Nat) : Nat := im.altNo (s.leadOf t).toNat tile

/-- The belay that replays a piece of work on this module (R248, R270). -/
def Context.replayOf (x : Context) (w : Work) : Option Belay :=
  match w with
  | .ordinal k => x.belays.find? (fun b => b.role == 2 && b.ordinal == k)
  | .shared => none

/-- Replayed work waits for what its subject sends at the start of the step (R248). -/
def Context.replayWaits (x : Context) (w : Work) : Bool :=
  match x.replayOf w with
  | some b => b.outcome == 0 && !(b.arrivedState && !b.inputs.isEmpty)
  | none => false

/-- The working switchback entry of a tile (R146); the subject's for replayed work (R248). -/
def Context.swbAt (x : Context) (w : Work) (n : Nat) : Swb :=
  match x.replayOf w with
  | some b => mapGet {} b.swb n
  | none => mapGet {} x.swbWork n

def Context.setSwbAt (x : Context) (w : Work) (n : Nat) (e : Swb) : Context :=
  match x.replayOf w with
  | some b => { x with belays := x.belays.map (fun q => if q = b then { q with swb := mapSet {} q.swb n e } else q) }
  | none => { x with swbWork := mapSet {} x.swbWork n e }

def Context.ladder (x : Context) (n : Nat) : Ladder := mapGet {} x.ladders n
def Context.setLadder (x : Context) (n : Nat) (l : Ladder) : Context := { x with ladders := mapSet {} x.ladders n l }

/-- The live ceiling of a movable tensor, the compiled one of any other (R70, R121). -/
def Context.ceilOf (x : Context) (im : Sched) (d : Nat) : Nat :=
  let v := mapGet 0 x.live d
  if (im.desc d).movable ∧ v ≠ 0 then v else (im.desc d).ceiling

/-- Marks a tile final (R153). -/
def Context.finalTile (x : Context) (n : Nat) : Context := x.setLadder n { x.ladder n with final := true }

/-! ## Repair staging (R108 to R111) -/

def Tor.rowCount (r : Tor) (p : Nat) : Nat := field r.failCount (4 * p) 4
def Tor.setRowCount (r : Tor) (p n : Nat) : Tor := { r with failCount := setLane 4 r.failCount p (BitVec.ofNat 4 n) }

/-- A REPAIR entry for a tor and row with an action (Table 02-17): 1 force out, 2 forbid. -/
def Wihorn.repairHas (w : Wihorn) (t row action : Nat) : Bool :=
  w.repair.any (fun e => field e 0 13 == t && field e 16 3 == row && field e 24 2 == action)

/-- Whether a loaded image needs a tor, its fused group counted with it (R110, R272). -/
def State.torNeeded (s : State) (t : TorIdx) : Bool :=
  allCtx.any (fun c => match (s.ctx c).image with
    | some im => im.tors.any (fun e => (s.group t).any (fun g => g.toNat == e.tor))
    | none => false)

/-- Stages a tor map-out; a loaded image left without a tor it needs makes the module withdraw (R272). -/
def State.stageTor (s : State) (t : TorIdx) : State :=
  let r := s.tor t
  if r.stagedTor then s
  else
    let s := s.setTor t { r with stagedTor := true, stagedOut := 7 }
    if s.torNeeded t then s.sendWithdraw else s

/-- Writes both copies of each logical row's delay for a mapped-out row, 7 for none (R101, R102). The five waves more of
a bottom tor in a fused group are wiring (R112; DESIGN CHOICE, notes/assumptions/146.md). -/
def Tor.setDelays (r : Tor) (m : BitVec 3) : Tor :=
  let ds := (List.range 4).map (fun l => BitVec.ofNat 4 (physRow m l))
  { r with bufDelays := ds, cubeDelays := ds }

/-- The pass in one register set: the older where `old`. -/
def Tor.slot (r : Tor) (old : Bool) : Option Pass := if old then r.tail else r.pass
def Tor.setSlot (r : Tor) (old : Bool) (p : Option Pass) : Tor := if old then { r with tail := p } else { r with pass := p }

/-- The passes in the array. -/
def Tor.inArray (r : Tor) : List Pass := r.tail.toList ++ r.pass.toList

/-- Clears the staging rings of a tile word's operands. -/
def Tor.dropOperands (r : Tor) (uid : Nat) : Tor :=
  { r with ringA := mapSet [] r.ringA uid [], ringB := mapSet [] r.ringB uid [], aXpose := r.aXpose.filter (· != uid) }

/-- Starts the clean steps of a row (5: the tor) anew: the step under way is none of them. -/
def Tor.notClean (r : Tor) (p : Nat) : Tor :=
  { r with cleanSteps := setNth r.cleanSteps p 0, failedNow := if r.failedNow.contains p then r.failedNow else r.failedNow ++ [p] }

/-- A failure that a physical row detected (R108). A row whose map-out a REPAIR entry forbids stages nothing, neither the
row nor the tor (R109; DESIGN CHOICE, notes/assumptions/146.md). -/
def State.rowFailure (s : State) (t : TorIdx) (p : Nat) : State :=
  let r := s.tor t
  let n := min 15 (r.rowCount p + 1)
  let s := s.setTor t ((r.setRowCount p n).notClean p)
  let r := s.tor t
  if p = 4 then s.stageTor t
  else if n ≠ 2 then s
  else if s.img.active.repairHas t.toNat p 2 then s.raise 0x22 t.toNat
  else if r.rowOut ≠ 7 then s.stageTor t
  else if r.stagedOut = BitVec.ofNat 3 p then s
  else if r.stagedOut ≠ 7 then s.stageTor t
  else s.setTor t { r with stagedOut := BitVec.ofNat 3 p }

/-- A TOR_ECC or ARR_SKEW failure (R110). -/
def State.torFailure (s : State) (t : TorIdx) : State :=
  let r := s.tor t
  let n := satInc r.torFail
  let s := s.setTor t (({ r with torFail := n } : Tor).notClean 5)
  if 2 ≤ n.toNat then s.stageTor t else s

/-! ## The return buffer (R173) -/

def clientTor : Client → Option TorIdx
  | .tor t => some t
  | .torPlane t => some t
  | .torScree t => some t
  | _ => none

/-- Invalidates a ridge's return buffer; fills already asked for are not kept. -/
def State.invalidateBuf (s : State) (ridge : Nat) : State :=
  let mine (r : MemReq) : Option (Nat × Nat) := match clientTor r.client, r.write with
    | some t, none => if ridgeOf t = ridge then some (ridge, r.addr.toNat) else none
    | _, _ => none
  let out := s.mem.subs.flatMap (fun p => p.2.queue.filterMap mine ++ (p.2.inflight.map (·.req)).filterMap mine)
  { s with mem := { s.mem with returnBuf := mapSet [] s.mem.returnBuf ridge [], noKeep := s.mem.noKeep.filter (fun e => e.1 != ridge) ++ out } }

/-- Keeps a burst that a ridge's read ports returned: the last 512. A fill asked for before the last invalidation is not
kept, and a poisoned one holds no data. -/
def State.keepBuf (s : State) (ridge addr : Nat) (d : Option (BitVec 272)) : State :=
  if s.mem.noKeep.contains (ridge, addr) then { s with mem := { s.mem with noKeep := s.mem.noKeep.erase (ridge, addr) } }
  else match d with
    | none => s
    | some d =>
      let q := (mapGet [] s.mem.returnBuf ridge).filter (fun e => e.1 != addr)
      { s with mem := { s.mem with returnBuf := mapSet [] s.mem.returnBuf ridge ((q ++ [(addr, d)]).drop (q.length + 1 - 512)) } }

/-- A write through a ridge's own write port updates a matching entry. -/
def State.portWrite (s : State) (t : TorIdx) (addr : Nat) (d : BitVec 272) : State :=
  let q := mapGet [] s.mem.returnBuf (ridgeOf t)
  let s := s.writeBurst addr d
  let q := q.map (fun e => if e.1 = addr then (addr, d) else e)
  { s with mem := { s.mem with returnBuf := mapSet [] s.mem.returnBuf (ridgeOf t) q } }

/-! ## Tokens (R133, R135) -/

/-- A WAIT completes: issue goes on, and the ridge's return buffer is invalidated (R173). A remote wait that only a
stand-in count let through fails its ordinal (R236, R244). -/
def State.completeWait (s : State) (c : CtxIdx) (im : Sched) (t : TorIdx) (token count : Nat) (remote : Bool) : State :=
  let r := s.tor t
  let x := s.ctx c
  let v := (mapGet 0 x.tokens token).toNat
  let x := if remote && decide (v - mapGet 0 x.standIn token < count) then x.failWork (im.workOfWord t.toNat r.pc.toNat) else x
  ((s.setCtx c x).setTor t { r.next with state := 1, waitToken := none }).invalidateBuf (ridgeOf t)

/-- Wakes the tors of a context whose WAIT a counter now satisfies. -/
def State.wakeToken (s : State) (c : CtxIdx) (token : Nat) : State :=
  match (s.ctx c).image with
  | none => s
  | some im =>
    im.tors.foldl (fun s e =>
      let t := BitVec.ofNat 13 e.tor
      let r := s.tor t
      match r.state == 2, r.waitToken with
      | true, some (k, n, rem) =>
        if k = token ∧ n ≤ (mapGet 0 (s.ctx c).tokens token).toNat then s.completeWait c im t k n rem else s
      | _, _ => s) s

/-- Adds to a counter, which saturates at 65,535 with PRG_TOKEN (R133). -/
def State.addToken (s : State) (c : CtxIdx) (token inc : Nat) : State :=
  let x := s.ctx c
  let v := (mapGet 0 x.tokens token).toNat + inc
  let past := decide (65535 < v)
  let s := if past then s.recordCause 0x20 0 7 0 else s
  let s := s.setCtx c { x with tokens := mapSet 0 x.tokens token (BitVec.ofNat 16 (min v 65535)),
                               tokenOverflow := x.tokenOverflow || past }
  s.wakeToken c token

/-! ## Plane fetches (R151) -/

/-- A position still ACTIVE under the current membership epoch and not declared in the step. -/
def State.posActive (s : State) (p : Nat) : Bool :=
  !s.crn.declared.contains p && s.isActive p

/-- The source of a remote plane fetch: the owner in the own rope, else its twin in the lowest other live rope. -/
def State.planeSource (s : State) (im : Sched) (param seq : Nat) : Option Nat :=
  let m := im.ownerMember param seq
  let own := s.ropeOf im im.position
  let ropes := own :: (List.range s.plan.ropeCount).filter (· != own)
  (ropes.filterMap (fun r => s.posOfRope im r m)).find? s.posActive

/-- The plane bursts of one block read at `planes` that are not valid yet: (address, plane). -/
def State.missingPlanes (s : State) (x : Context) (im : Sched) (d seq planes : Nat) : List (Nat × Nat) :=
  let off := s.liveOffset x im d seq
  ((List.range planes).map (fun p => ((im.desc d).planeAddr (p + 1) seq + off, p + 1))).filter
    (fun a => !s.planeOk x im d seq a.1)

/-- Asks a position for a plane burst. -/
def State.sendFetch (s : State) (c : CtxIdx) (f : PlaneFetch) : State :=
  let x := s.ctx c
  (s.setCtx c { x with fetches := x.fetches ++ [f] }).tell c 0x03 f.source
    (.fetchOut f.source (BitVec.ofNat 36 f.addr) (BitVec.ofNat 2 f.plane))

/-- The source of a block's planes, by descriptor. -/
def State.planeSourceOf (s : State) (im : Sched) (d seq : Nat) : Option Nat :=
  (im.paramOf d).bind (fun i => s.planeSource im i (im.recordSeq (im.param i) d seq))

/-- Sends the fetches of a block's missing planes. -/
def State.fetchPlanes (s : State) (c : CtxIdx) (im : Sched) (d seq planes : Nat) : State :=
  match s.planeSourceOf im d seq with
  | none => s
  | some p => (s.missingPlanes (s.ctx c) im d seq planes).foldl (fun s a =>
      s.sendFetch c { source := p, desc := d, seq := seq, addr := a.1, plane := a.2 }) s

/-- The fetches on their way to a position go to the next source instead (R160). -/
def State.refetch (s : State) (c : CtxIdx) (im : Sched) (p : Nat) : State :=
  let x := s.ctx c
  let lost := x.fetches.filter (fun f => f.source == p)
  lost.foldl (fun s f => match s.planeSourceOf im f.desc f.seq with
    | some q => s.sendFetch c { f with source := q }
    | none => s) (s.setCtx c { x with fetches := x.fetches.filter (fun f => f.source != p) })

/-! ## The run-ahead loader (R130, R131) -/

/-- Bytes of one block in the tor store (R390): 40 for each burst of a nibble or byte format, 32 for any other, and a
scree unit where the stream has SCREE = 1. -/
def storeStride (d : Desc) (planes : Nat) (scree : Bool) : Nat :=
  (if d.format ≤ 5 then 40 * (1 + planes) else 32 * d.blockBursts) + (if scree then 40 else 0)

/-- One burst in the tor-store form (R390). -/
def storeBurst (d : Desc) (b : BitVec 272) : List Byte :=
  if d.format ≤ 5 then leBytes 32 (payload b) ++ [b.extractLsb' 256 8, burstFlags b] ++ List.replicate 6 0
  else leBytes 32 (payload b)

/-- A scree unit (R390). -/
def storeScree (scree : List (BitVec 32)) : List Byte :=
  let bs := scree.flatMap (leBytes 4)
  bs ++ List.replicate (40 - bs.length) 0

/-- A burst that reached the loader, or stands in the return buffer. -/
def State.arrivedAt (s : State) (t : TorIdx) (addr : Nat) : Option Arrival :=
  let a := mapGet {} (s.tor t).arrived addr
  if a.present then some a
  else match (mapGet [] s.mem.returnBuf (ridgeOf t)).find? (fun e => e.1 == addr) with
    | some e => some { present := true, d := e.2 }
    | none => none

/-- The belay that a partner reads a burst of host input for, and the burst's offset in the ordinal's input (R248). -/
def Context.belayInput (x : Context) (im : Sched) (addr : Nat) : Option (Belay × Nat) :=
  (x.belays.filter (fun b => b.role == 2)).findSome? (fun b =>
    match im.inputs[b.ordinal]? with
    | none => none
    | some (b0, n0, b1, n1) =>
      if b0 ≤ 32 * addr ∧ 32 * addr < b0 + n0 then some (b, 32 * addr - b0)
      else if b1 ≤ 32 * addr ∧ 32 * addr < b1 + n1 then some (b, 32 * addr - b1)
      else none)

/-- That burst, once the input is there. -/
def Context.belayBurst (x : Context) (im : Sched) (addr : Nat) : Option (BitVec 272) :=
  match x.belayInput im addr with
  | some (b, o) => (b.inputs.find? (fun e => e.1 == b.ordinal)).map (fun e => mkBurst 0 0 (ofLe 256 ((e.2.drop o).take 32)))
  | none => none

/-- A burst for the loader: host input of a replayed ordinal comes from the belay area, once it is there. -/
def State.loaderBurst (s : State) (c : CtxIdx) (im : Sched) (d : Desc) (t : TorIdx) (addr : Nat) : Option Arrival :=
  if d.cls = 6 then
    match (s.ctx c).belayBurst im addr, (s.ctx c).belayInput im addr with
    | some d, _ => some { present := true, d := d }
    | none, some (b, _) => if b.outcome = 0 then none else s.arrivedAt t addr
    | none, none => s.arrivedAt t addr
  else s.arrivedAt t addr

/-- All bursts of a list, or none. -/
def State.loaderBursts (s : State) (c : CtxIdx) (im : Sched) (d : Desc) (t : TorIdx) (as : List Nat) : Option (List Arrival) :=
  as.mapM (s.loaderBurst c im d t)

/-- The uid of the pass at the head of the queue, or of the next tile word (R131). -/
def Tor.headUid (r : Tor) : Nat :=
  match r.inArray with
  | p :: _ => p.req.uid
  | [] => match r.passes with | q :: _ => q.uid | [] => r.tileSeq

/-- Puts a delivered block where its stream sends it: its base bursts, its plane bursts, and of its scree burst the block's
own entries (R130, R390). A poisoned tor-store load fails as a work item (R171). -/
def State.deliver (s : State) (c : CtxIdx) (im : Sched) (t : TorIdx) (l : LoadReq) (e : StreamEntry) (d : Desc)
    (base fine : List Arrival) (sb : Option Arrival) (scree : List (BitVec 32)) : State :=
  let r := s.tor t
  let finePoison := fine.any (·.poison) || sb.any (·.poison)
  let ds := (base ++ fine).map (·.d)
  let ds := if e.xpose then (if d.format ≤ 5 then ds.map transNibbles else transWords d.blockCols ds) else ds
  let seq := e.seqAt l.done
  if e.target = 0 then
    if base.any (·.poison) || finePoison then
      if l.pre then s.setTor t { r with preFail := r.preFail ++ [l.word] }
      else s.failItem c (im.workOfWord t.toNat l.word) 0x0C 7 t.toNat 0
    else
      let bytes := ds.flatMap (storeBurst d) ++ (if e.scree then storeScree scree else [])
      s.setTor t { r with store := memSetBytes r.store (e.tsaddr + l.done * storeStride d e.plane e.scree) bytes }
  else
    let blk : Block := { base := nth 0 ds 0, p1 := nth 0 ds 1, p2 := nth 0 ds 2, planes := fine.length, scree := scree,
                         xpose := e.xpose, poison := base.any (·.poison), finePoison := finePoison }
    let put (m : SMap (SMap Block)) : SMap (SMap Block) := mapSet [] m l.owner (regPut (mapGet [] m l.owner) seq blk)
    if e.target = 1 then s.setTor t { r with
      ringA := put r.ringA, aXpose := if e.xpose && !r.aXpose.contains l.owner then r.aXpose ++ [l.owner] else r.aXpose }
    else s.setTor t { r with ringB := put r.ringB }

/-- Serves the loader's queue in stream order while its bursts are at hand: at most eight passes ahead, a block with its
planes together, and a scree slot for an escaping block where SCREE = 1. A zero block's planes are not read for the array
(R48, R82); a tor-store stream moves every burst it names (R130; DESIGN CHOICE, notes/assumptions/146.md). -/
def State.runLoader : Nat → State → CtxIdx → TorIdx → State
  | 0, s, _, _ => s
  | f + 1, s, c, t =>
    let r := s.tor t
    let x := s.ctx c
    match x.image, r.loads with
    | some im, l :: rest =>
      let e := im.load l.stream
      let d := im.desc e.desc
      let seq := e.seqAt l.done
      let off := s.liveOffset x im e.desc seq
      let base := d.baseBursts seq off
      if e.target ≠ 0 ∧ r.headUid + 8 < l.owner then s
      else match s.loaderBursts c im d t base with
      | none => s
      | some bs =>
        let b0 := ((bs.head?).map (·.d)).getD 0
        let n := if e.target ≠ 0 ∧ d.isK4n ∧ flZero (burstFlags b0) then 0 else e.plane
        let planes := d.planeBursts n seq off
        if !(s.missingPlanes x im e.desc seq n).isEmpty then
          (if l.asked then s
            else (s.setTor t { r with loads := { l with asked := true } :: rest }).fetchPlanes c im e.desc seq n)
        else match s.loaderBursts c im d t planes with
        | none => s
        | some ps =>
          let escapes := e.scree && d.isK4n && d.cap != 0 && !flZero (burstFlags b0) && flEscape (burstFlags b0)
          let sa := d.screeAddr seq + off
          let sc : Option (List Arrival) := if escapes then s.loaderBursts c im d t [sa] else some []
          match sc with
          | none => s
          | some sb =>
            let ents := match sb with
              | a :: _ => (List.range d.cap).map (fun k => a.d.extractLsb' (32 * (d.screeWord seq + k)) 32)
              | [] => if e.scree then List.replicate d.cap 0 else []
            let used := base ++ planes ++ (if escapes then [sa] else [])
            let r := { r with arrived := r.arrived.filter (fun p => !used.contains p.1),
                              loads := if l.done + 1 = e.count then rest else { l with done := l.done + 1, asked := false } :: rest }
            ((s.setTor t r).deliver c im t l e d bs ps sb.head? ents).runLoader f c t
    | _, _ => s

/-- Runs the loader as far as it can. -/
def State.loadMore (s : State) (c : CtxIdx) (t : TorIdx) : State := s.runLoader (2 ^ 32) c t

/-- A tor-store range that a queued tor-store load has yet to fill (R131). -/
def State.loadPending (s : State) (c : CtxIdx) (t : TorIdx) (lo hi : Nat) : Bool :=
  match (s.ctx c).image with
  | none => false
  | some im => (s.tor t).loads.any (fun l =>
      let e := im.load l.stream
      let n := e.count * storeStride (im.desc e.desc) e.plane e.scree
      e.target == 0 && decide (e.tsaddr < hi) && decide (lo < e.tsaddr + n))

/-- The bursts that a queued load has yet to take from the loader. -/
def State.loadBursts (s : State) (x : Context) (im : Sched) (l : LoadReq) : List Nat :=
  let e := im.load l.stream
  let d := im.desc e.desc
  (List.range (e.count - l.done)).flatMap (fun i =>
    let seq := e.seqAt (l.done + i)
    let off := s.liveOffset x im e.desc seq
    d.baseBursts seq off ++ d.planeBursts e.plane seq off ++ (if e.scree then [d.screeAddr seq + off] else []))

/-- Drops what was loaded for a tile word that ALT or SKIPB bypasses (R131): the staging ring's blocks, the queued loads,
and their bursts, come or yet to come, that no other load waits for. -/
def State.dropLoads (s : State) (c : CtxIdx) (im : Sched) (t : TorIdx) : State :=
  let r := s.tor t
  let mine (l : LoadReq) : Bool := l.ring && l.owner == r.tileSeq
  let bursts (ls : List LoadReq) : List Nat := ls.flatMap (s.loadBursts (s.ctx c) im)
  let kept := bursts (r.loads.filter (fun l => !mine l))
  let gone := (bursts (r.loads.filter mine)).filter (fun b => !kept.contains b)
  let coming := (s.mem.subs.flatMap (fun e => e.2.queue ++ e.2.inflight.map (·.req))).filterMap (fun q =>
    if clientTor q.client = some t ∧ q.write = none ∧ gone.contains q.addr.toNat then some q.addr.toNat else none)
  s.setTor t { r.dropOperands r.tileSeq with
    loads := r.loads.filter (fun l => !mine l), arrived := r.arrived.filter (fun a => !gone.contains a.1),
    discard := r.discard ++ coming }

/-! ## Ceiling settle at the home (R71 to R73) -/

/-- The fields of a stored instruction word. -/
def opcodeOf (w : BitVec 128) : Nat := field w 120 8

/-- The tile words of a stream: (tile, drain index). -/
def tileWords (st : Stream) : List (Nat × Nat) :=
  st.words.filterMap (fun w => if opcodeOf w = 0x10 ∨ opcodeOf w = 0x11 then some (field w 92 20, field w 72 16) else none)

/-- The tiles that produce a tensor, by ALTERNATES number, each once. -/
def State.producers (s : State) (im : Sched) (d : Nat) : List Nat :=
  (im.tors.flatMap (fun e => match im.streams[e.stream]? with
    | none => []
    | some st => (tileWords st).filterMap (fun p =>
        if (DrainEntry.outDesc (nth 0 st.drains p.2)) = d then some (s.tileNo im (BitVec.ofNat 13 e.tor) p.1) else none))).eraseDups

/-- Restores a tile to its state before a pass that a ceiling move voids (R72). -/
def Context.voidTile (x : Context) (w : Work) (n : Nat) : Context :=
  let l := x.ladder n
  let x := match l.before with | some e => x.setSwbAt w n e | none => x
  x.setLadder n { l with l0 := none, sel := 0, seen := false, jumped := false, tally := {} }

/-- Lets the tors that wait in SETTLE for a tensor act on their outcome (R138). -/
def State.resumeSettle (s : State) (c : CtxIdx) (d : Nat) : State :=
  match (s.ctx c).image with
  | none => s
  | some im =>
    im.tors.foldl (fun s e =>
      let t := BitVec.ofNat 13 e.tor
      let r := s.tor t
      match r.state == 3, r.settleTile with
      | true, some (tile, dd) =>
        if dd ≠ d then s
        else
          let x := s.ctx c
          let n := s.tileNo im t tile
          let st := mapGet {} x.settles d
          let k := 4 * n + (if s.fused t then quadrant t else 0)
          let w := im.workOfTile t.toNat tile
          let rerun (which : Nat) : State :=
            let l := x.ladder n
            let entry := im.altEntry n (if l.start = 0 then which else l.start)
            let x := if s.leadOf t = t then x.voidTile w n else x
            let x := { x with settles := mapSet {} x.settles d { st with outcomes := mapSet .waiting st.outcomes k .waiting } }
            match entry with
            | some p => (s.setCtx c x).setTor t (({ r with state := 1 } : Tor).call p r.pc.toNat 0 true)
            | none => s.setCtx c x
          (match mapGet .waiting st.outcomes k with
            | .waiting => s
            | .rerunRaised => rerun 3
            | .rerunDropped => rerun 4
            | _ =>
              (s.setCtx c (x.finalTile n)).setTor t { r.next with state := 1, settleTile := none })
      | _, _ => s) s

/-- The outcomes of a set of tiles, for every quadrant. -/
def setOutcomes (m : SMap SettleOutcome) (ns : List Nat) (o : SettleOutcome) : SMap SettleOutcome :=
  ns.foldl (fun m n => (List.range 4).foldl (fun m q => mapSet .waiting m (4 * n + q) o) m) m

/-- Settle of R71, with at most `fuel` runs: after a move that re-runs no tile every tile has reported at the new
ceiling, so settle runs again at once. -/
def State.settleRuns (c : CtxIdx) (d : Nat) : Nat → State → State
| 0, s => s
| fuel + 1, s =>
  let x := s.ctx c
  match x.image with
  | none => s
  | some im =>
    let st := mapGet {} x.settles d
    let ps := s.producers im d
    let rep (n : Nat) : CeilReport := mapGet {} st.reports n
    let th := x.pol.thresholds
    if st.settled || !ps.all (fun n => st.reports.any (fun p => p.1 == n)) then s
    else
      let cl := x.ceilOf im d
      let past (n : Nat) : Bool := decide (th.raiseFraction.toNat * (rep n).counts.blocks < 256 * (rep n).counts.sat)
      let under (n : Nat) : Bool := decide (th.dropFraction.toNat * (rep n).counts.blocks < 256 * (rep n).counts.unf)
      let entries := ps.all (fun n => (im.altEntry n 3).isSome && (im.altEntry n 4).isSome)
      let anyOver := ps.any past
      let move (c' : Nat) (redo : List Nat) (o : SettleOutcome) (raised : Bool) : State :=
        let st := { st with moves := st.moves + 1, raised := st.raised || raised, dropped := st.dropped || !raised,
                            reports := st.reports.filter (fun p => !redo.contains p.1), outcomes := setOutcomes st.outcomes redo o }
        let k := x.counts
        let x := { x with settles := mapSet {} x.settles d st, live := mapSet 0 x.live d c',
                          counts := { k with raises := k.raises + boolNat raised, drops := k.drops + boolNat (!raised) } }
        let s := (s.setCtx c x).resumeSettle c d
        if redo.isEmpty then State.settleRuns c d fuel s else s
      if anyOver && decide (st.moves < 4) && decide (cl ≤ 247) && entries then
        let redo := ps.filter (fun n => !(rep n).void && (decide (0 < (rep n).counts.sat) ||
          (match (rep n).counts.minE with | some e => decide (e + 47 < cl + 8) | none => false)))
        move (cl + 8) redo .rerunRaised true
      else if !anyOver && !st.raised && !st.dropped && decide (st.moves < 4) && decide (55 ≤ cl) && ps.any under
          && ps.all (fun n => (rep n).counts.sat == 0) && ps.all (fun n => decide ((rep n).counts.maxE + 8 ≤ cl)) && entries then
        move (cl - 8) (ps.filter (fun n => !(rep n).void && decide (0 < (rep n).counts.low))) .rerunDropped false
      else
        let lim := ps.filter (fun n => past n || (under n && decide (0 < (rep n).counts.sat)))
        let st := { st with settled := true, outcomes := setOutcomes (setOutcomes st.outcomes ps .settled) lim .limited }
        let k := x.counts
        let x := { x with settles := mapSet {} x.settles d st, counts := { k with rangeLimited := k.rangeLimited + lim.length } }
        ((s.setCtx c x).resumeSettle c d).addToken c (im.desc d).settleToken 1

/-- Runs settle for a tensor once every producing tile has reported (R71). A tensor moves at most four times a step, so
five runs suffice. -/
def State.runSettle (s : State) (c : CtxIdx) (d : Nat) : State := State.settleRuns c d 5 s

/-! ## Effects that wait for earlier words (R134, R138 to R141) -/

/-- The passes of a tor whose effect on memory is not complete. -/
def Tor.openPasses (r : Tor) : List Nat :=
  r.inArray.map (·.req.uid) ++ r.passes.map (·.uid) ++ r.drains.map (·.uid)

/-- The tor-store loads of a tor that are not complete. -/
def State.openLoads (s : State) (c : CtxIdx) (t : TorIdx) : List Nat :=
  match (s.ctx c).image with
  | none => []
  | some im => ((s.tor t).loads.filter (fun l => !l.pre && (im.load l.stream).target == 0)).map (·.uid)

/-- Queues an effect behind the earlier words of a tor. -/
def State.pushLater (s : State) (c : CtxIdx) (t : TorIdx) (op : LaterOp) : State :=
  let r := s.tor t
  s.setTor t { r with later := r.later ++ [{ op := op, passes := r.openPasses, loads := s.openLoads c t }] }

/-- The blocks of a tensor that quadrant q of a tile covers (R122, R112). -/
def blocksOf (o : Desc) (e : TileEntry) (q : Nat) : List Nat :=
  let r0 := e.m0 + 16 * (q / 2)
  let c0 := e.n0 + 16 * (q % 2)
  let rows := (List.range (16 / o.blockRows)).map (fun i => r0 / o.blockRows + i)
  let cols := (List.range (ceilDiv 16 o.blockCols)).map (fun i => c0 / o.blockCols + i)
  rows.flatMap (fun r => (cols.filter (fun k => decide (r < o.gridRows) && decide (k < o.gridCols))).map (fun k => r * o.gridCols + k))

/-- The blocks of a tensor that a tor's part of a tile covers (R112). -/
def State.tileBlocks (s : State) (im : Sched) (t : TorIdx) (tile d : Nat) : List Nat :=
  blocksOf (im.desc d) (im.tile t.toNat tile) (if s.fused t then quadrant t else 0)

/-- A tor-store range that an earlier tile pass has yet to drain to (R132, R390): a queued pass, the pass in the array,
or a drain-buffer entry. A pass still before its NCHK does not count: its release follows a later word. (R14, R16: no
result depends on how far the array has come; DEDUCED, notes/assumptions/132.md). -/
def State.drainPending (s : State) (c : CtxIdx) (t : TorIdx) (lo hi : Nat) : Bool :=
  match (s.ctx c).image with
  | none => false
  | some im =>
    let r := s.tor t
    let hits (tile : Nat) (e : DrainEntry) : Bool :=
      let d := im.desc e.outDesc
      let n := (s.tileBlocks im t tile e.outDesc).length * storeStride d d.planes (d.cap != 0)
      e.toStore && decide (e.tsaddr < hi) && decide (lo < e.tsaddr + n)
    let queued (q : PassReq) : Bool :=
      let e := im.drain t.toNat q.op.drain.toNat
      !e.norm && hits q.op.tile.toNat e
    r.passes.any queued || r.inArray.any (fun p => queued p.req) || r.drains.any (fun b => (!b.norm || b.decided) && hits b.tile b.drain)

/-- A tor-store range that an earlier word has yet to fill: a word that uses it waits. -/
def State.rangePending (s : State) (c : CtxIdx) (t : TorIdx) (lo hi : Nat) : Bool :=
  s.loadPending c t lo hi || s.drainPending c t lo hi

/-- Whether blocks of a rotated output of this tile still wait for their group (R77). -/
def Context.rotWaits (x : Context) (d n : Nat) : Bool := (mapGet [] x.rotBuf d).any (fun p => p.2.tile == n && p.2.fresh)

/-- Whether any rotated output of a tor's tiles still waits for its group: its effect on memory is not complete. -/
def State.rotOpen (s : State) (x : Context) (im : Sched) (t : TorIdx) : Bool :=
  let n := match im.stream? t.toNat with | some st => st.tiles.length | none => 0
  let lo := s.tileNo im t 0
  x.rotBuf.any (fun e => e.2.any (fun p => p.2.fresh && decide (lo ≤ p.2.tile) && decide (p.2.tile < lo + n)))

/-- Hands a tile's blocks to the NI, or reports the chunk failed (R140, R235). -/
def State.doHand (s : State) (c : CtxIdx) (im : Sched) (t : TorIdx) (desc tile chunk slot word : Nat) (failed : Bool) : State :=
  let x := s.ctx c
  let k := match im.workOfWord t.toNat word with | .ordinal k => k | .shared => 0
  let h : Handed := { tor := t.toNat, word := word, ordinal := k, desc := desc, chunk := chunk, slot := slot,
                      blocks := if failed then [] else s.tileBlocks im t tile desc, failed := failed }
  (s.setCtx c { x with handed := x.handed ++ [h] }).feedNodes c

/-- A tile with a pass still on its way to memory in some tor of the group. -/
def State.tileOpen (s : State) (t : TorIdx) (tile : Nat) : Bool :=
  (s.group t).any (fun u => let r := s.tor u
    r.passes.any (fun q => q.op.tile.toNat == tile) || r.inArray.any (fun p => p.req.op.tile.toNat == tile)
      || r.drains.any (fun b => b.tile == tile))

/-- Sends a ceiling report to the home's inbox: a fused tile's by its lead alone (R71, R124). -/
def State.sendCeil (s : State) (c : CtxIdx) (im : Sched) (t : TorIdx) (tile desc : Nat) (void : Bool) : State :=
  if s.leadOf t ≠ t then s
  else
    let n := s.tileNo im t tile
    let r : CeilReport := if void then { void := true } else { counts := ((s.ctx c).ladder n).tally.kept }
    { s with ceilInbox := s.ceilInbox ++ [(c, desc, n, r)] }

/-- A remote SIGNAL: a TOKEN packet with the step and the epochs (R135), but to a RANGE at or above the plan's limit
(R338). -/
def State.signalRemote (s : State) (c : CtxIdx) (sys : BitVec 15) (token inc : Nat) : State :=
  if s.plan.rangeLimit ≤ addrRange sys then
    { s with mgt := { s.mgt with blockedLink := satInc s.mgt.blockedLink } }.raiseBlocked
  else
    let x := s.ctx c
    let o := Output.tokenOut sys token inc (x.step.setWidth 16) x.epoch
    match s.posOfSlot (addrRange sys) (addrSlot sys) with
    | some p => s.tell c 0x02 p o
    | none => s.emit o

/-- A local SIGNAL (R133). -/
def State.signalLocal (s : State) (c : CtxIdx) (t : TorIdx) (token inc : Nat) : State :=
  let before := (s.ctx c).tokenOverflow
  let s := s.addToken c token inc
  if (s.ctx c).tokenOverflow && !before then s.setTor t { s.tor t with lastFault := 2 } else s

/-- Performs one delayed effect. -/
def State.doLater (s : State) (c : CtxIdx) (im : Sched) (t : TorIdx) (op : LaterOp) : State :=
  match op with
  | .signal token sys remote inc => if remote then s.signalRemote c sys token inc else s.signalLocal c t token inc
  | .hand desc tile chunk slot word => s.doHand c im t desc tile chunk slot word ((s.tor t).failedTiles.contains tile)
  | .failedHand desc tile chunk slot word => s.doHand c im t desc tile chunk slot word true
  | .ceilReport tile desc => s.sendCeil c im t tile desc ((s.tor t).failedTiles.contains tile)
  | .voidReport tile desc => s.sendCeil c im t tile desc true
  | .stepReport pre =>
    let r := s.tor t
    let x := s.ctx c
    let s := s.setCtx c { x with counts := { x.counts with fpfTors := x.counts.fpfTors ||| r.fpf } }
    (s.setTor t { s.tor t with reported := true, preLeft := pre, preDone := 0 }).feedNodes c

/-- Performs a tor's delayed effects in order, each once its earlier words are complete (R134). -/
def State.runLater : Nat → State → CtxIdx → TorIdx → State
  | 0, s, _, _ => s
  | f + 1, s, c, t =>
    let r := s.tor t
    match (s.ctx c).image, r.later with
    | some im, l :: rest =>
      let waits := match l.op with
        | .ceilReport tile desc => (s.ctx c).rotWaits desc (s.tileNo im t tile) || s.tileOpen t tile
        | _ => s.rotOpen (s.ctx c) im t
      if waits || l.passes.any (fun u => r.openPasses.contains u) || l.loads.any (fun u => (s.openLoads c t).contains u) then s
      else ((s.setTor t { r with later := rest }).doLater c im t l.op).runLater f c t
    | _, _ => s

def State.settleLater (s : State) (c : CtxIdx) (t : TorIdx) : State := s.runLater ((s.tor t).later.length + 1) c t

/-- Runs the loader, then the delayed effects. -/
def State.progress (s : State) (c : CtxIdx) (t : TorIdx) : State := (s.loadMore c t).settleLater c t

/-! ## Failures and the stand-in walk (R88, R129, R236 to R238) -/

/-- A word that is its own work item fails with a cause of class micro-batch (R234, R236). -/
def State.failWord (s : State) (c : CtxIdx) (im : Sched) (t : TorIdx) (cause : Nat) : State :=
  s.failItem c (im.workOfWord t.toNat (s.tor t).pc.toNat) cause 7 t.toNat 0

/-- The branch-use mask that SKIPB reads (R139, R319): a module that catches up, and a replayed word, take the subject's
(R248). -/
def State.branchMask (s : State) (x : Context) (im : Sched) (t : TorIdx) (word : Nat) : BitVec 16 :=
  let own := match x.current with | some e => e.mask | none => 0
  match x.replayOf (im.workOfWord t.toNat word) with
  | some b => b.mask
  | none => if s.crn.ownState = 1 then (match x.belays.find? (fun b => b.role == 2) with | some b => b.mask | none => own) else own

/-- What a skipped range still performs: its SIGNALs and a void report for each SETTLE (R139). -/
def skippedOps (ws : List (BitVec 128)) : List LaterOp :=
  ws.filterMap (fun w =>
    if opcodeOf w = 0x61 then some (.signal (field w 95 17) (w.extractLsb' 80 15) (bit w 79) (field w 63 16))
    else if opcodeOf w = 0xA1 then some (.voidReport (field w 92 20) (field w 76 16))
    else none)

/-- A position on the walk: program counter, return stack, open loops. -/
structure Walk where
  pc : Nat
  stack : List RetFrame
  loops : List LoopFrame
  deriving DecidableEq, Repr

def Walk.goto (w : Walk) (pc : Nat) : Walk :=
  let q := closeLoops (w.loops.length + 1) pc w.stack.length w.loops
  { w with pc := q.2, loops := q.1 }

/-- The walk of R238: what the ridge port performs on the path the tor would have taken, up to its CAIRN. -/
def walkFrom (st : Stream) (mask : BitVec 16) : Nat → Walk → List LaterOp
  | 0, _ => []
  | f + 1, w =>
    match st.words[w.pc]? with
    | none => []
    | some x =>
      let go := walkFrom st mask f
      let op := opcodeOf x
      if op = 0xB0 then [.stepReport 0]
      else if op = 0x61 then skippedOps [x] ++ go (w.goto (w.pc + 1))
      else if op = 0xA1 then skippedOps [x] ++ go (w.goto (w.pc + 1))
      else if op = 0x80 then
        .failedHand (field x 96 16) (field x 76 20) (field x 52 24) (field x 48 4) w.pc :: go (w.goto (w.pc + 1))
      else if op = 0x01 then
        (if field x 60 32 = 0 then go (w.goto (w.pc + 1 + field x 92 20))
        else go { w with pc := w.pc + 1,
                         loops := { start := w.pc + 1, len := field x 92 20, left := field x 60 32, depth := w.stack.length } :: w.loops })
      else if op = 0x02 then
        (if bit mask (field x 108 4) then go (w.goto (w.pc + 1))
        else skippedOps ((st.words.drop (w.pc + 1)).take (field x 88 20)) ++ go (w.goto (w.pc + 1 + field x 88 20)))
      else if op = 0x03 then go { w with pc := field x 80 32, stack := { addr := w.pc + 1 } :: w.stack }
      else if op = 0x04 then
        (match w.stack with
          | [] => []
          | r :: rs =>
            let w := { w with stack := rs, loops := w.loops.filter (fun l => decide (l.depth ≤ rs.length)) }
            -- the return of a SETTLE's entry goes back to that SETTLE word
            go (if r.settle then { w with pc := r.addr } else w.goto r.addr))
      else go (w.goto (w.pc + 1))

/-- A bad tor-store address stops the tor (R129): the word fails, what waits for an NCHK is discarded, and the ridge
port walks the rest of the stream (R238). -/
def State.stopTor (s : State) (c : CtxIdx) (im : Sched) (t : TorIdx) : State :=
  let s := s.failWord c im t 0x0B
  let r := s.tor t
  let x := s.ctx c
  match im.stream? t.toNat with
  | none => s
  | some st =>
    let ops := walkFrom st (s.branchMask x im t r.pc.toNat) (2 ^ 40)
      (Walk.goto { pc := r.pc.toNat, stack := r.stack, loops := r.loops } (r.pc.toNat + 1))
    let x := (List.range st.tiles.length).foldl (fun (x : Context) k => if s.leadOf t = t then x.finalTile (s.tileNo im t k) else x) x
    let s := s.setCtx c x
    let s := s.setTor t { r with stopped := true, lastFault := 1, state := 4,
                                 drains := r.drains.filter (fun b => !b.norm || b.decided) }
    (ops.foldl (fun s op => s.pushLater c t op) s).settleLater c t

/-- A tor at word 0 of a step (R119, R141). -/
def Tor.atStart (r : Tor) (state : BitVec 3) : Tor :=
  if r.mappedOut then r
  else { r with pc := 0, stack := [], loops := [], v := [], s := [], p := [], gen := r.gen + 1, zeroed := false, state := state,
                stopped := false, reported := false, preLeft := 0, preDone := 0, released := false, startHeld := false,
                altWait := false, deqWait := false, settleTile := none,
                later := [], failedTiles := [], tileRung := [], waitToken := none, lastFault := r.lastFault,
                loads := r.loads.map (fun l => { l with pre := false }) }

/-- A PRE load that failed counts in this step (R141). -/
def State.failPre (s : State) (c : CtxIdx) (im : Sched) (t : TorIdx) : State :=
  let r := s.tor t
  r.preFail.foldl (fun s w => s.failItem c (im.workOfWord t.toNat w) 0x0C 7 t.toNat 0) (s.setTor t { r with preFail := [] })

/-- A tor begins a step, and its loader runs. -/
def State.startTor (s : State) (c : CtxIdx) (im : Sched) (t : TorIdx) : State :=
  let s := s.setTor t ((s.tor t).atStart 1)
  (s.failPre c im t).progress c t

/-- A released tor has issued the last PRE word of its CAIRN: word 0 is next (R141). -/
def State.leaveCairn (s : State) (c : CtxIdx) (t : TorIdx) : State :=
  let r := s.tor t
  match r.startHeld, (s.ctx c).image with
  | true, some im => s.startTor c im t
  | _, _ => (s.setTor t { r with pc := 0, state := 0, released := false }).progress c t

/-- A tile's pass failed: the tile is final (R153). A tile that was final before keeps what it counted as then. -/
def Context.failLadder (x : Context) (n : Nat) : Context :=
  let l := x.ladder n
  x.setLadder n { l with final := true, jumped := l.final && l.jumped }

/-- A tile pass fails (R88, R102, R104): its register set is cleared in every tor of its group, the tor that failed
records it, and its ordinal fails. -/
def State.failPass (s : State) (c : CtxIdx) (im : Sched) (t : TorIdx) (old : Bool) (p : Pass) (cause row others : Nat) : State :=
  let tile := p.req.op.tile.toNat
  let s := (s.group t).foldl (fun s u =>
    let r := s.tor u
    let r := (r.setSlot old none).dropOperands ((r.slot old).getD p).req.uid
    s.setTor u { r with failedTiles := if r.failedTiles.contains tile then r.failedTiles else r.failedTiles ++ [tile],
                        queues := if r.inArray.isEmpty then [0, 0, 0, 0] else r.queues }) s
  let s := s.setTor t { s.tor t with failRecord := some { tor := t.toNat, uid := p.req.uid, row := row, cause := cause } }
  let s := s.failItem c (im.workOfTile t.toNat tile) cause row t.toNat others
  s.setCtx c ((s.ctx c).failLadder (s.tileNo im t tile))

end Sys2Proof.Machine
end

