-- ==== Sys2Proof/Machine/Vector.lean ====
section
/-! DEFINITION. The vector words (R125, R126) over the arithmetic of chapter 5, and their tor-store accesses (R100,
R129). -/

namespace Sys2Proof.Machine
open Sys2Proof

/-- MODE[3] STRICT and MODE[2:0] RND (R125); none for a reserved MODE. -/
def vmode (pilot : Bool) (mode : BitVec 4) : Option FpMode :=
  if bit mode 3 then (rmOfCode (field mode 0 3)).map FpMode.strict
  else if field mode 0 3 = 0 then some (.fast pilot) else none

/-- Whether a MODE is one the image check accepts (R125). -/
def vmodeOk (mode : BitVec 4) : Bool := (vmode false mode).isSome

/-- The active lanes (R119). -/
def Tor.lanes (r : Tor) (t : TorIdx) (pred : BitVec 3) (pneg : Bool) : BitVec 32 :=
  let p := r.readP t pred.toNat
  if pneg then ~~~p else p

/-- Lane j of a vector register. -/
def vlane (v : BitVec 1024) (j : Nat) : F32 := getLane 32 v j

/-- Writes the active lanes of VD; their flags go to FPF in strict mode (R95, R119). -/
def Tor.vlanes (r : Tor) (t : TorIdx) (act : BitVec 32) (vd : Nat) (f : Nat → FpRes) : Tor :=
  let old := r.readV t vd
  let res : List FpRes := (List.range 32).map (fun j => if bit act j then f j else ({ val := vlane old j } : FpRes))
  let fl := res.foldl (fun (a : BitVec 5) (x : FpRes) => a ||| x.flags) 0
  ({ r with fpf := r.fpf ||| fl }).writeV vd (packLanes 1024 32 (res.map FpRes.val))

/-- A word of the VADD … VRSQ row: lane by lane from VA, VB, VC. -/
def State.vector (s : State) (t : TorIdx) (op : Byte) (o : VOp) (f : FpMode → F32 → F32 → F32 → FpRes) : State :=
  s.issue t (encVector op o) (fun c r =>
    match vmode (s.pilot c) o.mode with
    | none => r
    | some md =>
      let a := r.readV t o.va.toNat
      let b := r.readV t o.vb.toNat
      let d := r.readV t o.vc.toNat
      r.vlanes t (r.lanes t o.pred o.pneg) o.vd.toNat (fun j => f md (vlane a j) (vlane b j) (vlane d j)))

/-- Runs a word of the row, or refuses one that no image may hold: SUB ≠ 0, a reserved RND. -/
def State.vectorWord (s : State) (t : TorIdx) (op : Byte) (o : VOp) (name : String) (f : FpMode → F32 → F32 → F32 → FpRes) :
    Host.Outcome State Fault Refusal :=
  if o.sub ≠ 0 ∨ ¬ vmodeOk o.mode then .refused (.reservedEncoding name) else .next (s.vector t op o f)

def execVadd (t : TorIdx) (o : VOp) (s : State) : Host.Outcome State Fault Refusal :=
  s.vectorWord t 0x20 o "VADD" (fun md a b _ => fpAdd md a b)
def execVsub (t : TorIdx) (o : VOp) (s : State) : Host.Outcome State Fault Refusal :=
  s.vectorWord t 0x21 o "VSUB" (fun md a b _ => fpSub md a b)
def execVmul (t : TorIdx) (o : VOp) (s : State) : Host.Outcome State Fault Refusal :=
  s.vectorWord t 0x22 o "VMUL" (fun md a b _ => fpMul md a b)
def execVfma (t : TorIdx) (o : VOp) (s : State) : Host.Outcome State Fault Refusal :=
  s.vectorWord t 0x23 o "VFMA" (fun md a b c => fpFma md a b c)
def execVmin (t : TorIdx) (o : VOp) (s : State) : Host.Outcome State Fault Refusal :=
  s.vectorWord t 0x24 o "VMIN" (fun md a b _ => fpMinMax md false a b)
def execVmax (t : TorIdx) (o : VOp) (s : State) : Host.Outcome State Fault Refusal :=
  s.vectorWord t 0x25 o "VMAX" (fun md a b _ => fpMinMax md true a b)
def execVdiv (t : TorIdx) (o : VOp) (s : State) : Host.Outcome State Fault Refusal :=
  s.vectorWord t 0x27 o "VDIV" (fun md a b _ => fpDiv md a b)
def execVsqrt (t : TorIdx) (o : VOp) (s : State) : Host.Outcome State Fault Refusal :=
  s.vectorWord t 0x28 o "VSQRT" (fun md a _ _ => fpSqrt md a)

/-- VRCP: fast only; STRICT = 1 is refused at load (R93, R125). -/
def execVrcp (t : TorIdx) (o : VOp) (s : State) : Host.Outcome State Fault Refusal :=
  if bit o.mode 3 then .refused (.reservedEncoding "VRCP")
  else s.vectorWord t 0x29 o "VRCP" (fun md a _ _ => { val := recipFast (md == .fast true) a })
/-- VRSQ: fast only. -/
def execVrsq (t : TorIdx) (o : VOp) (s : State) : Host.Outcome State Fault Refusal :=
  if bit o.mode 3 then .refused (.reservedEncoding "VRSQ")
  else s.vectorWord t 0x2A o "VRSQ" (fun md a _ _ => { val := rsqrtFast (md == .fast true) a })

/-- VCVT: SUB 0 FP32 → INT32, 1 INT32 → FP32; 2 and 3 reserved. -/
def execVcvt (t : TorIdx) (o : VOp) (s : State) : Host.Outcome State Fault Refusal :=
  if 2 ≤ o.sub.toNat ∨ ¬ vmodeOk o.mode then .refused (.reservedEncoding "VCVT")
  else .next (s.vector t 0x2B o (fun md a _ _ => if o.sub = 0 then fpToInt md a else intToFp md a.toInt))

/-- VCMP: one bit for each active lane into PD. In strict mode a signalling NaN, or under an ordering predicate a quiet
one, touches the invalid flag: the first always, the second as IEEE 754 leaves it (a free bit,
notes/assumptions/2.md). -/
def execVcmp (t : TorIdx) (o : VCmpOp) (s : State) : Host.Outcome State Fault Refusal :=
  if o.pd = 0 ∨ ¬ vmodeOk o.mode then .refused (.reservedEncoding "VCMP")
  else
    match s.issuer t (encVcmp o) with
    | none => .next s
    | some c =>
      let r := s.tor t
      match vmode (s.pilot c) o.mode with
      | none => .next s
      | some md =>
        let act := r.lanes t o.pred o.pneg
        let a := r.readV t o.va.toNat
        let b := r.readV t o.vb.toNat
        let res := (List.range 32).map (fun j => (bit act j, fpCompare md o.cmp.toNat (vlane a j) (vlane b j)))
        let old := r.readP t o.pd.toNat
        let bits := res.zipIdx.foldl (fun (p : BitVec 32) q => if q.1.1 then setLane 1 p q.2 (BitVec.ofBool q.1.2.1) else p) old
        let sig := res.any (fun q => q.1 && q.2.2.2)
        let quiet := res.any (fun q => q.1 && q.2.2.1) && (o.cmp == 1 || o.cmp == 2)
        let (fl, s) : BitVec 5 × State :=
          if md.isFast then (0, s) else if sig then (flInvalid, s)
          else if quiet then (let (v, s) := s.takeFree 1; (if v = 1 then flInvalid else 0, s)) else (0, s)
        .next (s.issue t (encVcmp o) (fun _ r => ({ r with fpf := r.fpf ||| fl }).writeP o.pd.toNat bits))

/-- The fixed pairwise tree of VRED, level by level. -/
def redTree (md : FpMode) : Nat → List F32 → BitVec 5 → F32 × BitVec 5
  | 0, xs, fl => (xs.headD 0, fl)
  | n + 1, xs, fl =>
    let ps := (List.range (xs.length / 2)).map (fun i => fpAdd md (nth 0 xs (2 * i)) (nth 0 xs (2 * i + 1)))
    redTree md n (ps.map (·.val)) (ps.foldl (fun a p => a ||| p.flags) fl)

/-- VRED (R126): lane 0 of VD receives the sum of VA's active lanes; the other lanes keep their values. -/
def execVred (t : TorIdx) (o : VRedOp) (s : State) : Host.Outcome State Fault Refusal :=
  if ¬ vmodeOk o.mode then .refused (.reservedEncoding "VRED")
  else .next (s.issue t (encVred o) (fun c r =>
    match vmode (s.pilot c) o.mode with
    | none => r
    | some md =>
      let act := r.lanes t o.pred o.pneg
      let a := r.readV t o.va.toNat
      let q := redTree md 5 ((List.range 32).map (fun j => if bit act j then vlane a j else 0)) 0
      ({ r with fpf := r.fpf ||| q.2 }).writeV o.vd.toNat (setLane 32 (r.readV t o.vd.toNat) 0 q.1)))

/-- One draw of the counter generator for a lane: index S[SIDX] + j (R97, R126). -/
def State.draw (s : State) (c : CtxIdx) (r : Tor) (t : TorIdx) (desc sidx dlane j : Nat) : BitVec 32 :=
  let x := s.ctx c
  match x.image with
  | some im => kcg im.seed x.step (im.desc desc).tensorId (r.readS t sidx + BitVec.ofNat 64 j) dlane
  | none => 0

/-- VDROP (R126). -/
def execVdrop (t : TorIdx) (o : VDropOp) (s : State) : Host.Outcome State Fault Refusal :=
  if ¬ vmodeOk o.mode then .refused (.reservedEncoding "VDROP")
  else .next (s.issue t (encVdrop o) (fun c r =>
    match vmode (s.pilot c) o.mode with
    | none => r
    | some md =>
      let a := r.readV t o.va.toNat
      let thr := (r.readS t o.sthr.toNat).setWidth 32
      r.vlanes t (r.lanes t o.pred o.pneg) o.vd.toNat (fun j =>
        if thr.toNat ≤ (s.draw c r t o.desc.toNat o.sidx.toNat o.dlane.toNat j).toNat then fpMul md (vlane a j) o.factor
        else { val := 0 })))

/-- VRAND (R126). -/
def execVrand (t : TorIdx) (o : VRandOp) (s : State) : Host.Outcome State Fault Refusal :=
  .next (s.issue t (encVrand o) (fun c r => r.vlanes t (r.lanes t o.pred o.pneg) o.vd.toNat (fun j =>
    { val := uniformOf (s.draw c r t o.desc.toNat o.sidx.toNat o.dlane.toNat j) })))

/-- VFPF (R126): copies the flag word, and clears it when CLEAR = 1. -/
def execVfpf (t : TorIdx) (sd : BitVec 4) (clear : Bool) (s : State) : Host.Outcome State Fault Refusal :=
  .next (s.issue t (encVfpf sd clear) (fun _ r => ({ r with fpf := if clear then 0 else r.fpf }).writeS sd.toNat (r.fpf.setWidth 64)))

/-- VBCAST: every active lane of VD takes S[SA][31:0]. -/
def execVbcast (t : TorIdx) (pred : BitVec 3) (pneg : Bool) (vd : BitVec 5) (sa : BitVec 4) (s : State) :
    Host.Outcome State Fault Refusal :=
  .next (s.issue t (encVbcast pred pneg vd sa) (fun _ r =>
    r.vlanes t (r.lanes t pred pneg) vd.toNat (fun _ => { val := (r.readS t sa.toNat).setWidth 32 })))

/-! ## The tor store (R100, R129) -/

/-- The program data area, 0x0_0000 … 0x3_FFFF. -/
def progBytes : Int := 0x40000

/-- The address of VLD and VST: S[SBASE] + OFFSET; none where R129 stops the tor. -/
def vaddr (r : Tor) (t : TorIdx) (o : VMemOp) : Option Nat :=
  let a := (r.readS t o.sbase.toNat).toInt + (o.offset.toNat : Int)
  if 0 ≤ a ∧ a + 128 ≤ progBytes ∧ a % 128 = 0 then some a.toNat else none

/-- Counts the corrected tor-store words (R100). -/
def Tor.noteEcc (r : Tor) (ecc : EccObs) : Tor := { r with corrected := BitVec.ofNat 8 (min 255 (r.corrected.toNat + ecc.corrected)) }

/-- A tor-store access whose word cannot be corrected fails its work item with TOR_ECC (R100, R110). -/
def State.failEcc (s : State) (c : CtxIdx) (im : Sched) (t : TorIdx) : State := (s.failWord c im t 0x08).torFailure t

/-- VLD (R126). The word waits for a tor-store load of its range (R131) or a drain to it. An uncorrectable word leaves VD
unchanged. -/
def execVld (t : TorIdx) (o : VMemOp) (ecc : EccObs) (s : State) : Host.Outcome State Fault Refusal :=
  .next (s.issueWide t (encVmem 0x30 o) (fun c im =>
    let r := s.tor t
    match vaddr r t o with
    | none => s.stopTor c im t
    | some a =>
      if s.rangePending c t a (a + 128) then s
      else if !ecc.bad.isEmpty then ((s.setTor t (r.noteEcc ecc)).failEcc c im t).pcNext t
      else
        let v : BitVec 1024 := ofLe 1024 (memBytes r.store a 128)
        let old := r.readV t o.v.toNat
        let act := r.lanes t o.pred o.pneg
        let new := packLanes 1024 32 ((List.range 32).map (fun j => if bit act j then vlane v j else vlane old j))
        s.setTor t ((r.noteEcc ecc).writeV o.v.toNat new).next))

/-- The 64-bit words of the 16 that a mask of lanes writes in part: a write of one reads it first (R100). -/
def partWords (act : BitVec 32) : List Nat := (List.range 16).filter (fun j => bit act (2 * j) != bit act (2 * j + 1))

/-- Stores the active lanes of a register but those of the words in `bad`. -/
def storeLanes (m : Memory) (a : Nat) (v : BitVec 1024) (act : BitVec 32) (bad : List Nat) : Memory :=
  (List.range 32).foldl (fun m j =>
    if bit act j && !bad.contains (j / 2) then memSetBytes m (a + 4 * j) (leBytes 4 (vlane v j)) else m) m

/-- VST (R126, R100). A word written in part whose read cannot be corrected stays as it is, and fails the work. -/
def execVst (t : TorIdx) (o : VMemOp) (ecc : EccObs) (s : State) : Host.Outcome State Fault Refusal :=
  .next (s.issueWide t (encVmem 0x31 o) (fun c im =>
    let r := s.tor t
    match vaddr r t o with
    | none => s.stopTor c im t
    | some a =>
      if s.rangePending c t a (a + 128) then s
      else
        let act := r.lanes t o.pred o.pneg
        let bad := (partWords act).filter ecc.bad.contains
        let r := { r with store := storeLanes r.store a (r.readV t o.v.toNat) act bad }
        let r := if (partWords act).isEmpty then r else r.noteEcc ecc
        let s := s.setTor t r
        (if bad.isEmpty then s else s.failEcc c im t).pcNext t))

end Sys2Proof.Machine
end

