-- ==== Sys2Proof/Machine/Convert.lean ====
section
/-! DEFINITION. The conversion words QNT, ROTQ, DEQ (R128), the token words (R133), the loader and drain words LDQ and
DRQ (R130, R131), HAND (R140) and CAIRN (R141). -/

namespace Sys2Proof.Machine
open Sys2Proof

/-! ## Writing converted blocks -/

/-- Writes one block of a tensor through a tor's drain: bursts, then the scree slot (R51, R391). True when the slot's
burst is poisoned, which fails the writer; in a CLASS 0, 1 or 2 tensor it raises STATE_POISON besides (R171). -/
def State.writeBlock (s : State) (t : TorIdx) (d : Desc) (b : OutBlock) : Bool × State :=
  let at' (j : Nat) : Nat := if d.isScaled && j != 0 then d.planeAddr j b.seq else d.burstAddr b.seq j
  let s := b.bursts.zipIdx.foldl (fun s p => State.portWrite s t (at' p.2) p.1) s
  if d.cap = 0 then (false, s)
  else
    let a := d.screeAddr b.seq
    match s.mergeSlot a (d.screeWord b.seq) b.scree with
    | (.poison, s) => (true, if d.cls ≤ 2 then s.statePoison else s)
    | (.uncorrectable _, s) => (false, s)
    | (_, s) =>
      let q := mapGet [] s.mem.returnBuf (ridgeOf t)
      match (s.readBurst a).data? with
      | none => (false, s)
      | some v =>
        let q := q.map (fun e => if e.1 = a then (a, v) else e)
        (false, { s with mem := { s.mem with returnBuf := mapSet [] s.mem.returnBuf (ridgeOf t) q } })

/-- A tor of the ridge whose port is a tensor's HOME: what that port writes goes through its write port (R77, R173). -/
def Desc.homePort (d : Desc) : TorIdx := BitVec.ofNat 13 (64 * d.home)

/-- Writes blocks in order; true when any met poison. -/
def State.writeBlocks (s : State) (t : TorIdx) (d : Desc) (bs : List OutBlock) : Bool × State :=
  bs.foldl (fun p b => let q := p.2.writeBlock t d b; (p.1 || q.1, q.2)) (false, s)

/-- A quantised block as the drain stores it. -/
def QBlock.out (q : QBlock) (seq : Nat) : OutBlock := { seq := seq, bursts := q.bursts, scree := q.scree }

/-! ## QNT, ROTQ, DEQ -/

/-- The tor-store bytes that a conversion word uses: FP32 values, block after block. -/
def convExtent (d : Desc) (o : ConvOp) : Nat := 4 * d.blockRows * d.blockCols * o.count.toNat

/-- R129 on a conversion word. -/
def convAddrOk (d : Desc) (o : ConvOp) : Bool :=
  o.tsaddr.toNat % 32 == 0 && decide (o.tsaddr.toNat < progBytes) && decide ((o.tsaddr.toNat + convExtent d o : Nat) ≤ progBytes)

/-- The FP32 values of block i on the tor-store side. -/
def storeValues (r : Tor) (d : Desc) (o : ConvOp) (i : Nat) : List F32 :=
  let n := d.blockRows * d.blockCols
  (List.range n).map (fun j => ofLe 32 (memBytes r.store (o.tsaddr.toNat + 4 * (n * i + j)) 4))

/-- Counts conversion blocks for the step record (R66, R128). -/
def Context.countConv (x : Context) (qs : List QBlock) : Context :=
  { x with counts := { x.counts with conv := qs.foldl Counts.add x.counts.conv } }

/-- Ends a word whose scree slot met poison, or one that wrote all its blocks. -/
def State.endWrite (s : State) (c : CtxIdx) (im : Sched) (t : TorIdx) (poison : Bool) : State :=
  (if poison then s.failWord c im t 0x0C else s).pcNext t

/-- Stores converted blocks through a port and counts them (R66, R128). -/
def State.storeConverted (s : State) (c : CtxIdx) (im : Sched) (t port : TorIdx) (d : Desc) (qs : List (Nat × QBlock)) : State :=
  let s := s.setCtx c ((s.ctx c).countConv (qs.map (·.2)))
  let (poison, s) := s.writeBlocks port d (qs.map (fun q => q.2.out q.1))
  s.endWrite c im t poison

/-- The blocks of a QNT, by sequence index; none where an input is a NaN (R68). -/
def State.qntBlocks (s : State) (c : CtxIdx) (im : Sched) (t : TorIdx) (o : ConvOp) : Option (List (Nat × QBlock)) :=
  let d := im.desc o.desc.toNat
  let ceil := (s.ctx c).ceilOf im o.desc.toNat
  let bs := (List.range o.count.toNat).map (fun i => (o.seq.toNat + i, (storeValues (s.tor t) d o i).map fpDy))
  if bs.any (fun b => b.2.zipIdx.any (fun v => v.1.isNone && d.validAt b.1 v.2)) then none
  else some (bs.map (fun b => (b.1, quantBlock d ceil b.1 0 (s.pilot c) (maskBlock d b.1 (b.2.map (·.getD (0, 0)))))))

/-- The blocks of a ROTQ: whole groups rotated at the port of DESC's HOME, then quantised; none where an input is not
finite (R68). -/
def State.rotqBlocks (s : State) (c : CtxIdx) (im : Sched) (t : TorIdx) (o : ConvOp) : Option (List (Nat × QBlock)) :=
  let d := im.desc o.desc.toNat
  let r := s.tor t
  let ceil := (s.ctx c).ceilOf im o.desc.toNat
  let raw (b : Nat) : List F32 := if o.seq.toNat ≤ b ∧ b < o.seq.toNat + o.count.toNat then storeValues r d o (b - o.seq.toNat) else []
  let seqs := (List.range o.count.toNat).map (o.seq.toNat + ·)
  let inside (b i : Nat) : Bool :=
    decide ((b / d.gridCols) * d.blockRows + i / d.blockCols < d.rows) && decide ((b % d.gridCols) * d.blockCols + i % d.blockCols < d.cols)
  if seqs.any (fun b => (raw b).zipIdx.any (fun v => inside b v.2 && !f32Finite v.1)) then none
  else
    let groups := (seqs.map (groupOf d)).eraseDups
    some (groups.flatMap (fun g =>
      let bs := groupBlocks d g
      let vals := bs.map (fun b => edgeZero d b (0, 0) ((List.range (d.blockRows * d.blockCols)).map (fun i => (fpDy (nth 0 (raw b) i)).getD (0, 0))))
      (bs.zip (rotateGroup d vals)).map (fun p => (p.1, quantBlock d ceil p.1 0 (s.pilot c) (maskBlock d p.1 p.2)))))

/-- The shared course of QNT and ROTQ: a bad address stops the tor (R129), a queued tor-store load of the range, or a
drain to it, makes the word wait (R131), an uncorrectable word or a bad input fails it and nothing is written. -/
def State.convWord (s : State) (t : TorIdx) (op : Byte) (o : ConvOp) (ecc : EccObs) (port : Desc → TorIdx)
    (blocks : State → CtxIdx → Sched → TorIdx → ConvOp → Option (List (Nat × QBlock))) : State :=
  s.issueWide t (encConv op o) (fun c im =>
    let d := im.desc o.desc.toNat
    let a := o.tsaddr.toNat
    if !convAddrOk d o then s.stopTor c im t
    else if s.rangePending c t a (a + convExtent d o) then s
    else
      let s := s.setTor t ((s.tor t).noteEcc ecc)
      if !ecc.bad.isEmpty then (s.failEcc c im t).pcNext t
      else match blocks s c im t o with
      | none => (s.failWord c im t 0x07).pcNext t
      | some qs => s.storeConverted c im t (port d) d qs)

/-- QNT (R128): the tor's quantiser over the blocks SEQ … SEQ + COUNT − 1. -/
def execQnt (t : TorIdx) (o : ConvOp) (ecc : EccObs) (s : State) : Host.Outcome State Fault Refusal :=
  .next (s.convWord t 0x50 o ecc (fun _ => t) State.qntBlocks)

/-- ROTQ (R128): the port of DESC's HOME rotates, quantises and writes. -/
def execRotq (t : TorIdx) (o : ConvOp) (ecc : EccObs) (s : State) : Host.Outcome State Fault Refusal :=
  .next (s.convWord t 0x52 o ecc Desc.homePort State.rotqBlocks)

/-- One block for DEQ: its base bursts, then, unless it is a zero block (R48), its planes and an escaping block's scree
entries. The second component: poison was met. -/
def State.deqBlock (s : State) (c : CtxIdx) (im : Sched) (desc : Nat) (planes seq : Nat) : Option Block × Bool × State :=
  let x := s.ctx c
  let d := im.desc desc
  let off := s.liveOffset x im desc seq
  let base := d.baseBursts seq off
  let input : Option (List (BitVec 272)) := if d.cls = 6 then (base.mapM (x.belayBurst im)) else none
  let (bs, s, poison) : Option (List (BitVec 272)) × State × Bool := match input with
    | some bs => (some bs, s, false)
    | none => s.readBursts 1 base
  match bs with
  | none => (none, poison, s)
  | some bs =>
    let b0 := nth 0 bs 0
    let n := if d.isK4n ∧ flZero (burstFlags b0) then 0 else planes
    match s.readBursts 1 (d.planeBursts n seq off) with
    | (none, s, poison) => (none, poison, s)
    | (some ps, s, _) =>
    let escapes := d.isK4n && d.cap != 0 && !flZero (burstFlags b0) && flEscape (burstFlags b0)
    let blk : Block := { base := b0, p1 := nth 0 ps 0, p2 := nth 0 ps 1, planes := n,
                         scree := if d.isScaled || d.isInt then []
                           else bs.flatMap (fun b => (List.range 8).map (fun i => b.extractLsb' (32 * i) 32)) }
    if !escapes then (some blk, false, s)
    else match s.readBursts 3 [d.screeAddr seq + off] with
      | (some (e :: _), s, _) =>
        (some { blk with scree := (List.range d.cap).map (fun k => e.extractLsb' (32 * (d.screeWord seq + k)) 32) }, false, s)
      | (_, s, poison) => (none, poison, s)

/-- The FP32 values of a decoded block (R89); `scree` holds the words of an INT32 or FP32 block. -/
def deqValues (d : Desc) (pilot : Bool) (blk : Block) : List F32 :=
  if d.isScaled || d.isInt then
    (List.range (d.blockRows * d.blockCols)).map (fun i => let v := blockValue d blk i; fpOfInt pilot v.1 v.2)
  else if d.format = 6 then blk.scree.map (fun w => fpOfInt pilot w.toInt 0)
  else blk.scree

/-- Decodes blocks i … of a DEQ into the tor store. The last component: the causes met, none when all is well. -/
def State.deqBlocks (s : State) (c : CtxIdx) (im : Sched) (t : TorIdx) (o : ConvOp) : Nat → Nat → List Nat × State
  | 0, _ => ([], s)
  | n + 1, i =>
    let d := im.desc o.desc.toNat
    let seq := o.seq.toNat + i
    match s.deqBlock c im o.desc.toNat o.pl.toNat seq with
    | (none, poison, s) => (if poison then [0x0C] else [], if poison && decide (d.cls ≤ 2) then s.statePoison else s)
    | (some blk, _, s) =>
      match fmtCauses d blk seq true with
      | [] =>
        let r := s.tor t
        let bytes := (deqValues d (s.pilot c) blk).flatMap (leBytes 4)
        (s.setTor t { r with store := memSetBytes r.store (o.tsaddr.toNat + 4 * d.blockRows * d.blockCols * i) bytes }).deqBlocks c im t o n (i + 1)
      | cs => (cs, s)

/-- The planes a DEQ reads of a block: none of a zero block (R48). -/
def State.deqPlanes (s : State) (x : Context) (im : Sched) (o : ConvOp) (seq : Nat) : Nat :=
  let d := im.desc o.desc.toNat
  match (s.readBurst (d.burstAddr seq 0 + s.liveOffset x im o.desc.toNat seq)).data? with
  | some b => if d.isK4n ∧ flZero (burstFlags b) then 0 else o.pl.toNat
  | none => o.pl.toNat

/-- DEQ (R128): reads, checks (R58), decodes. Planes whose valid bit is clear are fetched once, and the word waits for
them (R151). -/
def execDeq (t : TorIdx) (o : ConvOp) (s : State) : Host.Outcome State Fault Refusal :=
  if o.pl = 3 then .refused (.reservedEncoding "DEQ")
  else
  .next (match s.issuer t (encConv 0x51 o) with
    | none => s
    | some c =>
      match (s.ctx c).image with
      | none => s
      | some im =>
        let r := s.tor t
        let d := im.desc o.desc.toNat
        let a := o.tsaddr.toNat
        if r.altWait || (d.cls == 6 && (s.ctx c).replayWaits (im.workOfWord t.toNat r.pc.toNat)) then s
        else if !convAddrOk d o then s.stopTor c im t
        else if s.rangePending c t a (a + convExtent d o) then s
        else
          let x := s.ctx c
          let seqs := (List.range o.count.toNat).map (o.seq.toNat + ·)
          let missing := seqs.filter (fun q => !(s.missingPlanes x im o.desc.toNat q (s.deqPlanes x im o q)).isEmpty)
          if !missing.isEmpty then
            if r.deqWait then s
            else missing.foldl (fun s q => s.fetchPlanes c im o.desc.toNat q o.pl.toNat) (s.setTor t { r with deqWait := true })
          else
            let s := s.setTor t { r with deqWait := false }
            match s.deqBlocks c im t o o.count.toNat 0 with
            | ([], s) => s.pcNext t
            | (k :: ks, s) => (s.failItem c (im.workOfWord t.toNat (s.tor t).pc.toNat) k 7 t.toNat ks.length).pcNext t)

/-! ## Tokens (R133) -/

/-- WAIT: issue goes on once the counter has reached COUNT. -/
def execWait (t : TorIdx) (token : BitVec 17) (count : BitVec 16) (remote : Bool) (s : State) :
    Host.Outcome State Fault Refusal :=
  .next (s.issueWide t (encWait token count remote) (fun c im =>
    if count ≤ mapGet 0 (s.ctx c).tokens token.toNat then s.completeWait c im t token.toNat count.toNat remote
    else s.setTor t { s.tor t with state := 2, waitToken := some (token.toNat, count.toNat, remote) }))

/-- SIGNAL: takes effect behind the tor's earlier words (R134). A local SIGNAL has SYSADDR = 0. -/
def execSignal (t : TorIdx) (token : BitVec 17) (sysaddr : BitVec 15) (remote : Bool) (inc : BitVec 16) (s : State) :
    Host.Outcome State Fault Refusal :=
  if !remote ∧ sysaddr ≠ 0 then .refused (.reservedEncoding "SIGNAL")
  else .next (s.issueWide t (encSignal token sysaddr remote inc) (fun c _ =>
    ((s.pushLater c t (.signal token.toNat sysaddr remote inc.toNat)).pcNext t).settleLater c t))

/-! ## LDQ, DRQ, HAND, CAIRN -/

/-- Queues a load stream for the loader. -/
def State.queueLoad (s : State) (c : CtxIdx) (t : TorIdx) (stream : Nat) (pre : Bool) : State :=
  let r := s.tor t
  let ring := match (s.ctx c).image with | some im => (im.load stream).target != 0 | none => false
  let l : LoadReq := { stream := stream, owner := r.tileSeq, uid := r.loadSeq, pre := pre, word := r.wordAt, ring := ring,
                       dyn := r.rung != 0 }
  let r := { r with loads := r.loads ++ [l], loadSeq := r.loadSeq + 1 }
  if !pre then (s.setTor t r.next).progress c t
  else
    let r := { r with preLeft := r.preLeft - 1, preDone := r.preDone + 1 }
    if r.preLeft = 0 ∧ r.released then (s.setTor t r).leaveCairn c t
    else (s.setTor t r).progress c t

/-- Whether a tor issues the PRE words of its CAIRN (R141). -/
def State.preIssuer (s : State) (t : TorIdx) : Bool :=
  let r := s.tor t
  !r.stopped && r.issuesPre

/-- LDQ: the queue holds 64 entries; a full queue stalls the word. -/
def execLdq (t : TorIdx) (stream : BitVec 24) (s : State) : Host.Outcome State Fault Refusal :=
  .next (if 64 ≤ (s.tor t).loads.length then s
    else match s.runner t with
      | some c => if s.preIssuer t then (if s.asks c t (encStream 0x70 stream) then s.queueLoad c t stream.toNat true else s)
                  else s.issueWide t (encStream 0x70 stream) (fun c _ => s.queueLoad c t stream.toNat false)
      | none => s)

/-- Stores the bursts of a stream's blocks unchanged, i blocks done. -/
def State.drqBlocks (s : State) (t : TorIdx) (d : Desc) (e : StreamEntry) : Nat → Nat → State
  | 0, _ => s
  | n + 1, i =>
    let r := s.tor t
    let bs := (List.range d.blockBursts).map (fun j =>
      mkBurst 0 0 (ofLe 256 (memBytes r.store (e.tsaddr + 32 * (d.blockBursts * i + j)) 32)))
    let s := bs.zipIdx.foldl (fun s p => State.portWrite s t (d.burstAddr (e.seqAt i) p.2) p.1) s
    s.drqBlocks t d e n (i + 1)

/-- DRQ: a raw store stream. A word of the tor store that cannot be corrected fails it, and nothing is written (R100). -/
def execDrq (t : TorIdx) (o : StoreOp) (s : State) : Host.Outcome State Fault Refusal :=
  .next (s.issueWide t (encStream 0x71 o.stream) (fun c im =>
    let e := im.load o.stream.toNat
    let d := im.desc e.desc
    if s.rangePending c t e.tsaddr (e.tsaddr + 32 * d.blockBursts * e.count) then s
    else
      let s := s.setTor t ((s.tor t).noteEcc o.ecc)
      if !o.ecc.bad.isEmpty then (s.failEcc c im t).pcNext t else (s.drqBlocks t d e e.count 0).pcNext t))

/-- HAND (R140): hands the tile's blocks to the NI behind the earlier words. -/
def execHand (t : TorIdx) (desc : BitVec 16) (tile : BitVec 20) (chunk : BitVec 24) (slot : BitVec 4) (s : State) :
    Host.Outcome State Fault Refusal :=
  .next (s.issueWide t (encHand desc tile chunk slot) (fun c _ =>
    ((s.pushLater c t (.hand desc.toNat tile.toNat chunk.toNat slot.toNat (s.tor t).pc.toNat)).pcNext t).settleLater c t))

/-- CAIRN (R141): the step report goes out once every earlier word is complete; the PRE words follow, and the tor waits
for the release of the step. -/
def execCairn (t : TorIdx) (pre : BitVec 12) (s : State) : Host.Outcome State Fault Refusal :=
  .next (s.issueWide t (encCairn pre) (fun c _ =>
    let s := s.pushLater c t (.stepReport pre.toNat)
    (s.setTor t { s.tor t with state := 4 }).progress c t))

end Sys2Proof.Machine
end

