-- ==== Sys2Proof/Machine/Array.lean ====
section
/-! DEFINITION. The cube array: tile words and the pass queue (R122, R123), pass start with its delay check (R102, R124),
waves (R99 to R101, R103 to R105, R79 to R87), pass end with the residue check and the drain's conversion (R87, R89,
R90, R132, R143), and the release of a drain entry (R132, R77, R390). -/

namespace Sys2Proof.Machine
open Sys2Proof

/-! ## Tile words and the pass queue -/

/-- Passes in the queue: the one in the array and those behind it. A pass whose last rows finish or drain in the other
register set has left the queue. -/
def Tor.queued (r : Tor) : Nat := r.passes.length + (if r.pass.isSome then 1 else 0)

/-- A tile word enters the queue, which holds one pass in the array and eight behind it (R123). -/
def State.tileWord (s : State) (t : TorIdx) (conv : Bool) (o : TileOp) : State :=
  s.issueWide t (encTile (if conv then 0x11 else 0x10) o) (fun c im =>
    let r := s.tor t
    if 9 ≤ r.queued then s
    else
      let q : PassReq := { conv := conv, op := o, rung := (im.drain t.toNat o.drain.toNat).rung, uid := r.tileSeq }
      (s.setTor t ({ r with passes := r.passes ++ [q], tileSeq := r.tileSeq + 1 } : Tor).next).progress c t)

/-- TMM: a matrix tile pass. APL and BPL are 0 … 2. -/
def execTmm (t : TorIdx) (o : TileOp) (s : State) : Host.Outcome State Fault Refusal :=
  if o.apl = 3 ∨ o.bpl = 3 then .refused (.reservedEncoding "TMM") else .next (s.tileWord t false o)

/-- TCONV: a sliding convolution tile pass (R103). -/
def execTconv (t : TorIdx) (o : TileOp) (s : State) : Host.Outcome State Fault Refusal :=
  if o.apl = 3 ∨ o.bpl = 3 then .refused (.reservedEncoding "TCONV") else .next (s.tileWord t true o)

/-! ## Failures -/

/-- The order of precedence of R102 and R88. -/
def causeRank (c : Nat) : Nat :=
  if c = 0x0A then 0 else if c = 0x09 then 1 else if c = 0x08 then 2 else if c = 0x07 then 100 else 3 + c

/-- Fails a pass of the group with the first of several causes, each with its tor and physical row; the other causes are
secondary (R88). Every row that detected a residue or tag failure counts it, and every tor an ECC or skew failure (R108,
R110). -/
def State.failWith (s : State) (c : CtxIdx) (im : Sched) (t : TorIdx) (old : Bool) (cs : List (TorIdx × Nat × Nat)) : State :=
  match cs.mergeSort (fun a b => decide (causeRank a.2.1 ≤ causeRank b.2.1)) with
  | [] => s
  | (u, z, row) :: _ =>
    let kinds := (cs.map (fun e => e.2.1)).eraseDups
    match (s.tor u).slot old with
    | none => s
    | some p =>
      let s := s.failPass c im u old p z row (kinds.length - 1)
      let rows := ((cs.filter (fun e => (e.2.1 == 0x01 || e.2.1 == 0x09) && decide (e.2.2 < 5))).map (fun e => (e.1, e.2.2))).eraseDups
      let s := rows.foldl (fun s e => s.rowFailure e.1 e.2) s
      let tors := ((cs.filter (fun e => e.2.1 == 0x08 || e.2.1 == 0x0A)).map (fun e => (e.1, e.2.1))).eraseDups
      let s := tors.foldl (fun s e => s.torFailure e.1) s
      (s.group t).foldl (fun s v => s.progress c v) s

/-! ## Pass start -/

/-- The delays a tor's logical rows take: phys(l), and five more in a bottom tor of a fused group (R101, R112). -/
def State.rowDelays (s : State) (t : TorIdx) : List Nat :=
  (List.range 4).map (fun l => physRow (s.tor t).rowOut l + (if s.fused t ∧ 2 ≤ quadrant t then 5 else 0))

/-- A descriptor with another ceiling (R121). -/
def Desc.withCeiling (d : Desc) (c : Nat) : Desc := (d &&& ~~~(BitVec.ofNat 512 (255 * 2 ^ 48))) ||| BitVec.ofNat 512 (c % 256 * 2 ^ 48)

def Pass.te (p : Pass) : TileEntry := p.tile
def Pass.ad (p : Pass) : Desc := p.aDesc
def Pass.bd (p : Pass) : Desc := p.bDesc
def Pass.od (p : Pass) : Desc := p.outDesc

/-- K-steps of a pass (R106). -/
def Pass.steps (p : Pass) : Nat := if p.req.conv then ceilDiv p.te.klen 4 * max 1 p.te.taps else ceilDiv p.te.klen 4

/-- Passes of Table 05-2. -/
def Pass.digitPasses (p : Pass) : Nat :=
  if p.req.op.dside then passCount p.aDesc p.req.op.apl.toNat else passCount p.bDesc p.req.op.bpl.toNat

/-- P × S, and the waves with the fill of the group, which the next pass's own waves overlap (R106). -/
def Pass.waves (p : Pass) : Nat := p.digitPasses * p.steps
def State.totalWaves (s : State) (t : TorIdx) (p : Pass) : Nat :=
  p.waves + ((s.group t).flatMap s.rowDelays).foldl max 0

/-- A pass with what it latches at its start (R83, R121). -/
def State.newPass (s : State) (c : CtxIdx) (im : Sched) (t : TorIdx) (q : PassReq) : Pass :=
  let x := s.ctx c
  let e := im.tile t.toNat q.op.tile.toNat
  let dr := im.drain t.toNat q.op.drain.toNat
  let live (d : Nat) : Desc := (im.desc d).withCeiling (x.ceilOf im d)
  { req := q, aDesc := live e.aDesc, bDesc := live e.bDesc, outDesc := live dr.outDesc, drain := dr, tile := e }

/-- A changed bit of a delay copy, the cube row's or the row buffer's. -/
def Tor.upsetDelay (cube : Bool) (r : Tor) (u : DelayUpset) : Tor :=
  let flip (l : List (BitVec 4)) : List (BitVec 4) := setNth l u.row.toNat (nth 0 l u.row.toNat ^^^ (1 <<< u.bit.toNat))
  if cube then { r with cubeDelays := flip r.cubeDelays } else { r with bufDelays := flip r.bufDelays }

/-- Changed bits of delay copies in a group's tors. -/
def State.upsetDelays (s : State) (g : List TorIdx) (cube : Bool) (us : List DelayUpset) : State :=
  us.foldl (fun s u => match g[u.tor.toNat]? with
    | some v => s.setTor v ((s.tor v).upsetDelay cube u)
    | none => s) s

/-- Logical row l's copies agree with each other and with the repair map (R102). -/
def Tor.delayOk (r : Tor) (l : Nat) : Bool :=
  (nth 0 r.bufDelays l).toNat == physRow r.rowOut l && (nth 0 r.cubeDelays l).toNat == physRow r.rowOut l

/-- A tor can take another pass: a register set is free, and row 0 has taken every wave of the pass before (R104, R106). -/
def Tor.roomForPass (r : Tor) : Bool :=
  match r.pass with
  | none => true
  | some p => r.tail.isNone && decide (p.waves ≤ p.wave)

/-- The same tile word heads the queue of every tor of a group (R124). -/
def State.headsAgree (s : State) (t : TorIdx) : Bool :=
  (s.group t).all (fun u => (s.tor u).passes.head?.isSome && (s.tor u).passes.head?.map (·.op) == (s.tor t).passes.head?.map (·.op))

/-- The head of a tor's queue enters its array; the pass before it goes on in the other register set. -/
def State.enterPass (s : State) (c : CtxIdx) (im : Sched) (u : TorIdx) : State :=
  let r := s.tor u
  match r.passes with
  | q :: rest => s.setTor u { r with passes := rest, pass := some (s.newPass c im u q), tail := if r.pass.isSome then r.pass else r.tail }
  | [] => s

/-- TILE_PASS_START (R102, R124): every tor of the group has issued the pass and has room for it; the two copies of each
row's delay, with the bits that have changed, are compared with each other and with the repair map. A fused pass starts at
its lead. -/
def execTilePassStart (t : TorIdx) (bufDelays cubeDelays : List DelayUpset) (s : State) : Host.Outcome State Fault Refusal :=
  .next (match s.runner t with
    | none => s
    | some c =>
      match (s.ctx c).image with
      | none => s
      | some im =>
        let g := s.group t
        if s.leadOf t ≠ t ∨ ¬ (s.headsAgree t ∧ g.all (fun u => (s.tor u).roomForPass)) then s
        else
          let s := (s.upsetDelays g false bufDelays).upsetDelays g true cubeDelays
          let s := g.foldl (fun s u => s.enterPass c im u) s
          let bad := g.flatMap (fun u => ((List.range 4).filter (fun l => !(s.tor u).delayOk l)).map (fun l =>
            (u, 0x0A, physRow (s.tor u).rowOut l)))
          if bad.isEmpty then g.foldl (fun s u => s.progress c u) s else s.failWith c im t false bad)

/-! ## Operand slices -/

/-- Where the c-th K index of a K-step of an A row stands in the stored A tensor; none beyond the reduction. -/
def aCoord (e : TileEntry) (conv xpose : Bool) (row k c : Nat) : Option (Nat × Nat) :=
  if conv then
    let ch := 4 * (k / max 1 e.taps) + c
    if ch < e.klen then some (e.m0 + row + k % max 1 e.taps, e.k0 + ch) else none
  else if 4 * k + c < e.klen then
    (if xpose then some (e.k0 + 4 * k + c, e.m0 + row) else some (e.m0 + row, e.k0 + 4 * k + c))
  else none

/-- The same for a B column. -/
def bCoord (e : TileEntry) (conv transb : Bool) (col k c : Nat) : Option (Nat × Nat) :=
  if conv then
    let ch := 4 * (k / max 1 e.taps) + c
    let r := e.k0 * max 1 e.taps + 4 * k + c
    if ch < e.klen then some (if transb then (e.n0 + col, r) else (r, e.n0 + col)) else none
  else if 4 * k + c < e.klen then
    (if transb then some (e.n0 + col, e.k0 + 4 * k + c) else some (e.k0 + 4 * k + c, e.n0 + col))
  else none

/-- The block that holds a stored element; none beyond the tensor's blocks, where elements are zero. -/
def Desc.blockAt (d : Desc) (p : Option (Nat × Nat)) : Option Nat :=
  match p with
  | some (r, c) => if r / d.blockRows < d.gridRows ∧ c / d.blockCols < d.gridCols then some (d.seqOf r c) else none
  | none => none

/-- One row's or column's four K elements of a K-step. -/
structure Slice where
  seq : Nat := 0
  blk : Option Block := none
  elems : List Elem := []
  e : Int := 0
  q : Int := 0

/-- Takes a slice from the staging ring, with at most `planes` of the planes that were loaded (R81; DESIGN CHOICE,
notes/assumptions/146.md); none when its block has not arrived. Padding elements beyond the stored tensor count as zero
(R46, R86); the elements that a rotation group stores beyond the logical edge do not (R76). -/
def mkSlice (d : Desc) (ring : SMap Block) (digit : Bool) (planes : Nat) (pos : Nat → Option (Nat × Nat)) : Option Slice :=
  match d.blockAt (pos 0) with
  | none => some {}
  | some q =>
    match ring.find? (fun b => b.1 == q) with
    | none => none
    | some (_, b) =>
      let b := { b with planes := min b.planes planes }
      some { seq := q, blk := some b, e := blockE d b, q := formQ d b digit,
             elems := (List.range 4).map (fun c => match pos c with
               | some (r, cc) => if r < d.storedRows ∧ cc < d.storedCols then blockElem d b (d.posOf r cc) digit else .num 0
               | none => .num 0) }

def Slice.isZero (a : Slice) : Bool := match a.blk with | some b => flZero (burstFlags b.base) | none => true

/-! ## One wave of one tor -/

/-- An output element's registers. -/
structure Cell where
  seg : Int := 0
  segRes : Nat := 0
  exact : Int := 0
  res : Nat := 0
  deriving DecidableEq, Repr

def mod127 (x : Int) : Nat := (x.emod 127).toNat

/-- x · 2^s modulo 127 (R87). -/
def res127 (r : Nat) (s : Int) : Nat := r * 2 ^ (s.emod 7).toNat % 127

/-- An outlier product: its value, the residue it carries, and q_a + q_b. -/
structure OutProduct where
  val : Int
  res : Nat
  q : Int
  deriving DecidableEq, Repr

/-- One element's products of a K-step: the cube's sum and its residue, the outlier products, and whether a residue point
of the products disagreed. -/
structure Products where
  sum : Int := 0
  res : Nat := 0
  outs : List OutProduct := []
  bad : Bool := false
  deriving DecidableEq, Repr

/-- A w-bit value with the changed bits of a check point at K index k (R87). -/
def flipped (us : List Upset) (pt : CheckPoint) (k w : Nat) (v : Int) : Int :=
  us.foldl (fun v u => if u.point = pt ∧ u.k.toNat = k then (BitVec.ofInt w v ^^^ (1 <<< u.bit.toNat)).toInt else v) v

/-- The multipliers of one element: the residues of Table 05-5 at operand entry, at the multiplier, and at the outlier
multiplier, each compared with what the data path holds. Digit pass 0 alone forms outlier products. -/
def cellProducts (digA : Bool) (pz : Nat) (a b : Slice) (us : List Upset) : Products :=
  ((List.zip a.elems b.elems).zipIdx).foldl (fun (r : Products) ab =>
    let k := ab.2
    let outlier (x y q : Int) : Products :=
      if pz ≠ 0 then r
      else
        let z := flipped us .outlier k 32 (x * y)
        let rs := mod127 x * mod127 y % 127
        { r with outs := r.outs ++ [{ val := z, res := rs, q := q }], bad := r.bad || mod127 z != rs }
    match ab.1 with
    | (.num x, .num y) =>
      let dig := digitPart (if digA then x else y) pz
      let int := if digA then y else x
      let dig' := flipped us .entryDigit k 16 dig
      let int' := flipped us .entryInt k 16 int
      let rs := mod127 dig * mod127 int % 127
      let prod := flipped us .multiplier k 26 (dig' * int')
      { r with sum := r.sum + prod, res := (r.res + rs) % 127,
               bad := r.bad || mod127 dig' != mod127 dig || mod127 int' != mod127 int || mod127 prod != rs }
    | (.esc x, .num y) => outlier x y (135 + b.q)
    | (.num x, .esc y) => outlier x y (a.q + 135)
    | (.esc x, .esc y) => outlier x y 270) {}

/-- One element's wave (R82, R83, R85, R87): its registers, the causes met, the outlier products it needs. `fold` marks
the last K-step of the block pair: the segment end. -/
def cellStep (digA : Bool) (pz : Nat) (anchor : Int) (a b : Slice) (fold : Bool) (us : List Upset) (g : Cell) :
    Cell × List Nat × Nat :=
  let flip (v : Int) : Int := (us.foldl (fun (w : BitVec 36) u => if u.point = .segment then w ^^^ (1 <<< u.bit.toNat) else w)
    (BitVec.ofInt 36 v)).toInt
  if a.isZero || b.isZero then ({ g with seg := flip g.seg }, [], 0)
  else
    let z := cellProducts digA pz a b us
    let outs := z.outs
    let seg := flip (g.seg + z.sum)
    let segRes := (g.segRes + z.res) % 127
    let g := outs.foldl (fun (g : Cell) o =>
      let sh := a.e + b.e - o.q - anchor
      { g with exact := g.exact + o.val * 2 ^ sh.toNat, res := (g.res + res127 o.res sh) % 127 }) g
    let sp (q : Int) : Bool := decide (a.e + b.e - q - anchor < 0) || decide (104 < a.e + b.e - q - anchor)
    let spanBad := (fold && sp (a.q + b.q)) || outs.any (fun o => sp o.q)
    let resBad := z.bad || (fold && mod127 seg != segRes)
    let sh := a.e + b.e - a.q - b.q - anchor
    let g := if fold then
        { seg := 0, segRes := 0, exact := g.exact + seg * 2 ^ sh.toNat, res := (g.res + res127 segRes sh) % 127 }
      else { g with seg := seg, segRes := segRes }
    (g, (if resBad then [0x01] else []) ++ (if spanBad then [0x02] else []), outs.length)

/-- What one wave does to one pass in one tor: the pass, the causes that end it now with their physical rows, the products
each row needs, and the slices and blocks the wave presents: those of the row buffer and of the feeders (R98). -/
structure WaveRes where
  pass : Pass
  causes : List (Nat × Nat) := []
  needs : List Nat := [0, 0, 0, 0]
  rowBuffer : SMap (BitVec 64) := []
  feeders : SMap (SMap Block) := []

def Pass.cell (p : Pass) (k : Nat) : Cell :=
  { seg := mapGet 0 p.seg k, segRes := mapGet 0 p.segRes k, exact := mapGet 0 p.exact k, res := mapGet 0 p.res k }
def Pass.setCell (p : Pass) (k : Nat) (g : Cell) : Pass :=
  { p with seg := mapSet 0 p.seg k g.seg, segRes := mapSet 0 p.segRes k g.segRes, exact := mapSet 0 p.exact k g.exact,
           res := mapSet 0 p.res k g.res }

/-- The format causes of the blocks a row of cubes takes (R58, R82): planes and scree are read only where some pair has
neither block zero. -/
def sliceCauses (d : Desc) (a : Slice) (others : List Slice) : List Nat :=
  match a.blk with
  | none => []
  | some b => fmtCauses d b a.seq (!a.isZero && others.any (fun o => !o.isZero))

/-- The rings that feed a tor: A from the left tor of its row, B from the top tor of its column (R112). -/
def State.ringsOf (s : State) (t : TorIdx) (old : Bool) : SMap Block × SMap Block × Bool :=
  let l := s.leadOf t
  let q := if s.fused t then quadrant t else 0
  let ta := if 2 ≤ q then l + 8 else l
  let tb := if q % 2 = 1 then l + 1 else l
  let uid (u : TorIdx) : Nat := match (s.tor u).slot old with | some p => p.req.uid | none => 0
  (mapGet [] (s.tor ta).ringA (uid ta), mapGet [] (s.tor tb).ringB (uid tb), (s.tor ta).aXpose.contains (uid ta))

/-- One logical row's part of a wave: K-step k of digit pass pz. A slice whose tag differs from its partner's ends the pass
before its products are summed (R101); every other cause is held until the row's segment end (R88; DESIGN CHOICE,
notes/assumptions/146.md). -/
def rowWave (p : Pass) (ringA ringB : SMap Block) (xpose : Bool) (q l phys n : Nat) (slip : BitVec 2) (upsets : List Upset)
    (w : WaveRes) : Option WaveRes :=
  let steps := p.steps
  let k := n % steps
  let pz := n / steps
  let digA := p.req.op.dside
  let e := p.te
  let tagB := BitVec.ofNat 2 k
  let tagA := tagB + slip
  let arow (i : Nat) : Nat := 16 * (q / 2) + 4 * l + i
  let bcol (j : Nat) : Nat := 16 * (q % 2) + j
  let pa (i k : Nat) : Nat → Option (Nat × Nat) := aCoord e p.req.conv xpose (arow i) k
  let pb (j k : Nat) : Nat → Option (Nat × Nat) := bCoord e p.req.conv p.req.op.transb (bcol j) k
  match (List.range 4).mapM (fun i => mkSlice p.aDesc ringA digA p.req.op.apl.toNat (pa i k)),
        (List.range 16).mapM (fun j => mkSlice p.bDesc ringB (!digA) p.req.op.bpl.toNat (pb j k)) with
  | some as, some bs =>
    if tagA ≠ tagB then some { w with causes := w.causes ++ [(0x09, phys)] }
    else
      let anchor := anchorOf p.aDesc p.bDesc p.ad.ceiling p.bd.ceiling
      let last := k + 1 == steps
      let foldAt (i j : Nat) : Bool := last || p.ad.blockAt (pa i (k + 1) 0) != p.ad.blockAt (pa i k 0)
        || p.bd.blockAt (pb j (k + 1) 0) != p.bd.blockAt (pb j k 0)
      let fmt := as.flatMap (fun a => sliceCauses p.aDesc a bs) ++ bs.flatMap (fun b => sliceCauses p.bDesc b as)
      let r := (as.zipIdx).foldl (fun (r : Pass × List Nat × Nat) a =>
        (bs.zipIdx).foldl (fun (r : Pass × List Nat × Nat) b =>
          let key := 16 * (4 * l + a.2) + b.2
          let (g, cs, outs) := cellStep digA pz anchor a.1 b.1 (foldAt a.2 b.2) (upsets.filter (fun u => u.elem.toNat == key)) (r.1.cell key)
          (r.1.setCell key g, r.2.1 ++ cs, r.2.2 + outs)) r) (w.pass, [], 0)
      let new := (r.2.1.eraseDups.map (fun z => ({ row := l, cause := z, phys := phys } : MetCause)))
        ++ (fmt.eraseDups).map (fun z => ({ row := l, cause := z, phys := 7 } : MetCause))
      let met := r.1.met ++ new
      let ends := (List.range 4).any (fun i => (List.range 16).any (fun j => foldAt i j))
      some { w with
        pass := { r.1 with met := met },
        causes := w.causes ++ (if ends && met.any (fun m => m.row == l) then met.map (fun m => (m.cause, m.phys)) else []),
        needs := setNth w.needs l r.2.2,
        rowBuffer := (as.zipIdx).foldl (fun m a => regPut m (4 * l + a.2)
          (packLanes 64 16 (a.1.elems.map (fun x => match x with | .num n => BitVec.ofInt 16 n | .esc n => BitVec.ofInt 16 n)))) w.rowBuffer,
        feeders := (bs.zipIdx).foldl (fun m b => match b.1.blk with
          | some k => regPut m (b.2 / 4) (regPut (mapGet [] m (b.2 / 4)) b.1.seq k)
          | none => m) w.feeders }
  | _, _ => none

/-- One tor's part of wave w of one register set; none when a slice has not arrived. -/
def State.torWave (s : State) (t : TorIdx) (old : Bool) (p : Pass) (o : WaveObs) : Option WaveRes :=
  let (ra, rb, xp) := s.ringsOf t old
  let ds := s.rowDelays t
  let q := if s.fused t then quadrant t else 0
  (List.range 4).foldl (fun (r : Option WaveRes) l =>
    match r with
    | none => none
    | some w =>
      let d := nth 0 ds l
      if d ≤ p.wave ∧ p.wave - d < p.waves then
        rowWave p ra rb xp q l (physRow (s.tor t).rowOut l) (p.wave - d) (nth 0 o.slips l) o.upsets w
      else some w) (some { pass := p })

/-! ## Waves and freezes -/

/-- Every outlier queue of a group forms one product (R105). -/
def State.drainQueues (s : State) (g : List TorIdx) : State :=
  g.foldl (fun s u =>
    let r := s.tor u
    s.setTor u { r with queues := r.queues.map (· - 1),
                        outlierProducts := r.outlierProducts + BitVec.ofNat 32 (r.queues.filter (0 < ·)).length }) s

/-- A frozen wave period (R104). -/
def State.freeze (s : State) (g : List TorIdx) : State :=
  g.foldl (fun s u => s.setTor u { s.tor u with freezeWaves := (s.tor u).freezeWaves + 1 }) (s.drainQueues g)

/-- Whether a pass still has waves to run in some row of the group. -/
def State.running (s : State) (t : TorIdx) (p : Pass) : Bool := decide (p.wave < s.totalWaves t p)

/-- Whether every outlier queue of a group is empty (R105). -/
def State.queuesEmpty (s : State) (g : List TorIdx) : Bool := g.all (fun u => (s.tor u).queues.all (· == 0))

/-- The drain of some tor of a group holds two pass entries (R132). -/
def State.drainsFull (s : State) (g : List TorIdx) : Bool := g.any (fun u => decide (2 ≤ (s.tor u).drains.length))

/-- The last two causes of Table 06-2: the drain cannot accept the finished pass; the register set that the next pass will
use is still draining. -/
def State.heldUp (s : State) (t : TorIdx) : Bool :=
  let g := s.group t
  let r := s.tor t
  (match r.inArray with | p :: _ => !s.running t p && s.queuesEmpty g && s.drainsFull g | [] => false)
  || (match r.tail, r.pass with
      | some p, some q => !s.running t p && decide (q.waves ≤ q.wave) && s.headsAgree t
      | _, _ => false)

/-- What one wave does in one tor: in the older and in the newer register set. -/
structure TorStep where
  tor : TorIdx
  tail : Option WaveRes := none
  pass : Option WaveRes := none
  obs : WaveObs := {}

def TorStep.slot (w : TorStep) (old : Bool) : Option WaveRes := if old then w.tail else w.pass

/-- The products a tor's rows need in the wave, both register sets together. -/
def TorStep.needs (w : TorStep) : List Nat :=
  (List.range 4).map (fun l => (w.tail.toList ++ w.pass.toList).foldl (fun a r => a + nth 0 r.needs l) 0)

/-- One wave of a whole group: none when some row lacks a slice. -/
def State.groupWave (s : State) (g : List TorIdx) (os : List WaveObs) : Option (List TorStep) :=
  (g.zipIdx).mapM (fun u =>
    let o := nth {} os u.2
    let r := s.tor u.1
    let part (old : Bool) : Option (Option WaveRes) := match r.slot old with
      | some p => (s.torWave u.1 old p o).map some
      | none => some none
    match part true, part false with
    | some a, some b => some { tor := u.1, tail := a, pass := b, obs := o }
    | _, _ => none)

/-- A tor takes its part of the wave. -/
def State.takeWave (s : State) (w : TorStep) : State :=
  let r := s.tor w.tor
  let move (x : Option WaveRes) : Option Pass := x.map (fun a => { a.pass with wave := a.pass.wave + 1 })
  let keep {α : Type} (f : WaveRes → SMap α) (m : SMap α) : SMap α :=
    (w.tail.toList ++ w.pass.toList).foldl (fun m a => (f a).foldl (fun m e => regPut m e.1 e.2) m) m
  s.setTor w.tor { r.noteEcc w.obs.ecc with
    tail := move w.tail, pass := move w.pass, queues := List.zipWith (· + ·) r.queues w.needs,
    rowBuffer := keep WaveRes.rowBuffer r.rowBuffer, feeders := keep WaveRes.feeders r.feeders }

/-- The causes that end the pass in one register set: those of its rows, and, for the newest pass that takes slices, the
tor-store words that could not be corrected (R100). -/
def waveCauses (ws : List TorStep) (old reads : Bool) : List (TorIdx × Nat × Nat) :=
  ws.flatMap (fun w =>
    ((w.slot old).toList.flatMap (fun r => r.causes.map (fun z => (w.tor, z))))
    ++ (if reads && !w.obs.ecc.bad.isEmpty then [(w.tor, 0x08, 7)] else []))

/-- The causes met so far in one register set of a group. -/
def metCauses (ws : List TorStep) (old : Bool) : List (TorIdx × Nat × Nat) :=
  ws.flatMap (fun w => (w.slot old).toList.flatMap (fun r => r.pass.met.map (fun m => (w.tor, m.cause, m.phys))))

/-- Ends the pass in one register set where a cause does so: every cause the pass has met counts (R88, R102). -/
def State.endBadWave (s : State) (c : CtxIdx) (im : Sched) (t : TorIdx) (ws : List TorStep) (old reads : Bool) : State :=
  let cs := waveCauses ws old reads
  if cs.isEmpty then s else s.failWith c im t old ((cs ++ metCauses ws old).eraseDups)

/-- WAVE: every cube of the group runs one wave of its passes, or the group freezes (R104, R105). -/
def execWave (t : TorIdx) (os : List WaveObs) (s : State) : Host.Outcome State Fault Refusal :=
  .next (match s.runner t with
    | none => s
    | some c =>
      match (s.ctx c).image with
      | none => s
      | some im =>
        let g := s.group t
        let r := s.tor t
        if s.leadOf t ≠ t then s
        else if s.heldUp t then s.freeze g
        else if !r.inArray.any (fun p => s.running t p) then s.drainQueues g
        else match s.groupWave g os with
          | none => s.freeze g
          | some ws =>
            if ws.any (fun w => (List.zip (s.tor w.tor).queues w.needs).any (fun q => q.1 != 0 && decide (32 < q.1 + q.2))) then s.freeze g
            else
              let newest := r.pass.any (fun p => decide (p.wave < p.waves))
              let s := ((ws.foldl State.takeWave s).endBadWave c im t ws true (!newest)).endBadWave c im t ws false newest
              s.drainQueues g)

/-! ## Pass end: residues, conversion, norm -/

/-- The exact value of an output element at a tor's own row and column. -/
def Pass.value (p : Pass) (r c : Nat) : Dy := (mapGet 0 p.exact (16 * r + c), anchorOf p.aDesc p.bDesc p.ad.ceiling p.bd.ceiling)

/-- The values of an output block, with the grid of `d`, in a tor's quadrant q; zero outside the tile's own area. -/
def Pass.blockValues (p : Pass) (d : Desc) (q seq : Nat) : List Dy :=
  let r0 := p.te.m0 + 16 * (q / 2)
  let c0 := p.te.n0 + 16 * (q % 2)
  (List.range (d.blockRows * d.blockCols)).map (fun i =>
    let r := (seq / d.gridCols) * d.blockRows + i / d.blockCols
    let c := (seq % d.gridCols) * d.blockCols + i % d.blockCols
    if r0 ≤ r ∧ r < r0 + 16 ∧ c0 ≤ c ∧ c < c0 + 16 ∧ r < d.rows ∧ c < d.cols then p.value (r - r0) (c - c0) else (0, 0))

/-- Fast INT32 (R90): the clamped value and whether it clamped. -/
def int32Fast (x : Int) : Int × Bool :=
  (max (-(2 ^ 31)) (min (2 ^ 31 - 1) x), decide (x < -(2 ^ 31)) || decide (2 ^ 31 - 1 < x))

/-- Eight words to a burst. -/
def wordBursts (ws : List (BitVec 32)) : List (BitVec 272) :=
  (List.range (ceilDiv ws.length 8)).map (fun j => mkBurst 0 0 (packLanes 256 32 ((ws.drop (8 * j)).take 8)))

/-- The converted output of a pass in one tor, before the norm is summed over a group. -/
structure Drained where
  blocks : List OutBlock := []
  raw : List (Nat × List Dy) := []
  counts : Counts := {}
  norm : Nat := 0
  sat32 : Nat := 0
  nan : Bool := false

/-- Converts one block (R89, R90; with rotation R77). -/
def drainBlock (p : Pass) (pilot : Bool) (rot : Bool) (q : Nat) (z : Drained) (seq : Nat) : Drained :=
  let d := p.od
  let vals := p.blockValues d q seq
  let conv := DrainEntry.conv p.drain
  if conv ≤ 1 then
    if rot then
      if conv = 0 then
        let g := quantG16 (maskBlock d seq vals) d.ceiling (DrainEntry.rung p.drain) pilot
        { z with raw := z.raw ++ [(seq, g.mant.map (fun m => (m, (g.e : Int) - 141)))] }
      else
        let fs := vals.map (fun v => fpOfInt pilot v.1 v.2)
        { z with raw := z.raw ++ [(seq, fs.map (fun f => (fpDy f).getD (0, 0)))], nan := z.nan || fs.any (fun f => !f32Finite f) }
    else
      let b := quantBlock d d.ceiling seq (DrainEntry.rung p.drain) pilot (maskBlock d seq vals)
      { z with blocks := z.blocks ++ [b.out seq], counts := z.counts.add b }
  else if conv = 2 then { z with blocks := z.blocks ++ [{ seq := seq, bursts := wordBursts (vals.map (fun v => fpOfInt pilot v.1 v.2)) }] }
  else
    let xs := vals.map (fun v => Dy.at v 0)
    let ws := if conv = 3 then xs.map (fun x => BitVec.ofInt 32 (int32Fast x).1) else xs.map (BitVec.ofInt 32)
    { z with blocks := z.blocks ++ [{ seq := seq, bursts := wordBursts ws }],
             sat32 := z.sat32 + (if conv = 3 then (xs.filter (fun x => (int32Fast x).2)).length else 0) }

/-- The 16 outputs-blocks of a tor's area in G16, for the norm watch (R143). -/
def Pass.normOf (p : Pass) (pilot : Bool) (q : Nat) : Nat :=
  let d := p.od
  let r0 := p.te.m0 + 16 * (q / 2)
  let c0 := p.te.n0 + 16 * (q % 2)
  normSum d.ceiling ((List.range 16).map (fun b =>
    quantG16 ((List.range 16).map (fun i =>
      let r := 4 * (b / 4) + i / 4
      let c := 4 * (b % 4) + i % 4
      if r0 + r < d.rows ∧ c0 + c < d.cols then some (p.value r c) else none)) d.ceiling 0 pilot))

/-- Converts a tor's part of a pass. -/
def State.drained (s : State) (c : CtxIdx) (im : Sched) (t : TorIdx) (p : Pass) : Drained :=
  let d := p.od
  let q := if s.fused t then quadrant t else 0
  let rot := d.rotH != 0 && !DrainEntry.toStore p.drain
  let z := (s.tileBlocks im t p.req.op.tile.toNat (DrainEntry.outDesc p.drain)).foldl (drainBlock p (s.pilot c) rot q) {}
  if DrainEntry.norm p.drain then { z with norm := p.normOf (s.pilot c) q } else z

/-- Applies upsets to exact registers. -/
def Pass.upset (p : Pass) (us : List (Byte × Byte)) : Pass :=
  us.foldl (fun (p : Pass) u =>
    let v : BitVec 160 := BitVec.ofInt 160 (mapGet 0 p.exact u.1.toNat)
    { p with exact := mapSet 0 p.exact u.1.toNat (v ^^^ (1 <<< u.2.toNat)).toInt }) p

/-- Rows with an output element whose register disagrees with its residue (R87). -/
def Pass.badRows (p : Pass) : List Nat :=
  (((List.range 256).filter (fun k => mod127 (mapGet 0 p.exact k) != mapGet 0 p.res k)).map (· / 64)).eraseDups

/-- A tor's part of a finished pass enters its drain buffer and frees the register set; a stopped tor's NCHK never comes,
so its NORM output is dropped (R238). -/
def State.enterDrain (s : State) (old : Bool) (counts : Counts) (norm sat : Nat) (w : TorIdx × Pass × Drained) : State :=
  let r := s.tor w.1
  let p := w.2.1
  let tile := p.req.op.tile.toNat
  let n := DrainEntry.norm p.drain
  let b : DrainBuf := { uid := p.req.uid, tile := tile, drain := p.drain, ceiling := p.od.ceiling, blocks := w.2.2.blocks,
                        raw := w.2.2.raw, counts := counts, norm := n, rung := p.req.rung, sat32 := sat,
                        logNorm := if n then logNorm norm p.od.ceiling else 0 }
  s.setTor w.1 { (r.setSlot old none).dropOperands p.req.uid with
    drains := if r.stopped && n then r.drains else r.drains ++ [b], failedTiles := r.failedTiles.filter (· != tile) }

/-- TILE_PASS_END: once a pass's waves are issued and the outlier queues empty, its residues are checked and its output
enters the drain buffer of two entries. The older of two passes in the array ends first. `ecc` is the code's report, tor by
tor, on the words that a drain to the tor store writes in part (R100). -/
def execTilePassEnd (t : TorIdx) (upsets : List RegisterUpset) (ecc : List EccObs) (s : State) : Host.Outcome State Fault Refusal :=
  .next (match s.runner t with
    | none => s
    | some c =>
      let old := (s.tor t).tail.isSome
      match (s.ctx c).image, (s.tor t).slot old with
      | some im, some p0 =>
        let g := s.group t
        if s.leadOf t ≠ t ∨ s.running t p0 ∨ !s.queuesEmpty g ∨ s.drainsFull g then s
        else
          let parts := (g.zipIdx).filterMap (fun u => ((s.tor u.1).slot old).map (fun p =>
            let p := p.upset ((upsets.filter (fun v => v.tor.toNat == u.2)).map (fun v => (v.elem, v.bit)))
            (u.1, p, s.drained c im u.1 p)))
          let seen := (g.zip ecc).filter (fun e => ((s.tor e.1).slot old).any (fun p => DrainEntry.toStore p.drain))
          let s := seen.foldl (fun s e => s.setTor e.1 ((s.tor e.1).noteEcc e.2)) s
          let causes := parts.flatMap (fun w => w.2.1.badRows.map (fun l => (w.1, 0x01, physRow (s.tor w.1).rowOut l)))
            ++ (parts.filter (fun w => w.2.2.nan)).map (fun w => (w.1, 0x07, 7))
            ++ (seen.filter (fun e => !e.2.bad.isEmpty)).map (fun e => (e.1, 0x08, 7))
          if !causes.isEmpty then s.failWith c im t old causes
          else
            let counts := parts.foldl (fun a w => Counts.sum a w.2.2.counts) {}
            let norm := parts.foldl (fun a w => a + w.2.2.norm) 0
            let sat := parts.foldl (fun a w => a + w.2.2.sat32) 0
            let s := parts.foldl (fun s w => s.enterDrain old counts norm sat w) s
            g.foldl (fun s u => s.progress c u) s
      | _, _ => s)

/-! ## Release (R132) -/

/-- Adds a kept pass's counts to its tile (R159); the lead speaks for a fused group. -/
def Context.keepCounts (x : Context) (n : Nat) (k : Counts) (sat : Nat) : Context :=
  let l := x.ladder n
  x.setLadder n { l with tally := { l.tally with kept := l.tally.kept.sum k, sat32 := l.tally.sat32 + sat } }

/-- Rotates and writes the groups that a port holds whole (R77); each fresh block's counts go to its tile. -/
def State.rotateReady (s : State) (c : CtxIdx) (im : Sched) (desc : Nat) (groups : List Nat) : Bool × State :=
  let d := im.desc desc
  let port := d.homePort
  groups.foldl (fun (r : Bool × State) g =>
    let s := r.2
    let x := s.ctx c
    let buf := mapGet [] x.rotBuf desc
    let bs := groupBlocks d g
    let part (b : Nat) : Option RotPart := (buf.find? (fun e => e.1 == b)).map (·.2)
    if !bs.all (fun b => beyondEdge d b || (part b).isSome) then r
    else
      let zeros : List Dy := List.replicate (d.blockRows * d.blockCols) (0, 0)
      let vals := bs.map (fun b => match part b with | some p => edgeZero d b (0, 0) p.vals | none => zeros)
      let ceil := x.ceilOf im desc
      let qs := (bs.zip (rotateGroup d vals)).map (fun p =>
        let rung := match part p.1 with | some w => w.rung | none => 0
        (p.1, quantBlock d ceil p.1 rung (s.pilot c) (maskBlock d p.1 p.2)))
      let x := qs.foldl (fun (x : Context) q => match part q.1 with
        | some w => if w.fresh then x.keepCounts w.tile (Counts.add {} q.2) 0 else x
        | none => x) x
      let buf := bs.foldl (fun m b => match part b with | some w => regPut m b { w with fresh := false } | none => m) buf
      let s := s.setCtx c { x with rotBuf := mapSet [] x.rotBuf desc buf }
      let (poison, s) := s.writeBlocks port d (qs.map (fun q => q.2.out q.1))
      (r.1 || poison, s)) (false, s)

/-- Writes one released entry to its destination. True when a scree slot met poison. -/
def State.releaseEntry (s : State) (c : CtxIdx) (im : Sched) (t : TorIdx) (b : DrainBuf) : Bool × State :=
  let e : DrainEntry := b.drain
  let d := im.desc e.outDesc
  let n := s.tileNo im t b.tile
  if e.toStore then
    let r := s.tor t
    let bytes := b.blocks.flatMap (fun o => o.bursts.flatMap (storeBurst d) ++ (if d.cap = 0 then [] else storeScree o.scree))
    (false, s.setTor t { r with store := memSetBytes r.store e.tsaddr bytes })
  else if b.raw.isEmpty then s.writeBlocks t d b.blocks
  else
    let x := s.ctx c
    let buf := b.raw.foldl (fun m v => regPut m v.1 { tile := n, rung := b.rung, ceiling := b.ceiling, fresh := true, vals := v.2 })
      (mapGet [] x.rotBuf e.outDesc)
    (s.setCtx c { x with rotBuf := mapSet [] x.rotBuf e.outDesc buf }).rotateReady c im e.outDesc
      ((b.raw.map (fun v => groupOf d v.1)).eraseDups)

/-- A tile whose output met a poisoned scree slot fails as its writer (R171). -/
def State.failTile (s : State) (c : CtxIdx) (im : Sched) (t : TorIdx) (tile : Nat) : State :=
  let r := s.tor t
  let n := s.tileNo im t tile
  let s := s.setTor t { r with failedTiles := if r.failedTiles.contains tile then r.failedTiles else r.failedTiles ++ [tile] }
  let s := s.failItem c (im.workOfTile t.toNat tile) 0x0C 7 t.toNat 0
  s.setCtx c ((s.ctx c).failLadder n)

/-- DRAIN_RELEASE: the oldest entry that needs no NCHK, or whose NCHK left KEEP, is written (R132). -/
def execDrainRelease (t : TorIdx) (s : State) : Host.Outcome State Fault Refusal :=
  .next (match s.runner t with
    | none => s
    | some c =>
      match (s.ctx c).image, (s.tor t).drains.find? (fun b => !b.norm || b.decided) with
      | some im, some b =>
        let r := s.tor t
        let s := s.setTor t { r with drains := r.drains.erase b }
        let n := s.tileNo im t b.tile
        let s := if s.leadOf t = t then s.setCtx c ((s.ctx c).keepCounts n b.counts b.sat32) else s
        let (poison, s) := s.releaseEntry c im t b
        let s := if poison then s.failTile c im t b.tile else s
        -- a group that this release completed may let other tors' delayed effects go
        if b.raw.isEmpty then (s.group t).foldl (fun s u => s.progress c u) s
        else im.tors.foldl (fun s e => s.progress c (BitVec.ofNat 13 e.tor)) s
      | _, _ => s)

end Sys2Proof.Machine
end

