-- ==== Sys2Proof/Machine/Switchback.lean ====
section
/-! DEFINITION. The norm check and its ladder (R136, R147 to R150), the alternates (R137), the ceiling settle at the tor
and at the home (R138, R71), and the storm verdicts (R152 to R154). -/

namespace Sys2Proof.Machine
open Sys2Proof

/-! ## Tests on a log-norm (R147) -/

def jumpsUp (th : Thresholds) (e : Swb) (l : Int) : Bool :=
  e.valid && l != zeroNorm && decide ((th.jumpUp.toNat : Int) * 2 ^ 16 < l - e.ref)
def jumpsDown (th : Thresholds) (e : Swb) (l : Int) : Bool :=
  e.valid && (l == zeroNorm || decide ((th.jumpDown.toNat : Int) * 2 ^ 16 < e.ref - l))
def jumps (th : Thresholds) (e : Swb) (l : Int) : Bool := jumpsUp th e l || jumpsDown th e l

def agrees (th : Thresholds) (a b : Int) : Bool :=
  if a = zeroNorm ∨ b = zeroNorm then a == b else decide (((a - b).natAbs : Int) ≤ (th.agree.toNat : Int) * 2 ^ 16)

/-! ## The ladder (R148, R154) -/

/-- What one NCHK decides: selector (0 KEEP), the tile's ladder, its working entry. -/
structure Decided where
  sel : Nat
  lad : Ladder
  entry : Swb
  deriving DecidableEq, Repr

/-- The procedure of R148 on a pass of rung r with log-norm l. -/
def nchkStep (th : Thresholds) (has1 has2 : Bool) (r : Nat) (l : Int) (lad : Ladder) (e : Swb) : Decided :=
  let up := jumpsUp th e l
  let dn := jumpsDown th e l
  let j := up || dn
  let t := lad.tally
  let t := { t with tested := if e.valid then 1 else t.tested, rung1 := t.rung1 + boolNat (r == 1), rung2 := t.rung2 + boolNat (r == 2) }
  let lad := { lad with jumped := if lad.seen || lad.storm then lad.jumped else j, seen := true }
  let keep (t : Tally) (e : Swb) : Decided := { sel := 0, lad := { lad with sel := 0, tally := t }, entry := e }
  let esc (k : Nat) (t : Tally) (l0 : Option Int) : Decided := { sel := k, lad := { lad with sel := k, tally := t, l0 := l0 }, entry := e }
  if lad.storm then keep { t with stormJumps := t.stormJumps + boolNat j } e
  else if lad.start = r ∧ r = 2 ∧ 0 < e.stickyLeft then keep t e
  else if lad.start = 1 ∧ r = 1 then
    (if j && has2 then esc 2 t lad.l0 else if j then keep { t with noWider := t.noWider + 1 } e else keep t e)
  else if r = 0 then
    let t := { t with up := t.up + boolNat up, down := t.down + boolNat dn }
    if !j then
      keep t (if e.valid then { e with ref := e.ref + asrInt (l - e.ref) 3 }
        else if l ≠ zeroNorm then { e with ref := l, valid := true } else e)
    else if has1 then esc 1 t (some l)
    else keep { t with noWider := t.noWider + 1 } e
  else if r = 1 then
    let l0 := lad.l0.getD zeroNorm
    if agrees th l l0 then
      keep { t with genuine := t.genuine + 1 } (if l0 = zeroNorm then { e with valid := false, ref := 0 } else { e with ref := l0 })
    else if j && has2 then esc 2 t lad.l0
    else keep { t with stickySet := t.stickySet + 1, noWider := t.noWider + boolNat j } { e with stickyRung := 1, stickyLeft := 64 }
  else keep { t with stickySet := t.stickySet + 1 } { e with stickyRung := 2, stickyLeft := 64 }

/-- Whether a pass of a tile still has to end in a tor: in the queue or in the array. -/
def Tor.passOpen (r : Tor) (tile : Nat) : Bool :=
  r.passes.any (fun q => q.op.tile.toNat == tile) || r.inArray.any (fun p => p.req.op.tile.toNat == tile)

/-- Adds to the wrapping 16-bit counts of FLB_COUNTS: NO_WIDER, JUMPS, RUNG1_PASSES, RUNG2_PASSES. -/
def State.flbAdd (s : State) (noWider jumps rung1 rung2 : Nat) : State :=
  let f (i n : Nat) : BitVec 16 := getLane 16 s.flbCounts i + BitVec.ofNat 16 n
  { s with flbCounts := f 3 rung2 ++ f 2 rung1 ++ f 1 jumps ++ f 0 noWider }

/-- NCHK (R136): waits for the result of the tile's last NORM pass; the lead of a fused group decides for the four
tors. A failed pass leaves KEEP without a decision. -/
def execNchk (t : TorIdx) (tile : BitVec 20) (s : State) : Host.Outcome State Fault Refusal :=
  .next (s.issueWide t (encNchk tile) (fun c im =>
    let r := s.tor t
    let k := tile.toNat
    let n := s.tileNo im t k
    let x := s.ctx c
    match r.drains.find? (fun b => b.tile == k && b.norm && !b.decided) with
    | none =>
      if r.passOpen k then s
      else if r.failedTiles.contains k then
        (s.setCtx c (x.setLadder n { x.ladder n with sel := 0, seen := true })).pcNext t
      else if s.leadOf t ≠ t then s.pcNext t else s
    | some b =>
      if s.leadOf t ≠ t then s
      else
        let w := im.workOfTile t.toNat k
        let e := x.swbAt w n
        let l := x.ladder n
        let l := { l with before := some (l.before.getD e), replay := (x.replayOf w).isSome }
        let d := nchkStep x.pol.thresholds (im.altEntry n 1).isSome (im.altEntry n 2).isSome b.rung b.logNorm l e
        let movable := Desc.movable (im.desc (DrainEntry.outDesc b.drain))
        let s := s.flbAdd (d.lad.tally.noWider - l.tally.noWider) (boolNat (b.rung == 0 && jumps x.pol.thresholds e b.logNorm))
          (boolNat (b.rung == 1)) (boolNat (b.rung == 2))
        let lad := if movable then d.lad else { d.lad with final := true }
        let s := s.setCtx c ((x.setLadder n lad).setSwbAt w n d.entry)
        let s := (s.group t).foldl (fun s u =>
          let q := s.tor u
          let hit (z : DrainBuf) : Bool := z.tile == k && z.norm && !z.decided
          s.setTor u { q with drains := if d.sel = 0 then q.drains.map (fun z => if hit z then { z with decided := true } else z)
                                        else q.drains.filter (fun z => !hit z) }) s
        let s := s.pcNext t
        (s.group t).foldl (fun s u => s.progress c u) s))

/-! ## Alternates (R137) -/

/-- The storm phase of a tile; a tile without NORM has none and counts as phase 0. -/
def Sched.phaseOf (im : Sched) (n : Nat) : Nat := let p := (nth 0 im.phases n).toNat; if p < 64 then p else 0

/-- Counts a missing wider format (R137), once for a fused group. -/
def State.reportNoWider (s : State) (c : CtxIdx) (t : TorIdx) (n : Nat) : State :=
  if s.leadOf t ≠ t then s
  else
    let x := s.ctx c
    let l := x.ladder n
    (s.setCtx c (x.setLadder n { l with tally := { l.tally with noWider := l.tally.noWider + 1 } })).flbAdd 1 0 0 0

/-- ALT with POS = 0: selects the start rung before the rung-0 block; a tile of phase p ≥ 2 waits for V_(p−2) (R153). -/
def State.altBefore (s : State) (c : CtxIdx) (im : Sched) (t : TorIdx) (tile skip : Nat) : State :=
  let r := s.tor t
  let x := s.ctx c
  let n := s.tileNo im t tile
  let p := im.phaseOf n
  if 2 ≤ p ∧ x.verdicts.length ≤ p - 2 then s.setTor t { r with altWait := true }
  else
    let r := { r with altWait := false }
    let l := x.ladder n
    let e := l.before.getD (x.swbAt (im.workOfTile t.toNat tile) n)
    let storm := decide (2 ≤ p) && nth false x.verdicts (p - 2)
    let want := if 0 < e.stickyLeft then e.stickyRung else if storm then 1 else 0
    let entry := if want = 0 then none else im.altEntry n want
    let start := if entry.isSome then want else 0
    let s := s.setCtx c (x.setLadder n { l with before := some e, start := start, storm := storm, sel := 0, l0 := none })
    match entry with
    | some a =>
      let s := s.dropLoads c im t
      (s.setTor t (({ s.tor t with altWait := false } : Tor).call a (r.pc.toNat + 1 + skip) want false)).progress c t
    | none =>
      let s := s.setTor t r.next
      if want = 0 then s else s.reportNoWider c t n

/-- ALT with POS = 1: calls the entry the selector names. -/
def State.altAfter (s : State) (c : CtxIdx) (im : Sched) (t : TorIdx) (tile : Nat) : State :=
  let r := s.tor t
  let n := s.tileNo im t tile
  let sel := ((s.ctx c).ladder n).sel
  if sel = 0 then s.pcNext t
  else match im.altEntry n sel with
    | some a => s.setTor t (r.call a (r.pc.toNat + 1) sel false)
    | none => (s.reportNoWider c t n).pcNext t

/-- ALT. -/
def execAlt (t : TorIdx) (tile : BitVec 20) (pos : Bool) (skip : BitVec 16) (s : State) : Host.Outcome State Fault Refusal :=
  .next (match s.issuer t (encAlt tile pos skip) with
    | none => s
    | some c =>
      match (s.ctx c).image with
      | none => s
      | some im =>
        if (s.tor t).deqWait || (s.ctx c).replayWaits (im.workOfTile t.toNat tile.toNat) then s
        else if pos then (if (s.tor t).altWait then s else s.altAfter c im t tile.toNat)
        else s.altBefore c im t tile.toNat skip.toNat)

/-! ## Settle (R138, R71) -/

/-- SETTLE: sends the tile's ceiling report, then waits for the home's outcome. -/
def execSettle (t : TorIdx) (tile : BitVec 20) (desc : BitVec 16) (s : State) : Host.Outcome State Fault Refusal :=
  .next (s.issueWide t (encSettle tile desc) (fun c _ =>
    let s := s.pushLater c t (.ceilReport tile.toNat desc.toNat)
    ((s.setTor t { s.tor t with state := 3, settleTile := some (tile.toNat, desc.toNat) }).settleLater c t).resumeSettle c desc.toNat))

/-- One report at its tensor's home. -/
def State.takeReport (s : State) (r : CtxIdx × Nat × Nat × CeilReport) : State :=
  let x := s.ctx r.1
  let st := mapGet {} x.settles r.2.1
  let s := s.setCtx r.1 { x with settles := mapSet {} x.settles r.2.1 { st with reports := regPut st.reports r.2.2.1 r.2.2.2 } }
  s.runSettle r.1 r.2.1

/-- CEILING_REPORT: a home port takes the reports that have reached it; settle runs when every producing tile has
reported. -/
def execCeilingReport (home : BitVec 7) (s : State) : Host.Outcome State Fault Refusal :=
  .next (
    if !s.live then s
    else
      let mine (r : CtxIdx × Nat × Nat × CeilReport) : Bool := (s.ctx r.1).state == 3 &&
        (match (s.ctx r.1).image with | some im => (im.desc r.2.1).home == home.toNat | none => false)
      (s.ceilInbox.filter mine).foldl State.takeReport { s with ceilInbox := s.ceilInbox.filter (fun r => !mine r) })

/-! ## Storm verdicts (R152, R153) -/

/-- The NORM tiles of a module's schedule, a fused group's once: ALTERNATES number, storm phase, rung-0 waves. -/
def State.normTiles (s : State) (im : Sched) : List (Nat × Nat × Nat) :=
  im.tors.flatMap (fun e =>
    let t := BitVec.ofNat 13 e.tor
    if s.leadOf t ≠ t then []
    else match im.streams[e.stream]? with
      | none => []
      | some st =>
        let ws := st.words.filterMap (fun w =>
          if opcodeOf w ≠ 0x10 ∧ opcodeOf w ≠ 0x11 then none
          else
            let tile := field w 92 20
            let dr : DrainEntry := nth 0 st.drains (field w 72 16)
            if !dr.norm || dr.rung != 0 || dr.ceil != 0 then none
            else
              let te : TileEntry := nth 0 st.tiles tile
              let op : TileOp := { (default : TileOp) with dside := bit w 115, apl := w.extractLsb' 90 2, bpl := w.extractLsb' 88 2 }
              let p : Pass := { req := { conv := opcodeOf w = 0x11, op := op },
                                aDesc := im.desc te.aDesc, bDesc := im.desc te.bDesc, tile := te }
              some (tile, p.waves))
        (List.range st.tiles.length).filterMap (fun k => (ws.find? (fun w => w.1 == k)).map (fun w =>
          let n := s.tileNo im t k
          (n, im.phaseOf n, w.2))))

/-- The CLASS 0 tensors with planes that the phases after p read. -/
def State.laterWeights (s : State) (im : Sched) (p : Nat) : List Nat :=
  let ds := (im.tors.flatMap (fun e => match im.streams[e.stream]? with
    | none => []
    | some st => (List.range st.tiles.length).flatMap (fun k =>
        if p < im.phaseOf (s.tileNo im (BitVec.ofNat 13 e.tor) k) then
          let te : TileEntry := nth 0 st.tiles k
          [te.aDesc, te.bDesc]
        else []))).eraseDups
  ds.filter (fun d => (im.desc d).cls == 0 && decide (1 ≤ (im.desc d).planes))

/-- Plane 1 of some later weight has yet to land (FLB_STATUS.PREFETCH). -/
def State.prefetchOpen (s : State) (c : CtxIdx) (im : Sched) (p : Nat) : Bool :=
  let x := s.ctx c
  (s.laterWeights im p).any (fun d => (List.range (im.desc d).blocks).any (fun q => !(s.missingPlanes x im d q 1).isEmpty))

/-- The bulk prefetch of plane 1 at the entry to a storm (R154). -/
def State.prefetchPlanes (s : State) (c : CtxIdx) (im : Sched) (p : Nat) : State :=
  (s.laterWeights im p).foldl (fun s d => (List.range (im.desc d).blocks).foldl (fun s q => s.fetchPlanes c im d q 1) s)
    { s with prefetch := s.prefetchOpen c im p }

/-- Every tile of the phases up to p is final (R153). -/
def Context.phasesFinal (x : Context) (ts : List (Nat × Nat × Nat)) (p : Nat) : Bool :=
  (ts.filter (fun t => decide (t.2.1 ≤ p))).all (fun t => (x.ladder t.1).final)

/-- The next phase's verdict is due: its tiles and those before are final, and tiles of that phase or a later one exist. -/
def State.verdictDue (s : State) (x : Context) (im : Sched) : Bool :=
  let ts := s.normTiles im
  let p := x.verdicts.length
  ts.any (fun t => decide (p ≤ t.2.1)) && x.phasesFinal ts p

/-- STORM_VERDICT: the next phase's verdict, once every tile of the phases up to it is final. -/
def execStormVerdict (c : CtxIdx) (s : State) : Host.Outcome State Fault Refusal :=
  .next (
    let x := s.ctx c
    match x.image with
    | none => s
    | some im =>
      let p := x.verdicts.length
      let ts := s.normTiles im
      if !s.live || x.state != 3 || decide (63 < p) || !x.phasesFinal ts p then s
      else
        let w := ts.foldl (fun a t => a + t.2.2) 0
        let f := ts.foldl (fun a t => let l := x.ladder t.1
          if t.2.1 ≤ p ∧ l.jumped ∧ ¬ l.storm then a + t.2.2 else a) 0
        let prev := decide (1 ≤ p) && nth false x.verdicts (p - 1)
        let v := prev || decide (x.pol.thresholds.stormFraction.toNat * w < 256 * f)
        let enter := v && !prev
        let s := s.setCtx c { x with verdicts := x.verdicts ++ [v], entryPhase := if enter then some p else x.entryPhase }
        if enter then s.prefetchPlanes c im p else s)

end Sys2Proof.Machine
end

