-- ==== Sys2Proof/Machine/Images.lean ====
section
/-! DEFINITION. The image container (R25 to R27), the Wihorn structure image: its sections, field checks and consistency
checks (R28 to R30, R313, R182, R378 to R382), the factory default structure (Table 02-9), the staging and switchover
of an image (R31 to R38), and the application of repairs (R107 to R111) with the shape table (R42). -/

namespace Sys2Proof.Machine
open Sys2Proof

/-! ## Container -/

/-- The sections of a container: TYPE and content. -/
abbrev Sections := List (Nat × List Byte)

def sectOf (ss : Sections) (t : Nat) : List Byte := match ss.find? (fun e => e.1 == t) with | some e => e.2 | none => []

/-- A check of the load: its CAUSE and FAILED_SECTION when it fails. -/
abbrev Check := Except (Nat × Nat) Unit

def need (ok : Bool) (cause sect : Nat) : Check := if ok then .ok () else .error (cause, sect)

/-- All bytes of [o, o + n) are zero. -/
def zerosAt (bs : List Byte) (o n : Nat) : Bool := ((bs.drop o).take n).all (· == 0)

/-- Every byte outside the given spans is zero (R378). -/
def restZero (bs : List Byte) (spans : List (Nat × Nat)) : Bool :=
  bs.zipIdx.all (fun p => p.1 == 0 || spans.any (fun q => decide (q.1 ≤ p.2) && decide (p.2 < q.1 + q.2)))

/-- Pairwise disjoint spans [base, base + size); an empty span meets nothing. -/
def disjoint : List (Nat × Nat) → Bool
  | [] => true
  | a :: t => t.all (fun b => a.2 == 0 || b.2 == 0 || decide (a.1 + a.2 ≤ b.1) || decide (b.1 + b.2 ≤ a.1)) && disjoint t

/-- Bytes of the trailer. -/
def trailerBytes : Nat := 1312

/-- What a kind of image is: MAGIC, FORMAT_VERSION, the largest length, the known TYPEs and the required ones. -/
structure ImageKind where
  magic : Nat
  version : Nat
  limit : Nat
  known : List Nat
  required : List Nat
  sched : Bool

def wihornKind : ImageKind :=
  { magic := 0x4B475749, version := 2, limit := 2 ^ 24, known := (List.range 11).map (· + 1), required := (List.range 10).map (· + 1),
    sched := false }
def schedKind : ImageKind :=
  { magic := 0x4B475353, version := 3, limit := 2 ^ 34, known := (List.range 7).map (· + 0x101), required := (List.range 7).map (· + 0x101),
    sched := true }

/-- The directory: (TYPE, reserved bits, OFFSET, bytes). -/
def directory (bs : List Byte) : List (Nat × Nat × Nat × Nat) :=
  (List.range (leNat bs 6 2)).map (fun i =>
    let o := 0x40 + 16 * i
    (leNat bs o 2, leNat bs (o + 2) 2, leNat bs (o + 8) 8, 32 * leNat bs (o + 4) 4))

/-- The signed hash verifies against an enrolled, unrevoked slot (R26). -/
def sigOk (keys : List KeySlot) (slot : Nat) (hash : Digest) (sig : List Byte) : Bool :=
  match keys[slot]? with
  | some k => k.enrolled && !k.revoked && Config.falconVerify k.key hash sig
  | none => false

/-- Items 1 to 5 of R27, and the header's, directory's and trailer's reserved fields. Gives the sections and the
trailer's KEY_SLOT. Of the layout failures only a missing required section has a FAILED_SECTION, its TYPE (DESIGN CHOICE,
notes/assumptions/47.md). -/
def checkContainer (k : ImageKind) (keys : List KeySlot) (bs : List Byte) : Except (Nat × Nat) (Sections × Nat) :=
  let n := leNat bs 6 2
  let total := leNat bs 8 8
  let dir := directory bs
  let tr := total - trailerBytes
  let dirEnd := 0x40 + 16 * n
  do
    need (leNat bs 0 4 == k.magic) 0x01 0
    need (leNat bs 4 2 == k.version) 0x02 0
    need (decide (1 ≤ n) && decide (n ≤ 64)) 0x03 0
    need (total % 32 == 0 && decide (total ≤ k.limit) && total == bs.length && decide (dirEnd + trailerBytes ≤ total)) 0x03 0
    need (dir.all (fun e => e.2.2.1 % 32 == 0 && decide (dirEnd ≤ e.2.2.1) && decide (e.2.2.1 + e.2.2.2 ≤ tr)
      && k.known.contains e.1) && decide ((dir.map (·.1)).eraseDups.length = n) && disjoint (dir.map (·.2.2))) 0x03 0
    need (k.required.all (fun t => dir.any (fun e => e.1 == t))) 0x03
      ((k.required.find? (fun t => !dir.any (fun e => e.1 == t))).getD 0)
    need (leNat bs tr 8 == (crc64 (bs.take tr)).toNat) 0x04 0
    need (sigOk keys (leNat bs (tr + 8) 1) (Config.shake256 (bs.take (tr + 9))) ((bs.drop (tr + 16)).take 1280)) 0x05 0
    need (dir.all (fun e => e.2.1 == 0) && zerosAt bs 0x21 31 && zerosAt bs (tr + 9) 7 && zerosAt bs (tr + 1296) 16
      && (if k.sched then zerosAt bs 0x18 9 else decide (leNat bs 0x20 1 ≤ 7))) 0x06 0
    return (dir.map (fun e => (e.1, (bs.drop e.2.2.1).take e.2.2.2)), leNat bs (tr + 8) 1)

/-- The digest over sections in ascending TYPE order, each preceded by TYPE and LENGTH (R28). -/
def sectionsDigest (ss : Sections) (types : List Nat) : Digest :=
  Config.shake256 (types.flatMap (fun t =>
    let b := sectOf ss t
    if ss.any (fun e => e.1 == t) then leBytes 2 (BitVec.ofNat 16 t) ++ leBytes 4 (BitVec.ofNat 32 (b.length / 32)) ++ b else []))

/-! ## Reading the Wihorn sections -/

def gib : Nat := 2 ^ 30
/-- The end of populated memory, in bytes (R161). -/
def memTop : Nat := 0x18000000000
def massifBytes : Nat := 0x6000000000

def readCtxEntry (b : List Byte) (o : Nat) : CtxEntry :=
  let f := leNat b o 1
  { valid := f.testBit 0, pilot := f.testBit 1, keySlot := BitVec.ofNat 2 (f / 4), flowFirst := leNat b (o + 4) 2,
    flowCount := leNat b (o + 6) 2, ridges := BitVec.ofNat 128 (leNat b (o + 8) 16), accFirst := leNat b (o + 24) 2,
    branchMask := BitVec.ofNat 16 (leNat b (o + 26) 2), accCount := leNat b (o + 28) 4 }

def readRegion (b : List Byte) (c : Nat) : Region :=
  let o := 0x20 + 32 * c
  { winBase := leNat b o 8, winSize := leNat b (o + 8) 8, retBase := leNat b (o + 16) 8, retSize := leNat b (o + 24) 8 }

def readPlan (b : List Byte) : Plan :=
  { ownAddr := BitVec.ofNat 15 (leNat b 0 2), ropeSize := leNat b 2 2, ropeCount := leNat b 4 2, rangeLimit := leNat b 6 2,
    minDirect := leNat b 8 1, minUplinks := leNat b 9 1,
    ports := (List.range 96).map (fun p => BitVec.ofNat 32 (leNat b (0x20 + 4 * p) 4)),
    detour := (List.range 33).map (fun q => BitVec.ofNat 16 (leNat b (0x1A0 + 2 * q) 2)),
    groups := (List.range 512).map (fun g => BitVec.ofNat 32 (leNat b (0x200 + 4 * g) 4)) }

/-- The image its sections describe. -/
def readWihorn (bs : List Byte) (ss : Sections) : Wihorn :=
  let ctx := sectOf ss 1
  let mem := sectOf ss 4
  let th := sectOf ss 8
  let cm := sectOf ss 9
  let au := sectOf ss 10
  let rp := sectOf ss 11
  let t (i : Nat) : Byte := nth 0 th i
  { serial := BitVec.ofNat 64 (leNat bs 0x10 8), effStep := BitVec.ofNat 64 (leNat bs 0x18 8),
    effCtx := BitVec.ofNat 3 (leNat bs 0x20 1),
    contexts := (List.range 8).map (fun c => readCtxEntry ctx (64 * c)),
    fusion := BitVec.ofNat 128 (leNat (sectOf ss 2) 0 16), branches := BitVec.ofNat 512 (leNat (sectOf ss 3) 0 64),
    hdmBase := leNat mem 0 8, hdmSize := leNat mem 8 8, moraineBase := leNat mem 16 8, moraineSize := leNat mem 24 8,
    regions := (List.range 8).map (readRegion mem), plan := readPlan (sectOf ss 5),
    arbiter := (List.range 576).map (fun i => BitVec.ofNat 16 (leNat (sectOf ss 6) (2 * i) 2)),
    tied := leNat (sectOf ss 7) 0 1 == 1,
    thresholds := { jumpUp := t 0, jumpDown := t 1, agree := t 2, stormFraction := t 3, raiseFraction := t 4,
                    dropFraction := t 5, stormRun := t 6 },
    stormStep := leNat cm 0 1 == 1, rangeLimited := leNat cm 1 1 == 1, persistentStorm := leNat cm 2 1 == 1,
    interval := leNat au 0 2, rota := au.drop 32,
    repair := (List.range (leNat rp 0 4)).map (fun i => BitVec.ofNat 32 (leNat rp (32 + 4 * i) 4)),
    structDigest := sectionsDigest ss [1, 2, 3, 4, 5, 6, 7], policyDigest := sectionsDigest ss [8, 9, 10] }

/-- The ranges of the system: those whose PRESENT bit is set (R379). -/
def Plan.present (p : Plan) : List Nat := (List.range 512).filter (fun g => bit (nth 0 p.groups g) 31)

/-- The system has more than one module: a range is present, or the ropes hold more than one member. The second half is the
model's reading where no range is present and ROPE_SIZE × ROPE_COUNT is not 1 (DESIGN CHOICE, notes/assumptions/145.md). -/
def Plan.many (p : Plan) : Bool := !p.present.isEmpty || p.ropeSize * p.ropeCount != 1

/-- Active positions in ascending order; a single-module system's one (R22, R379). -/
def Plan.positions (p : Plan) : List Nat :=
  if p.present.isEmpty then [field p.ownAddr 6 9 * 32 + field p.ownAddr 0 6]
  else p.present.flatMap (fun g => (List.range 32).map (fun k => 32 * g + k))

/-! ## Field checks (R27 item 6) -/

def inRange (lo hi v : Nat) : Bool := decide (lo ≤ v) && decide (v ≤ hi)

/-- CONTEXTS (R313, R195). -/
def contextsOk (b : List Byte) (w : Wihorn) : Bool :=
  let ds := w.contexts.filter (·.valid)
  decide (512 ≤ b.length) && zerosAt b 512 b.length
  && (List.range 8).all (fun c => decide (leNat b (64 * c) 1 < 16) && zerosAt b (64 * c + 1) 3 && zerosAt b (64 * c + 32) 32)
  && w.contexts.all (fun e => decide (e.flowFirst ≤ 32767) && decide (e.flowCount ≤ 32768) && decide (e.accFirst + e.accCount ≤ 65536))
  && ds.all (fun e => e.ridges != 0 && decide (e.flowFirst + e.flowCount ≤ 32768))
  && disjoint (ds.map (fun e => (e.flowFirst, e.flowCount))) && disjoint (ds.map (fun e => (e.accFirst, e.accCount)))

/-- MEMORY (R182). -/
def memoryOk (b : List Byte) (w : Wihorn) : Bool :=
  let fits (base size : Nat) : Bool := size == 0 || decide (base + size ≤ memTop)
  decide (288 ≤ b.length) && zerosAt b 288 b.length
  && w.hdmBase % (4 * gib) == 0 && w.hdmSize % (4 * gib) == 0 && inRange (4 * gib) (1024 * gib) w.hdmSize && fits w.hdmBase w.hdmSize
  && w.moraineBase % (gib / 2) == 0 && w.moraineSize % (gib / 2) == 0 && inRange gib (8 * gib) w.moraineSize
  && fits w.moraineBase w.moraineSize && w.moraineBase / massifBytes == (w.moraineBase + w.moraineSize - 1) / massifBytes
  && w.regions.all (fun r => r.winBase % gib == 0 && r.winSize % gib == 0 && r.retBase % gib == 0 && r.retSize % gib == 0
    && decide (r.winSize ≤ 1536 * gib) && decide (r.retSize ≤ 1536 * gib) && fits r.winBase r.winSize && fits r.retBase r.retSize)
  && (w.contexts.zip w.regions).all (fun e => !e.1.valid || e.2.winSize != 0)

/-- PLAN (R379, Table 02-5, Table 02-15). A PRESENT range at or above RANGE_LIMIT fails here, with BAD_FIELD (DESIGN CHOICE,
notes/assumptions/145.md). -/
def planOk (b : List Byte) (p : Plan) : Bool :=
  decide (2560 ≤ b.length) && zerosAt b 2560 b.length && !(leNat b 0 2).testBit 15
  && inRange 1 16384 p.ropeSize && inRange 1 16384 p.ropeCount && inRange 1 512 p.rangeLimit
  && decide (p.minDirect ≤ 32) && decide (p.minUplinks ≤ 32) && zerosAt b 0x0A 22 && zerosAt b 0x1E2 30
  && p.ports.all (fun e => field e 29 2 != 3 && decide (field e 7 7 ≤ 95) && field e 0 7 == 0)
  && p.detour.all (fun e => field e 6 2 == 0 && field e 14 2 == 0)
  && p.groups.zipIdx.all (fun e => field e.1 16 15 == 0 && (!bit e.1 31 || decide (e.2 < p.rangeLimit)))

/-- ARBITER (R382): reserved words. -/
def arbiterOk (b : List Byte) : Bool :=
  decide (1152 ≤ b.length) && zerosAt b 1152 b.length && (List.range 128).all (fun g => zerosAt b (8 * g + 6) 2)
  && (List.range 4).all (fun m => zerosAt b (0x412 + 32 * m) 14)

/-- AUDIT (R380). -/
def auditOk (b : List Byte) (w : Wihorn) : Bool :=
  let rows := if w.plan.present.isEmpty then 0 else w.plan.positions.length
  let n := rows * w.interval
  decide (32 + n ≤ b.length) && inRange 8 256 w.interval && zerosAt b 2 30 && zerosAt b (32 + n) b.length
  && (w.rota.take n).all (fun v => v == 0xFF || decide (v.toNat ≤ 31))

/-- REPAIR (R381). -/
def repairOk (b : List Byte) (w : Wihorn) : Bool :=
  let n := leNat b 0 4
  decide (32 + 4 * n ≤ b.length) && zerosAt b 4 28 && zerosAt b (32 + 4 * n) b.length
  && w.repair.all (fun e => field e 26 6 == 0 && field e 19 5 == 0 && field e 13 3 == 0 && decide (field e 16 3 ≤ 3)
    && (field e 24 2 == 1 || field e 24 2 == 2))
  && decide ((w.repair.map (fun e => (field e 0 13, field e 16 3))).eraseDups.length = n)

/-- The field check of one section. -/
def wihornField (w : Wihorn) (t : Nat) (b : List Byte) : Bool :=
  let fixed (n used : Nat) : Bool := decide (n ≤ b.length) && zerosAt b used b.length
  if t = 1 then contextsOk b w
  else if t = 2 then fixed 32 16
  else if t = 3 then fixed 64 64
  else if t = 4 then memoryOk b w
  else if t = 5 then planOk b w.plan
  else if t = 6 then arbiterOk b
  else if t = 7 then fixed 32 1 && decide (leNat b 0 1 ≤ 1)
  else if t = 8 then
    fixed 32 7 && inRange 0x08 0x80 (leNat b 0 1) && inRange 0x08 0x80 (leNat b 1 1) && inRange 0x01 0x10 (leNat b 2 1)
    && inRange 1 255 (leNat b 3 1) && inRange 1 255 (leNat b 4 1) && inRange 1 255 (leNat b 5 1) && inRange 2 255 (leNat b 6 1)
  else if t = 9 then fixed 32 3 && decide (leNat b 0 1 ≤ 1) && decide (leNat b 1 1 ≤ 1) && decide (leNat b 2 1 ≤ 1)
  else if t = 10 then auditOk b w
  else repairOk b w

/-! ## Consistency checks (Table 02-8) -/

/-- The ridges of the declared contexts. -/
def Wihorn.ownedRidges (w : Wihorn) : BitVec 128 := (w.contexts.filter (·.valid)).foldl (fun a e => a ||| e.ridges) 0

/-- The branch number of a ridge. -/
def Wihorn.branchOf (w : Wihorn) (g : Nat) : Nat := field w.branches (4 * g) 4

/-- The weights R178 and R382 ask for, word by word. -/
def arbiterWanted (owned fusion : BitVec 128) : List (BitVec 16) :=
  let total (m : Nat) : Nat := 128 * ((List.range 32).filter (fun g => owned.getLsbD (32 * m + g))).length
  let ring (m : Nat) : Nat := total (m % 4) + 2
  let ridge (g : Nat) : List Nat :=
    if owned.getLsbD g then [1, if fusion.getLsbD g then 8 else 2, 128, 0] else [0, 0, 0, 0]
  let massif (m : Nat) : List Nat :=
    [2, 3, 2, ring m, ring (m + 3), total m + 5, ring (m + 3) + ring (m + 2), ring (m + 1), 1, 0, 0, 0, 0, 0, 0, 0]
  ((List.range 128).flatMap ridge ++ (List.range 4).flatMap massif).map (BitVec.ofNat 16)

/-- The rota's byte for a position and a rota index. -/
def Wihorn.rotaAt (w : Wihorn) (pos i : Nat) : Option Nat :=
  match w.plan.positions.findIdx? (· == pos) with
  | none => none
  | some j => if w.plan.present.isEmpty then none
    else match w.rota[j * w.interval + i]? with
      | some v => if v = 0xFF then none else some v.toNat
      | none => none

/-- AUDIT of Table 02-8. -/
def auditBad (w : Wihorn) : Bool :=
  let ps := w.plan.positions
  let rope (p : Nat) : Nat := (ps.findIdx (· == p)) / max 1 w.plan.ropeSize
  let rows := List.range w.interval
  w.plan.many && (
    ps.any (fun p => rows.any (fun i => match w.rotaAt p i with
      | some k => let q := 32 * (p / 32) + k
        q == p || rope q != rope p || (w.rotaAt q i).isSome
      | none => false))
    || ps.any (fun p => rows.all (fun i => (w.rotaAt p i).isNone)))

/-- The failed checks of Table 02-8 from 0x10 on, lowest CAUSE first, each with its section. -/
def wihornFaults (w : Wihorn) : List (Nat × Nat) :=
  let cs := w.contexts.filter (·.valid)
  let masks := cs.map (·.ridges)
  let p := w.plan
  let slot := field p.ownAddr 0 6
  let valid := p.ports.filter (fun e => bit e 31)
  let rng := valid.filter (fun e => field e 29 2 == 1)
  let ups := (valid.filter (fun e => field e 29 2 == 2)).length
  let peers := (rng.map (fun e => field e 14 6)).eraseDups
  let rs := (w.contexts.zip w.regions).filter (·.1.valid)
  let wins := rs.map (fun e => (e.2.winBase, e.2.winSize))
  let res := (w.moraineBase, w.moraineSize) :: rs.map (fun e => (e.2.retBase, e.2.retSize))
  let th := w.thresholds
  let faults : List (Bool × Nat × Nat) := [
    (masks.zipIdx.any (fun a => masks.zipIdx.any (fun b => decide (a.2 < b.2) && (a.1 &&& b.1) != 0)), 0x10, 1),
    ((List.range 128).any (fun g => match cs.find? (fun e => e.ridges.getLsbD g) with
      | some e => !e.branchMask.getLsbD (w.branchOf g)
      | none => w.branchOf g != 0), 0x11, 3),
    (!disjoint wins || ((w.hdmBase, w.hdmSize) :: wins).any (fun a => res.any (fun b => !disjoint [a, b])), 0x12, 4),
    (decide (1536 * gib < ((wins ++ res).map (·.2)).foldl (· + ·) 0), 0x13, 4),
    (p.many && p.ropeCount == 1, 0x14, 5),
    (2 ^ log2Nat p.ropeSize != p.ropeSize || p.ropeSize * p.ropeCount != (if p.present.isEmpty then 1 else 32 * p.present.length), 0x15, 5),
    (decide (32 < slot) || (!p.many && slot == 32) || rng.any (fun e => decide (32 < field e 14 6) || field e 14 15 == p.ownAddr.toNat)
      || (p.many && (rng.length != 64 || ups != 32)), 0x16, 5),
    (p.many && (List.range 33).any (fun q => q != slot && [field (nth 0 p.detour q) 0 6, field (nth 0 p.detour q) 8 6].any (fun v =>
      v == slot || v == q || !peers.contains v)), 0x17, 5),
    (decide (peers.length < p.minDirect) || decide (ups < p.minUplinks), 0x18, 5),
    (w.arbiter != arbiterWanted w.ownedRidges w.fusion, 0x19, 6),
    (decide (th.jumpUp.toNat ≤ th.agree.toNat) || decide (th.jumpDown.toNat ≤ th.agree.toNat), 0x1A, 8),
    (auditBad w, 0x1B, 10)]
  (faults.filter (·.1)).map (·.2)

/-- R27 and R30 on a Wihorn image, without SCHEDULE_BOUND and LATE_STEP. -/
def checkWihorn (keys : List KeySlot) (bs : List Byte) : Except (Nat × Nat) Wihorn :=
  match checkContainer wihornKind keys bs with
  | .error e => .error e
  | .ok (ss, _) =>
    let w := readWihorn bs ss
    match (wihornKind.known.filter (fun t => ss.any (fun e => e.1 == t))).find? (fun t => !wihornField w t (sectOf ss t)) with
    | some t => .error (0x06, t)
    | none => match wihornFaults w with
      | e :: _ => .error e
      | [] => .ok w

/-! ## The factory default structure (Table 02-9) -/

def le (n v : Nat) : List Byte := leBytes n (BitVec.ofNat 512 v)
def pad (n : Nat) (bs : List Byte) : List Byte := bs ++ List.replicate (n - bs.length) 0

def factoryContexts : List Byte :=
  pad 512 ([1, 0, 0, 0] ++ le 2 0 ++ le 2 32768 ++ le 16 (2 ^ 128 - 1) ++ le 2 0 ++ le 2 1 ++ le 4 65536)
def factoryMemory : List Byte :=
  pad 288 (le 8 0 ++ le 8 (4 * gib) ++ le 8 0x17F80000000 ++ le 8 (2 * gib) ++ le 8 0 ++ le 8 (1534 * gib))
def factoryPlan : List Byte := pad 2560 (le 2 0 ++ le 2 1 ++ le 2 1 ++ le 2 1)
def factoryArbiter : List Byte := (arbiterWanted (BitVec.allOnes 128) 0).flatMap (leBytes 2)

/-- The factory default sections; REPAIR is absent. -/
def factorySections : Sections :=
  [(1, factoryContexts), (2, pad 32 []), (3, pad 64 []), (4, factoryMemory), (5, factoryPlan), (6, factoryArbiter), (7, pad 32 []),
   (8, pad 32 [0x20, 0x20, 4, 32, 8, 128, 8]), (9, pad 32 []), (10, pad 32 (le 2 32))]

/-- The factory default structure as the flash holds it, signed under key slot 0 (R33, R339). -/
def factoryImage : List Byte :=
  let start := 0x40 + 16 * 10
  let total := start + ((factorySections.map (·.2.length)).foldl (· + ·) 0) + trailerBytes
  let dir := (factorySections.foldl (fun (a : List Byte × Nat) e =>
    (a.1 ++ le 2 e.1 ++ le 2 0 ++ le 4 (e.2.length / 32) ++ le 8 a.2, a.2 + e.2.length)) ([], start)).1
  let body := le 4 0x4B475749 ++ le 2 2 ++ le 2 10 ++ le 8 total ++ leBytes 8 Config.factorySerial ++ le 8 0 ++ pad 32 []
    ++ dir ++ factorySections.flatMap (·.2)
  body ++ leBytes 8 (crc64 body) ++ pad 8 [] ++ pad 1280 Config.factorySignature ++ pad 16 []

/-! ## Repairs and the shape table (R107 to R111, R42) -/

/-- Some context's run holds the module busy: RUNNING or HELD (R35). -/
def State.idle (s : State) : Bool := !allCtx.any (fun c => (s.ctx c).state == 3 || (s.ctx c).state == 4)

/-- A shape-table entry changed. -/
def State.shapeChanged (s : State) : State := { s with img := { s.img with shapeGen := s.img.shapeGen + 1 } }

/-- Maps out physical row p of a tor from a source (1 fuse, 2 REPAIR, 3 runtime): its count clears (R108); with another
row mapped out already, or one staged where a REPAIR section forces this one out (R111), the tor is (R110). -/
def State.mapOutTor (s : State) (t : TorIdx) : State :=
  let r := s.tor t
  if r.mappedOut then s.setTor t { r with stagedTor := false, stagedOut := 7 }
  else (s.setTor t { r with mappedOut := true, stagedTor := false, stagedOut := 7, state := 5 }).shapeChanged

def State.mapOutRow (s : State) (t : TorIdx) (p : Nat) (source : BitVec 2) : State :=
  let r := s.tor t
  let kept := if r.stagedOut = BitVec.ofNat 3 p then 7 else r.stagedOut
  if r.mappedOut ∨ r.rowOut = BitVec.ofNat 3 p then s.setTor t { r with stagedOut := kept }
  else if r.rowOut ≠ 7 ∨ (source = 2 ∧ kept ≠ 7) then s.mapOutTor t
  else
    (s.setTor t { (r.setRowCount p 0).setDelays (BitVec.ofNat 3 p) with
      rowOut := BitVec.ofNat 3 p, source := source, stagedOut := kept }).shapeChanged

/-- Applies what the module staged for a tor (R108, R110). -/
def State.applyStaged (s : State) (t : TorIdx) : State :=
  let r := s.tor t
  if r.stagedTor then s.mapOutTor t
  else if r.stagedOut ≠ 7 then s.mapOutRow t r.stagedOut.toNat 3 else s

/-- Tors with a staged change. -/
def State.stagedTors (s : State) : List TorIdx :=
  (s.tors.filter (fun e => e.2.stagedTor || e.2.stagedOut != 7)).map (fun e => BitVec.ofNat 13 e.1)

def State.applyRepairs (s : State) : State := s.stagedTors.foldl State.applyStaged s

/-- A REPAIR section applies (R109): a staged map-out of a forbidden row is dropped (Table 06-3); forced rows go out. -/
def State.applyRepairSection (s : State) (w : Wihorn) : State :=
  let s := s.stagedTors.foldl (fun s t =>
    let r := s.tor t
    if r.stagedOut ≠ 7 ∧ w.repairHas t.toNat r.stagedOut.toNat 2 then
      (s.setTor t { r with stagedOut := 7 }).raise 0x22 t.toNat else s) s
  w.repair.foldl (fun s e => if field e 24 2 = 1 then s.mapOutRow (e.extractLsb' 0 13) (field e 16 3) 2 else s) s

/-- RIDGE[g]: tors present, cube rows repaired (Table 02-13). -/
def State.ridgeEntry (s : State) (g : Nat) : BitVec 16 :=
  let ts := (List.range 64).map (fun i => (BitVec.ofNat 13 (64 * g + i) : TorIdx))
  BitVec.ofNat 16 ((ts.filter s.torUsable).length + 128 * ((ts.filter (fun t => (s.tor t).rowOut != 7)).length % 128))

/-- TOR[i]: spare row in use, mapped out. -/
def State.torEntryByte (s : State) (i : Nat) : Byte :=
  let r := s.tor (BitVec.ofNat 13 i)
  BitVec.ofNat 8 (boolNat (r.rowOut != 7) + 2 * boolNat r.mappedOut)

/-- MEM_GIB[m]: memory of massif m outside the reserved regions. -/
def State.memGib (s : State) (m : Nat) : Nat :=
  let w := s.img.active
  let lo := m * massifBytes
  let hi := lo + massifBytes
  let part (b n : Nat) : Nat := min (b + n) hi - max b lo
  let res := (w.moraineBase, w.moraineSize) :: ((w.contexts.zip w.regions).filter (·.1.valid)).map (fun e => (e.2.retBase, e.2.retSize))
  (massifBytes - (res.map (fun r => part r.1 r.2)).foldl (· + ·) 0) / gib

/-- Working range links, up-links and direct peers at this moment. -/
def State.workingLinks (s : State) : Nat × Nat × Nat :=
  ((allPorts.filter (fun p => s.portClass p == 1 && (s.port p).state == 3)).length, s.upLinks.length, s.directPeers)

/-- The LINKS entry as the links stand. -/
def State.linksNow (s : State) : Word :=
  let l := s.workingLinks
  put l.1 0 16 ||| put l.2.1 16 16 ||| put l.2.2 32 16

/-- Brings the LINKS entry up to date: at a cairn instant, or at once while idle (R42). -/
def State.refreshLinks (s : State) : State :=
  if s.img.shapeLinks = s.linksNow then s else { s with img := { s.img with shapeLinks := s.linksNow } }.shapeChanged

def State.refreshIfIdle (s : State) : State := if s.idle then s.refreshLinks else s

/-! ## Applying a Wihorn image (R36) -/

/-- Contexts follow the CONTEXTS section: declared ones are at least EMPTY, others DOWN (R313, Table 15-4). -/
def State.declareContexts (s : State) : State :=
  allCtx.foldl (fun s c =>
    let x := s.ctx c
    if (nth {} s.img.active.contexts c.toNat).valid then (if x.state = 0 then s.setCtx c { x with state := 1 } else s)
    else if x.state = 1 then s.setCtx c { x with state := 0 } else s) s

/-- The ridges whose RIDGE entry a new FUSION section can move: their bit changes and they hold a mapped-out tor. -/
def State.fusionRidges (s : State) (w : Wihorn) : List Nat :=
  (List.range 128).filter (fun g => w.fusion.getLsbD g != s.img.active.fusion.getLsbD g
    && s.tors.any (fun e => e.2.mappedOut && e.1 / 64 == g))

/-- A REPAIR section's force-outs that took a whole tor which a loaded image needs, with nothing staged before
(Table 06-3): the module withdraws and raises SHAPE_LOST (R42, R272). -/
def State.noteLostTors (s o : State) (w : Wihorn) : State :=
  let ts := (w.repair.map (fun e => (e.extractLsb' 0 13 : TorIdx))).filter (fun t =>
    (s.tor t).mappedOut && !(o.tor t).mappedOut && !(o.tor t).stagedTor && s.torNeeded t)
  if ts.isEmpty then s else s.sendWithdraw.raise 0x14 0

/-- An image takes effect as a whole; `source` is ACTIVE_SOURCE. Its MEM_GIB and RIDGE entries change at once (R42). -/
def State.applyWihorn (s : State) (w : Wihorn) (source : BitVec 2) : State :=
  let gs := s.fusionRidges w
  let was := ((List.range 4).map s.memGib, gs.map s.ridgeEntry)
  let s := { s with img := { s.img with active := w, activeSource := source } }
  let s := if ((List.range 4).map s.memGib, gs.map s.ridgeEntry) = was then s else s.shapeChanged
  let s := ((s.applyRepairSection w).noteLostTors s w).declareContexts
  { s with crn := { s.crn with ownSlot := w.plan.ownAddr.extractLsb' 0 6 } }

/-- A structure change is barred: the module is not idle (R36), or a schedule image is loaded (R41). R41 bars the change and
names no outcome for it in an idle module; the model refuses with SCHEDULE_BOUND there too (DESIGN CHOICE,
notes/assumptions/145.md). -/
def State.bound (s : State) (w : Wihorn) : Bool :=
  w.structDigest != s.img.active.structDigest && (!s.idle || allCtx.any (fun c => (s.ctx c).image.isSome))

/-- A refusal reported in IMG_STATUS (R3, R27, R35): only here do CAUSE and FAILED_SECTION change. -/
def State.reportRefusal (s : State) (cause sect : Nat) : State :=
  { s with img := { s.img with cause := BitVec.ofNat 8 cause, failedSection := BitVec.ofNat 16 sect } }

/-- The refusal of a staged image (R35): LAST_OUTCOME reads REFUSED. -/
def State.refuseImage (s : State) (cause sect : Nat) : State :=
  { s with img := { s.img with lastOutcome := 3 } }.reportRefusal cause sect

/-- The pending image at its switchover instant (R36): applied, or refused with SCHEDULE_BOUND. -/
def State.switchover (s : State) : State :=
  let w := s.img.pending
  let bad := s.bound w
  let s := { s with img := { s.img with stage := .empty, stagedBytes := none, pending := {} } }
  if bad then s.refuseImage 0x1C 0
  else
    let s := s.applyWihorn w 3
    { s with img := { s.img with lastOutcome := 1, defaulted := false } }

/-- A pending image for the next switchover applies at once in an idle module (R36). -/
def State.switchIfIdle (s : State) : State :=
  if s.img.stage = .pending ∧ s.img.pending.effStep = 0 ∧ s.idle then s.switchover else s

/-- What an idle module applies at once: staged repairs (R108), the pending image (R36), the LINKS entry (R42). -/
def State.onIdle (s : State) : State := if s.idle then ((s.switchIfIdle.applyRepairs).returnPorts).refreshLinks else s

/-! ## STAGE, DISCARD, the end of the checks (R35, R38) -/

/-- The reserved regions: the moraine and the declared contexts' retained regions (R182). -/
def State.reservedRegions (s : State) : List (Nat × Nat) :=
  let w := s.img.active
  (w.moraineBase, w.moraineSize) :: ((w.contexts.zip w.regions).filter (·.1.valid)).map (fun e => (e.2.retBase, e.2.retSize))

/-- A byte range enters a reserved region. -/
def State.inReserved (s : State) (a n : Nat) : Bool :=
  s.reservedRegions.any (fun r => r.2 != 0 && decide (a < r.1 + r.2) && decide (r.1 < a + n))

/-- STAGE (R35): a copy of the image is taken; BUSY while one is in hand. An uncorrectable burst contains (R27). -/
def State.stageImage (s : State) : State :=
  if s.img.stage ≠ .empty then s.refuseImage 0x1E 0
  else
    let a := s.img.stageAddr.toNat
    let n := s.img.stageLen.toNat
    if memTop < 32 * (a + n) ∨ s.inReserved (32 * a) (32 * n) then s.refuseImage 0x07 0
    else match s.readBursts 1 ((List.range n).map (a + ·)) with
      | (some bs, s, _) =>
        { s with img := { s.img with stage := .checking, stagedBytes := some (bs.flatMap (fun b => leBytes 32 (payload b))) } }
      | (none, s, poison) => if poison then s.refuseImage 0x07 0 else s

/-- DISCARD (R38). -/
def State.discardImage (s : State) : State :=
  match s.img.stage with
  | .empty => if s.img.lastOutcome = 1 then { s with img := { s.img with lastOutcome := 4 } } else s
  | _ => { s with img := { s.img with stage := .empty, stagedBytes := none, pending := {}, lastOutcome := 2 } }

/-- STAGE: the bit of IMG_CONTROL. BAR0 answers from the end of bring-up step 4 (R356). -/
def execStage (s : State) : Host.Outcome State Fault Refusal :=
  .next (if s.barAnswers && s.err.containState != 1 then s.stageImage else s)

/-- DISCARD. -/
def execDiscard (s : State) : Host.Outcome State Fault Refusal :=
  .next (if s.barAnswers && s.err.containState != 1 then s.discardImage else s)

/-- A run has passed the cairn instant of step EFFECTIVE_STEP − 1 of context EFFECTIVE_CTX (LATE_STEP). -/
def State.lateFor (s : State) (w : Wihorn) : Bool :=
  let x := s.ctx w.effCtx
  w.effStep != 0 && (x.state == 3 || x.state == 4) && decide (w.effStep.toNat ≤ x.step.toNat)

/-- IMAGE_CHECK_DONE: the checks of the CHECKING image end (R27, R30, R35). -/
def execImageCheckDone (s : State) : Host.Outcome State Fault Refusal :=
  .next (match s.img.stage, s.img.stagedBytes with
    | .checking, some bs =>
      if !s.powered || s.err.containState == 1 then s
      else
        let fail (s : State) (c f : Nat) : State := ({ s with img := { s.img with stage := .empty, stagedBytes := none } }).refuseImage c f
        (match checkWihorn s.fuses.keys bs with
          | .error (c, f) => fail s c f
          | .ok w =>
            if s.bound w then fail s 0x1C 0
            else if s.lateFor w then fail s 0x1D 0
            else ({ s with img := { s.img with stage := .pending, pending := w } }).switchIfIdle.refreshIfIdle)
    | _, _ => s)

end Sys2Proof.Machine
end

