-- ==== Sys2Proof/Machine/Schedule.lean ====
section
/-! DEFINITION. The schedule image (R39, R383 to R388): reading its sections, the field checks that every chapter asks
for (R116, R120, R122 to R130, R152, R208, R214, R221, R222, R230, R234), and the consistency checks of Table 02-12. -/

namespace Sys2Proof.Machine
open Sys2Proof

/-! ## Reading -/

/-- Entry i of a table of n-byte entries at an offset, as a vector. -/
def tabEntry (w : Nat) (b : List Byte) (off n i : Nat) : BitVec w := BitVec.ofNat w (leNat b (off + n * i) n)

/-- A table of `count` entries of n bytes whose offset is the 8 bytes at `at'`. -/
def tabAt (w : Nat) (b : List Byte) (at' count n : Nat) : List (BitVec w) := (List.range count).map (tabEntry w b (leNat b at' 8) n)

/-- A table's place: a multiple of 32, wholly inside (R378). -/
def tabOk (b : List Byte) (off size : Nat) : Bool := off % 32 == 0 && decide (off + size ≤ b.length)

def roundTo32 (n : Nat) : Nat := (n + 31) / 32 * 32

/-- The parts of a stream: word, tile and drain offsets with their byte sizes (R386). -/
def streamParts (b : List Byte) (i : Nat) : (Nat × Nat) × (Nat × Nat) × (Nat × Nat) :=
  let h := 32 + 32 * i
  let off := leNat b h 8
  let nw := 16 * leNat b (h + 8) 4
  let nt := 32 * leNat b (h + 12) 4
  let nd := 8 * leNat b (h + 16) 4
  let t := roundTo32 (off + nw)
  ((off, nw), (t, nt), (roundTo32 (t + nt), nd))

def readStream (b : List Byte) (i : Nat) : Stream :=
  let (w, t, d) := streamParts b i
  { words := (List.range (w.2 / 16)).map (tabEntry 128 b w.1 16), tiles := (List.range (t.2 / 32)).map (tabEntry 256 b t.1 32),
    drains := (List.range (d.2 / 8)).map (tabEntry 64 b d.1 8) }

/-- The schedule its sections describe. -/
def readSched (ss : Sections) (keySlot : Nat) : Sched :=
  let bd := sectOf ss 0x101
  let m := sectOf ss 0x102
  let p := sectOf ss 0x103
  let g := sectOf ss 0x104
  let st := sectOf ss 0x105
  let al := sectOf ss 0x106
  let co := sectOf ss 0x107
  let streams := (List.range (leNat g 0 4)).map (readStream g)
  let nAlt := leNat al 0 4
  let tors := (tabAt 256 p 0x20 (leNat p 4 4) 32).map (fun e =>
    let stream := field e 32 32
    let st : Stream := nth { words := [], tiles := [], drains := [] } streams stream
    ({ tor := field e 0 16, stream := stream, map := (p.drop (field e 64 64)).take (st.words.length + st.tiles.length) } : TorEntry))
  { keySlot := BitVec.ofNat 2 keySlot, bindDigest := ofLe 512 (bd.take 64), ctx := leNat bd 0x40 1,
    needMem := (List.range 4).map (fun i => leNat bd (0x48 + 2 * i) 2), needRange := leNat bd 0x50 1, needUp := leNat bd 0x51 1,
    needPeers := leNat bd 0x52 1,
    descs := tabAt 512 m 0x20 (leNat m 0 4) 64, params := tabAt 256 m 0x28 (leNat m 4 4) 32,
    groups := tabAt 512 m 0x30 (leNat m 8 2) 64, scheds := tabAt 512 m 0x38 (leNat m 0x0A 1) 64,
    multi := (tabAt 64 m 0x40 (leNat m 0x0C 4) 8).map (fun e => (field e 0 32, field e 32 8)),
    seed := BitVec.ofNat 64 (leNat m 0x10 8), gMax := BitVec.ofNat 32 (leNat m 0x18 4),
    position := leNat p 0 2, mbCount := leNat p 2 1, tors := tors,
    positions := (tabAt 32 p 0x28 (leNat p 8 4) 4).map (fun e => (field e 0 16, field e 16 8)),
    shards := (tabAt 128 p 0x30 (leNat p 0x0C 4) 16).map (fun e =>
      ({ param := field e 0 32, member := field e 32 16, first := field e 64 32, count := field e 96 32 } : ShardEntry)),
    inputs := (tabAt 256 p 0x38 (leNat p 2 1) 32).map (fun e => (field e 0 64, field e 64 64, field e 128 64, field e 192 64)),
    swbBase := leNat p 0x10 8, recordBase := leNat p 0x18 8, phases := (p.drop (leNat p 0x40 8)).take nAlt,
    streams := streams, loads := (List.range (leNat st 0 4)).map (tabEntry 256 st 32 32),
    alts := (List.range nAlt).map (tabEntry 256 al 32 32),
    plans := (List.range (leNat co 0 4)).map (fun k =>
      let h := leNat co 0x10 8 + 16 * k
      (List.range (leNat co (h + 8) 4)).map (tabEntry 256 co (leNat co h 8) 32)),
    posList := (tabAt 16 co 0x18 (leNat co 4 4) 2).map (·.toNat),
    tokens := (tabAt 64 co 0x20 (leNat co 8 4) 8).map (fun e => (field e 0 17, field e 32 16, field e 48 16)),
    routes := tabAt 16 co 0x28 512 2, cairnTree := tabAt 16 co 0x30 512 2,
    modelDigest := Config.shake256 m, placementDigest := sectionsDigest ss [0x103, 0x104, 0x105, 0x106, 0x107] }

/-! ## Layouts (R378, R383 to R388) -/

/-- BIND (Table 02-18): lengths, reserved bytes, and the ranges of CONTEXT and of the link figures. -/
def bindOk (b : List Byte) : Bool :=
  decide (96 ≤ b.length) && zerosAt b 0x41 7 && zerosAt b 0x53 13 && zerosAt b 96 b.length
  && decide (leNat b 0x40 1 ≤ 7) && decide (leNat b 0x50 1 ≤ 64) && decide (leNat b 0x51 1 ≤ 32) && decide (leNat b 0x52 1 ≤ 32)

/-- The tables of MODEL with their sizes. -/
def modelTables (b : List Byte) : List (Nat × Nat) :=
  [(leNat b 0x20 8, 64 * leNat b 0 4), (leNat b 0x28 8, 32 * leNat b 4 4), (leNat b 0x30 8, 64 * leNat b 8 2),
   (leNat b 0x38 8, 64 * leNat b 0x0A 1), (leNat b 0x40 8, 8 * leNat b 0x0C 4)]

def modelLayoutOk (b : List Byte) (im : Sched) : Bool :=
  let ts := modelTables b
  decide (96 ≤ b.length) && ts.all (fun t => tabOk b t.1 t.2) && inRange 1 65536 (leNat b 0 4) && zerosAt b 0x0B 1 && zerosAt b 0x1C 4
  && zerosAt b 0x48 24 && restZero b ((0, 96) :: ts)
  && (tabAt 64 b 0x40 (leNat b 0x0C 4) 8).all (fun e => field e 40 24 == 0)
  && im.multi.all (fun e => decide (e.1 < im.params.length) && inRange 2 16 e.2)

def placementTables (b : List Byte) (im : Sched) : List (Nat × Nat) :=
  [(leNat b 0x20 8, 32 * leNat b 4 4), (leNat b 0x28 8, 4 * leNat b 8 4), (leNat b 0x30 8, 16 * leNat b 0x0C 4),
   (leNat b 0x38 8, 32 * leNat b 2 1), (leNat b 0x40 8, im.alts.length)]
  ++ (tabAt 256 b 0x20 (leNat b 4 4) 32).zipIdx.map (fun e =>
    let st : Stream := nth { words := [], tiles := [], drains := [] } im.streams (field e.1 32 32)
    (field e.1 64 64, st.words.length + st.tiles.length))

def placementLayoutOk (b : List Byte) (im : Sched) : Bool :=
  let ts := placementTables b im
  decide (96 ≤ b.length) && ts.all (fun t => tabOk b t.1 t.2) && inRange 1 16 im.mbCount && zerosAt b 3 1 && zerosAt b 0x48 24
  && restZero b ((0, 96) :: ts) && im.swbBase % 32 == 0 && im.recordBase % 1024 == 0
  && (tabAt 256 b 0x20 (leNat b 4 4) 32).all (fun e => field e 16 16 == 0 && field e 128 128 == 0)
  && (tabAt 32 b 0x28 (leNat b 8 4) 4).all (fun e => field e 24 8 == 0)
  && (tabAt 128 b 0x30 (leNat b 0x0C 4) 16).all (fun e => field e 48 16 == 0)

def programsLayoutOk (b : List Byte) (im : Sched) : Bool :=
  let n := leNat b 0 4
  let ps := (List.range n).map (streamParts b)
  decide (32 + 32 * n ≤ b.length) && zerosAt b 4 28
  && ps.all (fun p => p.1.1 % 32 == 0 && decide (p.1.1 + p.1.2 ≤ b.length) && decide (p.2.1.1 + p.2.1.2 ≤ b.length)
      && decide (p.2.2.1 + p.2.2.2 ≤ b.length))
  && im.streams.all (fun s => decide (s.tiles.length ≤ 1048576) && decide (s.drains.length ≤ 65536))
  && (List.range n).all (fun i => zerosAt b (32 + 32 * i + 20) 12)
  && restZero b ((0, 32 + 32 * n) :: ps.flatMap (fun p => [p.1, p.2.1, p.2.2]))

def countedLayoutOk (b : List Byte) (limit : Nat) : Bool :=
  let n := leNat b 0 4
  decide (32 + 32 * n ≤ b.length) && decide (n ≤ limit) && zerosAt b 4 28 && zerosAt b (32 + 32 * n) b.length

def collectivesTables (b : List Byte) : List (Nat × Nat) :=
  let n := leNat b 0 4
  [(leNat b 0x10 8, 16 * n), (leNat b 0x18 8, 2 * leNat b 4 4), (leNat b 0x20 8, 8 * leNat b 8 4), (leNat b 0x28 8, 1024),
   (leNat b 0x30 8, 1024)]
  ++ (List.range n).map (fun k => let h := leNat b 0x10 8 + 16 * k; (leNat b h 8, 32 * leNat b (h + 8) 4))

def collectivesLayoutOk (b : List Byte) : Bool :=
  let ts := collectivesTables b
  decide (64 ≤ b.length) && ts.all (fun t => tabOk b t.1 t.2) && zerosAt b 0x0C 4 && zerosAt b 0x38 8 && restZero b ((0, 64) :: ts)
  && (List.range (leNat b 0 4)).all (fun k => zerosAt b (leNat b 0x10 8 + 16 * k + 12) 4)
  && (tabAt 64 b 0x20 (leNat b 8 4) 8).all (fun e => field e 17 15 == 0)
  && (tabAt 16 b 0x28 512 2).all (fun e => field e 6 2 == 0 && field e 14 2 == 0)
  && (tabAt 16 b 0x30 512 2).all (fun e => decide (e.toNat < 512) || decide (0xFFFE ≤ e.toNat))

def schedLayoutOk (im : Sched) (t : Nat) (b : List Byte) : Bool :=
  if t = 0x101 then bindOk b else if t = 0x102 then modelLayoutOk b im else if t = 0x103 then placementLayoutOk b im
  else if t = 0x104 then programsLayoutOk b im else if t = 0x105 then countedLayoutOk b (2 ^ 24)
  else if t = 0x106 then countedLayoutOk b (2 ^ 32) && im.alts.all (fun e => field e 160 96 == 0)
  else collectivesLayoutOk b

/-! ## Use of tensors (R69, R61) -/

/-- All words of the schedule's tors with their entries: (tor entry, stream, word index, word). -/
def Sched.allWords (im : Sched) : List (TorEntry × Stream × Nat × BitVec 128) :=
  im.tors.flatMap (fun e => match im.streams[e.stream]? with
    | none => []
    | some st => st.words.zipIdx.map (fun w => (e, st, w.2, w.1)))

/-- Tiles that some HAND names, as (tor, tile). -/
def Sched.handedTiles (im : Sched) : List (Nat × Nat) :=
  im.allWords.filterMap (fun w => if opcodeOf w.2.2.2 = 0x80 then some (w.1.tor, field w.2.2.2 76 20) else none)

/-- Tensors that words other than tile words write: QNT, ROTQ, DRQ. -/
def Sched.otherWrites (im : Sched) : List Nat :=
  im.allWords.filterMap (fun w =>
    let op := opcodeOf w.2.2.2
    if op = 0x50 ∨ op = 0x52 then some (field w.2.2.2 96 16)
    else if op = 0x71 then some (im.load (field w.2.2.2 88 24)).desc else none)

/-- Tensors that the step's own words write. -/
def Sched.writtenTensors (im : Sched) : List Nat :=
  im.otherWrites ++ im.allWords.filterMap (fun w =>
    let op := opcodeOf w.2.2.2
    if op = 0x10 ∨ op = 0x11 then some (DrainEntry.outDesc (nth 0 w.2.1.drains (field w.2.2.2 72 16))) else none)

/-- A tensor meets R69. -/
def State.meetsR69 (s : State) (im : Sched) (d : Nat) : Bool :=
  let ps := s.producers im d
  let handed := im.handedTiles.map (fun h => s.tileNo im (BitVec.ofNat 13 h.1) h.2)
  (im.desc d).isScaled && !ps.isEmpty && !im.otherWrites.contains d
  && ps.all (fun n => (im.altEntry n 3).isSome && (im.altEntry n 4).isSome && !handed.contains n)

/-! ## MODEL (R120, R62, R221, R222, R230) -/

/-- Formats and layouts of a class (Table 03-13). -/
def classOk (cls fmt layout : Nat) : Bool :=
  if cls = 0 ∨ cls = 3 then decide (fmt ≤ 2)
  else if cls = 1 ∨ cls = 2 then fmt == 7 && layout == 2
  else if cls = 4 ∨ cls = 5 then fmt == 3
  else if cls = 6 then decide (4 ≤ fmt)
  else fmt == 7 && layout == 1

def descOk (s : State) (im : Sched) (i : Nat) (x : BitVec 512) : Bool :=
  let d : Desc := x
  let scree := field x 40 2
  field x 305 207 == 0 && field x 282 6 == 0 && field x 47 1 == 0
  && decide (d.format ≤ 7) && (if d.format ≤ 5 then d.layout == 0 else d.layout != 0)
  && d.planes == (if d.format ≤ 2 then d.format else 0) && (d.isK4n || scree == 0)
  && (if d.isScaled then decide (47 ≤ d.ceiling) else d.ceiling == 0 && field x 42 3 == 0)
  && (d.isInt || !d.scaleOn) && (d.scaleOn || d.scale == 0)
  && (decide (1 ≤ d.planes) || d.plane1 == 0) && (decide (2 ≤ d.planes) || d.plane2 == 0) && (scree != 0 || d.screeBase == 0)
  && classOk d.cls d.format d.layout && d.movable == s.meetsR69 im i

/-- a ≤ b on exact values. -/
def dyLe (a b : Dy) : Bool := let u := min a.2 b.2; decide (Dy.at a u ≤ Dy.at b u)
def dyOf (x : F32) : Dy := (fpDy x).getD (0, 0)
def dyOne : Dy := (1, 0)
def dyZero : Dy := (0, 0)

def coefRowOk (im : Sched) (x : BitVec 512) : Bool :=
  let r : CoefRow := x
  let unit (k : Nat) : Bool := dyLe dyZero (dyOf (r.fp k)) && !dyLe dyOne (dyOf (r.fp k))
  field x 352 160 == 0 && field x 16 16 == 0 && field x 0 1 == 0 && r.avg != 3 && decide (r.rnd ≤ 4) && (r.strict || r.rnd == 0)
  && (List.range 10).all (fun k => f32Finite (r.fp k)) && (!r.bias || (unit 0 && unit 2))
  && (!r.elclip || !dyLe (dyOf (r.fp 9)) dyZero) && decide (r.sched < im.scheds.length)

def schedEntryOk (x : BitVec 512) : Bool :=
  let e : SchedEntry := x
  field x 295 217 == 0 && inRange 1 (2 ^ 32 - 2) e.start && f32Finite e.etaMax && f32Finite e.etaMin
  && dyLe (dyOf e.etaMin) (dyOf e.etaMax) && decide (1 ≤ e.dlen) && decide (1 ≤ e.half) && decide (1 ≤ e.interval) && inRange 1 8 e.mult
  && f32Finite e.gamma && !dyLe (dyOf e.gamma) dyZero && dyLe (dyOf e.gamma) dyOne

/-- The tensors a parameter entry names, with the class each must have. -/
def ParamEntry.named (p : ParamEntry) : List (Nat × Nat) :=
  [(p.wDesc, 0), (p.mDesc, 1), (p.s1Desc, 2)] ++ (if p.wtDesc = 0 then [] else [(p.wtDesc, 0)])
  ++ (if p.s2Desc = 0 then [] else [(p.s2Desc, 2)])

def paramOk (im : Sched) (pilot : Bool) (x : BitVec 256) : Bool :=
  let p : ParamEntry := x
  field x 160 96 == 0 && decide (p.group < im.groups.length)
  && p.named.all (fun n => decide (n.1 < im.descs.length) && (im.desc n.1).cls == n.2)
  && (p.s2Desc != 0) == (im.row p.group).denom && (p.wtDesc != 0) == pilot

/-- The parameter whose chunk a HAND names. -/
def Sched.chunkParam (im : Sched) (chunk : Nat) : Option Nat :=
  (im.plans.flatten.find? (fun e => field e 0 24 == chunk)).map (fun e => field e 134 24)

/-- The slot tensors that this module's HANDs deliver to one parameter carry one ceiling (R61, R114). -/
def slotCeilingsOk (im : Sched) : Bool :=
  let slots := (im.allWords.filter (fun w => opcodeOf w.2.2.2 == 0x80)).map (fun w =>
    (im.chunkParam (field w.2.2.2 52 24), (im.desc (field w.2.2.2 96 16)).ceiling))
  slots.all (fun a => slots.all (fun b => a.1.isNone || a.1 != b.1 || a.2 == b.2))

def modelOk (s : State) (im : Sched) (c : CtxIdx) : Bool :=
  let named := im.params.flatMap (fun p => (ParamEntry.named p).map (·.1))
  im.descs.zipIdx.all (fun d => descOk s im d.2 d.1) && im.groups.all (coefRowOk im) && im.scheds.all schedEntryOk
  && im.params.all (paramOk im (s.pilot c)) && slotCeilingsOk im
  && im.descs.zipIdx.all (fun d => if Desc.cls d.1 ≤ 2 then (named.filter (· == d.2)).length == 1 else true)

/-! ## PLACEMENT (R385, R208, R234, R152) -/

/-- Words of a stream as (index, opcode, word). -/
def Stream.ops (st : Stream) : List (Nat × Nat × BitVec 128) := st.words.zipIdx.map (fun w => (w.2, opcodeOf w.1, w.1))

/-- The index of the stream's CAIRN, its PRE, and the first word of the routines (R116). -/
def Stream.cairnAt (st : Stream) : Nat := (st.words.findIdx (fun w => opcodeOf w == 0xB0))
def Stream.pre (st : Stream) : Nat := field (nth 0 st.words st.cairnAt) 100 12
def Stream.routines (st : Stream) : Nat := st.cairnAt + 1 + st.pre

/-- The NORM tile words of the main part: (tile, waves of one rung-0 pass). -/
def Stream.normWords (st : Stream) (im : Sched) : List (Nat × Nat) :=
  st.ops.filterMap (fun w =>
    let d : DrainEntry := nth 0 st.drains (field w.2.2 72 16)
    if (w.2.1 = 0x10 ∨ w.2.1 = 0x11) ∧ w.1 < st.cairnAt ∧ d.norm then
      let tile := field w.2.2 92 20
      let te : TileEntry := nth 0 st.tiles tile
      let o : TileOp := { (default : TileOp) with dside := bit w.2.2 115, apl := w.2.2.extractLsb' 90 2, bpl := w.2.2.extractLsb' 88 2 }
      let p : Pass := { req := { conv := w.2.1 = 0x11, op := o }, aDesc := im.desc te.aDesc, bDesc := im.desc te.bDesc, tile := te }
      some (tile, p.waves)
    else none)

/-- Tiles whose tile words, in any part of the stream, drain with NORM. -/
def Stream.normTiles (st : Stream) : List Nat :=
  st.ops.filterMap (fun w =>
    let d : DrainEntry := nth 0 st.drains (field w.2.2 72 16)
    if (w.2.1 = 0x10 ∨ w.2.1 = 0x11) ∧ d.norm then some (field w.2.2 92 20) else none)

def nonDecreasing : List Nat → Bool
  | a :: b :: t => decide (a ≤ b) && nonDecreasing (b :: t)
  | _ => true

def strictlyUp : List Nat → Bool
  | a :: b :: t => decide (a < b) && strictlyUp (b :: t)
  | _ => true

/-- Phase bytes and order (R152, Table 02-21). -/
def State.phasesOk (s : State) (im : Sched) : Bool :=
  let raw (e : TorEntry) (t : Nat) : Nat := (nth 0 im.phases (im.altNo e.tor t)).toNat
  let per := im.tors.map (fun e => (e, nth { words := [], tiles := [], drains := [] } im.streams e.stream))
  let lead (e : TorEntry) : Bool := let t : TorIdx := BitVec.ofNat 13 e.tor; s.leadOf t == t
  let ws := per.flatMap (fun p => if lead p.1 then (p.2.normWords im).map (fun w => (raw p.1 w.1, w.2)) else [])
  let sum (l : List (Nat × Nat)) : Nat := l.foldl (fun a w => a + w.2) 0
  per.all (fun p => (List.range p.2.tiles.length).all (fun t =>
      if p.2.normTiles.contains t then decide (raw p.1 t ≤ 63) || (!lead p.1 && raw p.1 t == 0xFF) else raw p.1 t == 0xFF))
  && per.all (fun p => !lead p.1 || nonDecreasing ((p.2.normWords im).map (fun w => raw p.1 w.1)))
  && (List.range 64).all (fun k => decide (8 * sum (ws.filter (fun w => w.1 == k)) ≤ sum ws))

/-- The shard entries of a parameter cover each master block once and cut no rotation group (R208, R385); a parameter
with no entry is one shard (R208). -/
def shardsOk (im : Sched) (ropeSize : Nat) : Bool :=
  im.shards.all (fun e => decide (e.param < im.params.length) && decide (e.member < ropeSize) && decide (1 ≤ e.count))
  && (List.range im.params.length).all (fun p =>
    let w := im.desc (im.param p).wDesc
    (List.range w.blocks).all (fun b =>
      (im.wholeParams.contains p ||
        decide ((im.shards.filter (fun e => e.param == p && decide (e.first ≤ b) && decide (b < e.first + e.count))).length = 1))
      && (groupBlocks w (groupOf w b)).all (fun q => im.shardOf p q == im.shardOf p b))
    && (im.shards.filter (fun e => e.param == p)).all (fun e => decide (e.first + e.count ≤ w.blocks)))

/-- Micro-batch maps (R234): legal bytes, no unmapped work, HAND on an ordinal, one ordinal to a slot tensor. -/
def mapsOk (im : Sched) : Bool :=
  let work (w : TorEntry × Stream × Nat × BitVec 128) : Byte := nth 0xFF w.1.map w.2.2.1
  let needs (x : BitVec 128) : Bool := let op := opcodeOf x; op == 0x50 || op == 0x51 || op == 0x52 || op == 0x80 || (op == 0x60 && bit x 78)
  let hands := im.allWords.filter (fun w => opcodeOf w.2.2.2 == 0x80)
  im.tors.all (fun e => e.map.all (fun b => decide (b.toNat < im.mbCount) || b == 0xFE || b == 0xFF)
    && (match im.streams[e.stream]? with | some st => (e.map.drop st.words.length).all (· != 0xFF) | none => false))
  && im.allWords.all (fun w => !needs w.2.2.2 || work w != 0xFF) && hands.all (fun w => decide ((work w).toNat < 16))
  && hands.all (fun a => hands.all (fun b => field a.2.2.2 96 16 != field b.2.2.2 96 16 || work a == work b))

def placementOk (s : State) (im : Sched) : Bool :=
  let ps := s.plan.positions
  decide ((im.tors.map (·.tor)).eraseDups.length = im.tors.length) && decide ((im.tors.map (·.stream)).eraseDups.length = im.tors.length)
  && im.tors.all (fun e => decide (e.tor < 8192) && decide (e.stream < im.streams.length))
  && im.positions.map (·.1) == ps && im.positions.all (fun e => inRange 1 16 e.2) && im.positions.contains (im.position, im.mbCount)
  && decide ((im.positions.map (·.2)).foldl (· + ·) 0 ≤ 65535)
  && shardsOk im s.plan.ropeSize && mapsOk im && s.phasesOk im

/-! ## PROGRAMS (R116 to R141) -/

/-- Operand bits that an opcode uses, as (high, low); none for a reserved opcode (Table 07-2, R389, Tables 07-4, 07-6,
07-9, R127, R128, R130, R136 to R141). -/
def operandBits (op : Nat) : Option (List (Nat × Nat)) :=
  if op = 0x00 ∨ op = 0x04 then some []
  else if op = 0x01 then some [(111, 60)] else if op = 0x02 then some [(111, 88)] else if op = 0x03 then some [(111, 80)]
  else if op = 0x10 ∨ op = 0x11 then some [(111, 72)]
  else if op = 0x26 then some [(111, 109), (106, 97), (1, 0)] else if op = 0x2C then some [(111, 102)]
  else if op = 0x2D then some [(111, 76), (31, 0)] else if op = 0x2E then some [(111, 107), (101, 98), (93, 76)]
  else if op = 0x2F then some [(111, 108), (0, 0)]
  else if 0x20 ≤ op ∧ op ≤ 0x2B then some [(111, 92), (1, 0)]
  else if op = 0x30 ∨ op = 0x31 then some [(111, 84)] else if op = 0x32 then some [(111, 103)]
  else if 0x40 ≤ op ∧ op ≤ 0x48 then some [(111, 36)] else if op = 0x49 then some [(111, 104)]
  else if 0x4A ≤ op ∧ op ≤ 0x4C then some [(111, 103)]
  else if 0x50 ≤ op ∧ op ≤ 0x52 then some [(111, 27)]
  else if op = 0x60 then some [(111, 78)] else if op = 0x61 then some [(111, 63)]
  else if op = 0x70 ∨ op = 0x71 then some [(111, 88)] else if op = 0x80 then some [(111, 48)] else if op = 0x90 then some [(111, 92)]
  else if op = 0xA0 then some [(111, 75)] else if op = 0xA1 then some [(111, 76)] else if op = 0xB0 then some [(111, 100)]
  else none

/-- MODE bits that an opcode uses (R117, R122, R125, R127). -/
def modeBits (op : Nat) : BitVec 4 :=
  if op = 0x10 ∨ op = 0x11 then 0b1110 else if 0x20 ≤ op ∧ op ≤ 0x32 then 0b1111 else if 0x41 ≤ op ∧ op ≤ 0x48 then 0b0001 else 0

/-- The encoding of one word: opcode, reserved bits, predicates (R116). -/
def wordEncOk (w : BitVec 128) : Bool :=
  let op := opcodeOf w
  match operandBits op with
  | none => false
  | some rs =>
    let used : BitVec 112 := rs.foldl (fun a r => a ||| BitVec.ofNat 112 ((2 ^ (r.1 - r.2 + 1) - 1) * 2 ^ r.2)) 0
    (w.setWidth 112 &&& ~~~used) == 0 && (w.extractLsb' 112 4 &&& ~~~(modeBits op)) == 0
    && ((decide (0x20 ≤ op) && decide (op ≤ 0x32)) || field w 116 4 == 0)

/-- The part of the stream that holds word i ends before this index: the CAIRN, or the stream's end (R116). -/
def Stream.partEnd (st : Stream) (i : Nat) : Nat := if i < st.cairnAt then st.cairnAt else st.words.length

/-- LOOP words around word i. -/
def Stream.loopsAround (st : Stream) (i : Nat) : Nat :=
  (st.ops.filter (fun w => w.2.1 == 0x01 && decide (w.1 < i) && decide (i ≤ w.1 + field w.2.2 92 20))).length

/-- The LDQ streams that belong to the tile word at i: those since the tile word before it (R131). -/
def Stream.operandLoads (st : Stream) (i : Nat) : List Nat :=
  let before := (st.ops.filter (fun w => decide (w.1 < i))).reverse
  ((before.takeWhile (fun w => w.2.1 != 0x10 && w.2.1 != 0x11)).filter (fun w => w.2.1 == 0x70)).map (fun w => field w.2.2 88 24)

/-- ROT_ORDER of an operand along its rows (axis 1) or columns (axis 0). -/
def Desc.rotAlong (d : Desc) (axis : Nat) : Nat := if d.rotAxis = axis then d.rotH else 0

/-- Tor-store bytes of one block that a drain writes (R390). -/
def drainStride (d : Desc) : Nat := storeStride d d.planes (d.cap != 0)

/-- The words of a stream that a fused group's four streams share (R124). -/
def fusedOps : List Nat := [0x10, 0x11, 0x90, 0xA0, 0xA1]
def Stream.fusedWords (st : Stream) : List (BitVec 128) := st.words.filter (fun w => fusedOps.contains (opcodeOf w))

/-- The LDQ streams that bring the A operand of the tile word at i: those of the tor's own stream, or, in a fused group, of
the stream of the left tor of its group row, at the same fused word (R112, R124). -/
def State.aLoads (s : State) (im : Sched) (t : TorIdx) (st : Stream) (i : Nat) : List Nat :=
  if s.fused t && quadrant t % 2 == 1 then
    match im.stream? (t.toNat - 1) with
    | none => []
    | some l =>
      let k := ((st.words.take i).filter (fun w => fusedOps.contains (opcodeOf w))).length
      match (l.ops.filter (fun w => fusedOps.contains w.2.1))[k]? with
      | some w => l.operandLoads w.1
      | none => []
  else st.operandLoads i

/-- A tile entry's own fields (R84, R103, R116, Table 07-5); `taps` 0 counts as one term to an index. -/
def tileEntryOk (im : Sched) (te : TileEntry) : Bool :=
  field te 158 98 == 0 && decide (te.aDesc < im.descs.length) && decide (te.bDesc < im.descs.length) && decide (te.taps ≤ 17)
  && inRange 1 (2 ^ 24) (te.klen * max 1 te.taps)

/-- Tor-store bytes that a drain entry writes for n blocks lie in the program's part and start on 8 (R129, R390). -/
def drainExtentOk (o : Desc) (dr : DrainEntry) (n : Nat) : Bool :=
  !dr.toStore || (dr.tsaddr % 8 == 0 && decide (dr.tsaddr < 0x40000) && decide (dr.tsaddr + drainStride o * n ≤ 0x40000))

/-- Checks of one tile word (R57, R80, R84, R90, R103, R113, R122, R75, R129, R143). -/
def tileWordOk (s : State) (im : Sched) (c : CtxIdx) (e : TorEntry) (st : Stream) (i : Nat) (w : BitVec 128) : Bool :=
  let t : TorIdx := BitVec.ofNat 13 e.tor
  let tile := field w 92 20
  let te : TileEntry := nth 0 st.tiles tile
  let dr : DrainEntry := nth 0 st.drains (field w 72 16)
  let a : Desc := im.desc te.aDesc
  let b : Desc := im.desc te.bDesc
  let o : Desc := im.desc dr.outDesc
  let transb := bit w 114
  let xa := (s.aLoads im t st i).any (fun k => let l := im.load k; StreamEntry.target l == 1 && StreamEntry.desc l == te.aDesc && StreamEntry.xpose l)
  decide (tile < st.tiles.length) && decide (field w 72 16 < st.drains.length) && decide (a.format ≤ 5) && decide (b.format ≤ 5)
  && !(a.isG16 && b.isG16)
  && bit w 115 == b.isG16 && (decide (8192 ≤ e.tor) || bit w 113 == s.fused t)
  && decide (field w 90 2 ≤ a.planes) && decide (field w 88 2 ≤ b.planes)
  && (!transb || (b.isK4n && !s.pilot c))
  && (if opcodeOf w = 0x11 then inRange 1 17 te.taps else te.taps == 0)
  && te.m0 % o.blockRows == 0 && te.n0 % o.blockCols == 0
  && te.k0 % (if xa then a.blockRows else a.blockCols) == 0 && te.k0 % (if transb then b.blockCols else b.blockRows) == 0
  && a.rotAlong (if xa then 1 else 0) == b.rotAlong (if transb then 0 else 1)
  && (if dr.conv = 0 then o.isG16 else if dr.conv = 1 then o.isK4n else if dr.conv = 2 then o.format == 7
      else (dr.conv == 3 || dr.conv == 4) && o.format == 6 && a.isInt && b.isInt && !a.scaleOn && !b.scaleOn)
  && drainExtentOk o dr (blocksOf o te (if s.fused t && decide (e.tor < 8192) then quadrant t else 0)).length

/-- Drain entry i: reserved bits and codes, NORM only with CONV 0 or 1 (R143), its descriptor, and its extent in the tor
store, which is a whole tile's where no tile word names the entry (R129; DEDUCED, notes/assumptions/145.md). -/
def drainOk (im : Sched) (st : Stream) (i : Nat) (x : BitVec 64) : Bool :=
  let d : DrainEntry := x
  let o := im.desc d.outDesc
  let used := st.words.any (fun w => (opcodeOf w == 0x10 || opcodeOf w == 0x11) && field w 72 16 == i)
  decide (d.outDesc < im.descs.length)
  && (used || drainExtentOk o d ((16 / o.blockRows) * ceilDiv 16 o.blockCols))
  && field x 44 20 == 0 && d.rung != 3 && d.ceil != 3 && decide (d.conv ≤ 4) && (!d.norm || decide (d.conv ≤ 1))

/-- Checks of one word in its stream (R116, R119, R125 to R141). -/
def wordOk (s : State) (im : Sched) (c : CtxIdx) (e : TorEntry) (st : Stream) (i : Nat) (w : BitVec 128) : Bool :=
  let op := opcodeOf w
  let mode := field w 112 4
  let d := im.desc (field w 96 16)
  let tileHere := decide (field w 92 20 < st.tiles.length)
  wordEncOk w &&
  (if op = 0x01 then
    decide (1 ≤ field w 92 20) && decide (i + field w 92 20 < st.partEnd i) && decide (st.loopsAround i < 4)
  else if op = 0x02 then decide (i + field w 88 20 < st.partEnd i)
  else if op = 0x03 then decide (st.routines ≤ field w 80 32) && decide (field w 80 32 < st.words.length)
  else if op = 0x10 ∨ op = 0x11 then tileWordOk s im c e st i w
  else if 0x20 ≤ op ∧ op ≤ 0x32 then
    (if 8 ≤ mode then decide (mode ≤ 12) && op != 0x29 && op != 0x2A else mode == 0)
    && (if op ≤ 0x2B ∧ op ≠ 0x26 then (if op = 0x2B then decide (field w 0 2 ≤ 1) else field w 0 2 == 0) else true)
    && (op != 0x26 || field w 109 3 != 0)
    && (!(op == 0x2D || op == 0x2E) || decide (field w 76 16 < im.descs.length))
  else if op = 0x49 then field w 108 3 != 0
  else if 0x4A ≤ op ∧ op ≤ 0x4C then field w 109 3 != 0
  else if 0x50 ≤ op ∧ op ≤ 0x52 then
    decide (field w 96 16 < im.descs.length) && decide (field w 27 2 ≤ d.planes)
    && (if op = 0x50 then d.isScaled && d.rotH == 0
        else if op = 0x52 then d.isScaled && d.rotH != 0 &&
          (List.range (field w 29 16)).all (fun k => (groupBlocks d (groupOf d (field w 45 32 + k))).all (fun q =>
            decide (field w 45 32 ≤ q) && decide (q < field w 45 32 + field w 29 16)))
        else true)
  else if op = 0x61 then bit w 79 || field w 80 15 == 0
  else if op = 0x70 ∨ op = 0x71 then
    decide (field w 88 24 < im.loads.length) && StreamEntry.isStore (im.load (field w 88 24)) == (op == 0x71)
  else if op = 0x80 then decide (field w 76 20 < st.tiles.length) && decide (field w 96 16 < im.descs.length) && d.cls == 5
  else if op = 0x90 then tileHere
  else if op = 0xA0 then tileHere && (bit w 91 || decide (i + field w 75 16 < st.partEnd i))
  else if op = 0xA1 then
    tileHere && decide (field w 76 16 < im.descs.length) && (im.desc (field w 76 16)).movable
    && !(im.handedTiles.contains (e.tor, field w 92 20))
  else true)

/-- The number of a tile's ALTERNATES entry, by its stream (R387). -/
def TorEntry.altNo (im : Sched) (e : TorEntry) (tile : Nat) : Nat := im.altBase e.stream + tile

/-- Entry points that word i can call (R116): ALT with POS = 1 reads the rung after the one its tile's last word drains
(R148). -/
def calledFrom (im : Sched) (e : TorEntry) (st : Stream) (i : Nat) (w : BitVec 128) : List Nat :=
  let op := opcodeOf w
  let n := e.altNo im (field w 92 20)
  if op = 0x03 then [field w 80 32]
  else if op = 0xA1 then [1, 2, 3, 4].filterMap (im.altEntry n)
  else if op = 0xA0 ∧ ¬ bit w 91 then [1, 2].filterMap (im.altEntry n)
  else if op = 0xA0 then
    match (st.ops.filter (fun v => decide (v.1 < i) && (v.2.1 == 0x10 || v.2.1 == 0x11) && field v.2.2 92 20 == field w 92 20)).getLast? with
    | some v => let r := DrainEntry.rung (nth 0 st.drains (field v.2.2 72 16)); if r < 2 then [r + 1].filterMap (im.altEntry n) else []
    | none => [1].filterMap (im.altEntry n)
  else []

/-- Where control goes from word i of a routine; none where it leaves the routines or meets CAIRN. -/
def Stream.after (st : Stream) (i : Nat) : Option (List Nat) :=
  match st.words[i]? with
  | none => none
  | some w =>
    let op := opcodeOf w
    if i < st.routines ∨ op = 0xB0 then none
    else if op = 0x04 then some []
    else some ((if op = 0x01 ∧ field w 60 32 = 0 then [] else [i + 1])
      ++ (if op = 0x01 then [i + 1 + field w 92 20] else if op = 0x02 then [i + 1 + field w 88 20]
          else if op = 0xA0 ∧ ¬ bit w 91 then [i + 1 + field w 75 16] else []))

/-- The words that control reaches from the work list without a call, those seen before among them. -/
def Stream.reach (st : Stream) : Nat → List Nat → List Nat → List Nat
  | 0, seen, _ => seen
  | _ + 1, seen, [] => seen
  | f + 1, seen, i :: t => if seen.contains i then st.reach f seen t else st.reach f (i :: seen) ((st.after i).getD [] ++ t)

/-- The words that a run from an entry can issue without a call: all of the main part, or what a routine reaches. -/
def Stream.runFrom (st : Stream) (entry : Nat) : List (Nat × Nat × BitVec 128) :=
  if entry < st.routines then st.ops.take st.cairnAt
  else (st.reach (4 * st.words.length + 8) [] [entry]).filterMap (fun i => st.ops[i]?)

/-- The static call depth from an entry stays within `fuel` (R116). -/
def depthOk (im : Sched) (e : TorEntry) (st : Stream) : Nat → Nat → Bool
  | 0, entry => (st.runFrom entry).all (fun w => (calledFrom im e st w.1 w.2.2).isEmpty)
  | f + 1, entry => (st.runFrom entry).all (fun w => (calledFrom im e st w.1 w.2.2).all (depthOk im e st f))

/-- Every path from the work list ends with RET. -/
def Stream.returns (st : Stream) : Nat → List Nat → List Nat → Bool
  | 0, _, todo => todo.isEmpty
  | _ + 1, _, [] => true
  | f + 1, seen, i :: t =>
    if seen.contains i then st.returns f seen t
    else match st.after i with
      | none => false
      | some ns => st.returns f (i :: seen) (ns ++ t)

/-- R123 over the words in order: NORM tiles that wait for their NCHK, with the tile words since. -/
def normPairs (drains : List (BitVec 64)) : List (Nat × Nat × BitVec 128) → List (Nat × Nat) → Bool
  | [], _ => true
  | w :: t, pend =>
    let tile := field w.2.2 92 20
    if w.2.1 = 0x10 ∨ w.2.1 = 0x11 then
      let p := pend.map (fun q => (q.1, q.2 + 1))
      !pend.any (fun q => q.1 == tile) && p.all (fun q => decide (q.2 ≤ 1))
      && normPairs drains t (if DrainEntry.norm (nth 0 drains (field w.2.2 72 16)) then (tile, 0) :: p else p)
    else if w.2.1 = 0x90 then normPairs drains t (pend.filter (fun q => q.1 != tile))
    else if w.2.1 = 0x04 ∨ w.2.1 = 0xB0 then pend.isEmpty && normPairs drains t []
    else normPairs drains t pend

/-- The checks of one tor's stream (R116, R123, R141). -/
def streamOk (s : State) (im : Sched) (c : CtxIdx) (e : TorEntry) (st : Stream) : Bool :=
  let entries := (st.ops.filterMap (fun w => if w.2.1 = 0x03 then some (field w.2.2 80 32) else none))
    ++ (List.range st.tiles.length).flatMap (fun t => [1, 2, 3, 4].filterMap (im.altEntry (e.altNo im t)))
  let written := im.writtenTensors
  decide ((st.ops.filter (fun w => w.2.1 == 0xB0)).length = 1) && decide (st.routines ≤ st.words.length)
  && st.tiles.all (tileEntryOk im) && st.drains.zipIdx.all (fun d => drainOk im st d.2 d.1) && st.ops.all (fun w => wordOk s im c e st w.1 w.2.2)
  && ((st.ops.drop (st.cairnAt + 1)).take st.pre).all (fun w => w.2.1 == 0x70 &&
    (let d := StreamEntry.desc (im.load (field w.2.2 88 24)); ((im.desc d).cls == 3 || (im.desc d).cls == 6) && !written.contains d))
  && entries.all (fun a => st.returns (4 * st.words.length + 8) [] [a])
  && depthOk im e st 8 0 && normPairs st.drains st.ops []

def State.fusionOk (s : State) (im : Sched) : Bool :=
  im.tors.all (fun e =>
    let t : TorIdx := BitVec.ofNat 13 e.tor
    !s.fused t || (s.group t).all (fun u => match im.stream? u.toNat, im.streams[e.stream]? with
      | some a, some b => a.fusedWords == b.fusedWords
      | _, _ => false))

/-- The blocks of every rotated tensor that tile words drain: descriptor, rotation group, ridge of the tor. -/
def State.rotatedOutputs (s : State) (im : Sched) : List (Nat × Nat × Nat) :=
  im.tors.flatMap (fun e => match im.streams[e.stream]? with
    | none => []
    | some st => (tileWords st).flatMap (fun p =>
        let dr : DrainEntry := nth 0 st.drains p.2
        let o := im.desc dr.outDesc
        if dr.toStore || o.rotH == 0 then []
        else (s.tileBlocks im (BitVec.ofNat 13 e.tor) p.1 dr.outDesc).map (fun b => (dr.outDesc, groupOf o b, e.tor / 64))))

/-- No rotation group spans two ridges' ports (R75): the tors that drain one group lie in one ridge (DEDUCED,
notes/assumptions/145.md). -/
def State.rotRidgesOk (s : State) (im : Sched) : Bool :=
  let made := s.rotatedOutputs im
  made.all (fun a => made.all (fun b => a.1 != b.1 || a.2.1 != b.2.1 || a.2.2 == b.2.2))

/-- The stream with directory index k as the tor table names it; a stream that no tor runs stands under a tor number past
the last, and the checks that need its tor do not apply to it. -/
def Sched.entryOf (im : Sched) (k : Nat) : TorEntry :=
  (im.tors.find? (fun e => e.stream == k)).getD { tor := 8192, stream := k, map := [] }

/-- The rung-0 block after an ALT with POS = 0 holds its LDQ words, its tile word, its NCHK and its ALT with POS = 1, in
this order (R137). -/
def rung0Form (tile : Nat) (ws : List (BitVec 128)) : Bool :=
  match ws.dropWhile (fun w => opcodeOf w == 0x70) with
  | [a, b, c] => (opcodeOf a == 0x10 || opcodeOf a == 0x11) && opcodeOf b == 0x90 && opcodeOf c == 0xA0 && bit c 91
      && [a, b, c].all (fun w => field w 92 20 == tile)
  | _ => false

/-- Every ALT with POS = 0 of a stream stands before such a block. -/
def Stream.blocksOk (st : Stream) : Bool :=
  st.ops.all (fun w => w.2.1 != 0xA0 || bit w.2.2 91 ||
    rung0Form (field w.2.2 92 20) ((st.words.drop (w.1 + 1)).take (field w.2.2 75 16)))

def programsOk (s : State) (im : Sched) (c : CtxIdx) : Bool :=
  im.tors.all (fun e => decide (e.stream < im.streams.length))
  && im.streams.zipIdx.all (fun p => streamOk s im c (im.entryOf p.2) p.1 && p.1.blocksOk) && s.fusionOk im && s.rotRidgesOk im

/-! ## STREAMS, ALTERNATES, COLLECTIVES (R129, R130, R174, R387, R214, R388) -/

def streamEntryOk (im : Sched) (x : BitVec 256) : Bool :=
  let e : StreamEntry := x
  let d := im.desc e.desc
  field x 171 85 == 0 && field x 23 1 == 0 && decide (e.desc < im.descs.length) && e.target != 3 && decide (1 ≤ e.nIn) && decide (1 ≤ e.nOut)
  && decide (e.plane ≤ d.planes) && (!e.isStore || d.format == 6 || d.format == 7)
  && (!e.xpose || (!e.isStore && decide (e.target ≤ 1) && (d.isK4n || d.format == 4 || (decide (6 ≤ d.format) && decide (2 ≤ d.layout)))))
  && (if e.isStore then e.tsaddr % 8 == 0 && decide (e.tsaddr + 32 * d.blockBursts * e.count ≤ 0x40000)
      else e.target != 0 || (e.tsaddr % 8 == 0 && decide (e.tsaddr < 0x40000)
        && decide (e.tsaddr + storeStride d e.plane e.scree * e.count ≤ 0x40000)))

def alternatesOk (im : Sched) : Bool :=
  decide (im.alts.length = (im.streams.map (fun s => s.tiles.length)).foldl (· + ·) 0)
  && im.streams.zipIdx.all (fun p =>
    let first := ((im.streams.take p.2).map (fun s => s.tiles.length)).foldl (· + ·) 0
    (List.range p.1.tiles.length).all (fun t =>
      (match im.altEntry (first + t) 0 with | some a => decide (a < p.1.routines) | none => true)
      && [1, 2, 3, 4].all (fun k => match im.altEntry (first + t) k with
        | some a => decide (p.1.routines ≤ a) && decide (a < p.1.words.length)
        | none => true)))

def nodeOk (im : Sched) (x : BitVec 256) : Bool :=
  let e : NodeEntry := x
  field x 247 9 == 0 && decide (e.nsrc ≤ 32) && decide (e.ndst ≤ 4) && inRange 1 256 e.nmaster && decide (e.param < im.params.length)
  && decide (e.srcList + e.nsrc ≤ im.posList.length) && !(im.sources e).contains im.position && !e.dests.contains im.position
  && (e.gather || e.nsrc != 0 || e.isLocal) && decide (e.acc + 4 * e.nmaster ≤ 65536)

def collectivesOk (s : State) (im : Sched) : Bool :=
  let all := im.plans.flatten
  decide (im.plans.length = 1 + s.plan.ropeCount) && all.all (nodeOk im)
  && all.all (fun a => all.all (fun b => NodeEntry.gather a == NodeEntry.gather b || NodeEntry.chunk a != NodeEntry.chunk b ||
      (NodeEntry.param a == NodeEntry.param b && NodeEntry.first a == NodeEntry.first b)))
  && strictlyUp (im.tokens.map (fun t => t.1 * 65536 + t.2.1))

/-- The field checks of a section that look beyond its own layout. -/
def schedFieldOk (s : State) (im : Sched) (c : CtxIdx) (t : Nat) : Bool :=
  if t = 0x102 then modelOk s im c else if t = 0x103 then placementOk s im else if t = 0x104 then programsOk s im c
  else if t = 0x105 then im.loads.all (streamEntryOk im) else if t = 0x106 then alternatesOk im
  else if t = 0x107 then collectivesOk s im else true

/-! ## Consistency checks (Table 02-12) -/

/-- Byte ranges that blocks lo … hi − 1 of a tensor take with p planes and, where asked, their scree slots (R46, R50,
R51). -/
def Desc.spanRegions (d : Desc) (lo hi p : Nat) (scree : Bool) : List (Nat × Nat) :=
  [(32 * (d.base + lo * d.blockBursts), 32 * (hi - lo) * d.blockBursts)]
  ++ (if 1 ≤ p then [(32 * (d.plane1 + lo), 32 * (hi - lo))] else []) ++ (if 2 ≤ p then [(32 * (d.plane2 + lo), 32 * (hi - lo))] else [])
  ++ (if d.cap = 0 ∨ ¬ scree ∨ hi ≤ lo then [] else [(32 * d.screeAddr lo, 32 * (d.screeAddr (hi - 1) + 1 - d.screeAddr lo))])

/-- Byte ranges of a tensor's regions. -/
def Desc.regions (d : Desc) : List (Nat × Nat) := d.spanRegions 0 d.blocks d.planes true

/-- The least and the greatest sequence index that a stream visits (R130). -/
def StreamEntry.span (e : StreamEntry) : Int × Int :=
  let a := ((e.nOut : Int) - 1) * e.strideOut
  let b := ((e.nIn : Int) - 1) * e.strideIn
  ((e.start : Int) + min 0 a + min 0 b, (e.start : Int) + max 0 a + max 0 b)

/-- Addresses, tors, tokens and accumulators inside the context (R161, R183, R314). -/
def State.insideContext (s : State) (im : Sched) (c : CtxIdx) : Bool :=
  let e := nth {} s.img.active.contexts c.toNat
  let r := nth {} s.img.active.regions c.toNat
  let inWin (a : Nat × Nat) : Bool := a.2 == 0 || (decide (r.winBase ≤ a.1) && decide (a.1 + a.2 ≤ r.winBase + r.winSize))
  let inRet (a : Nat × Nat) : Bool := a.2 == 0 || (decide (r.retBase ≤ a.1) && decide (a.1 + a.2 ≤ r.retBase + r.retSize))
  let at' (d : Desc) (a : Nat × Nat) : Bool := if d.cls = 5 then inRet a else inWin a
  let ridge (g : Nat) : Bool := e.ridges.getLsbD g
  im.ctx == c.toNat && e.valid && im.tors.all (fun t => ridge (t.tor / 64))
  && im.descs.all (fun d => (Desc.regions d).all (at' d))
  && im.loads.all (fun l => let d := im.desc (StreamEntry.desc l)
    decide (0 ≤ (StreamEntry.span l).1) &&
      (d.spanRegions (StreamEntry.span l).1.toNat ((StreamEntry.span l).2.toNat + 1) (StreamEntry.plane l) (StreamEntry.scree l)).all (at' d))
  && im.allWords.all (fun w => let x := w.2.2.2
    let d := im.desc (field x 96 16)
    !(decide (0x50 ≤ opcodeOf x) && decide (opcodeOf x ≤ 0x52)) ||
      (d.spanRegions (field x 45 32) (field x 45 32 + field x 29 16) d.planes true).all (at' d))
  && im.params.all (fun p =>
    (ParamEntry.named p).all (fun n => (im.desc n.1).regions.all (fun a => inWin (a.1 + 32 * ParamEntry.copyOffset p, a.2)))
    && inWin (32 * ParamEntry.recordBase p, 32 * ceilDiv (im.desc (ParamEntry.wDesc p)).blocks 4))
  && inWin (im.recordBase, 262144) && inWin (im.swbBase, 32 * ceilDiv im.alts.length 4)
  && im.inputs.all (fun b => inWin (b.1, b.2.1) && inWin (b.2.2.1, b.2.2.2))
  && im.descs.all (fun d => !(Desc.movable d || Desc.rotH d != 0) || ridge (Desc.home d))
  && im.descs.all (fun d => !Desc.movable d || ridge (Desc.settleToken d / 1024))
  && im.allWords.all (fun w => let x := w.2.2.2
    if opcodeOf x = 0x60 ∨ (opcodeOf x = 0x61 ∧ ¬ bit x 79) then ridge (field x 95 17 / 1024) else true)
  && im.tokens.all (fun t => ridge (t.1 / 1024))
  && im.plans.all (fun p => p.all (fun n => NodeEntry.gather n ||
    (decide (e.accFirst ≤ NodeEntry.acc n) && decide (NodeEntry.acc n + 4 * NodeEntry.nmaster n ≤ e.accFirst + e.accCount))))

/-- The image asks for no more than the shape table has (R383). -/
def State.shapeFits (s : State) (im : Sched) : Bool :=
  let l := s.img.shapeLinks
  (List.range 4).all (fun m => decide (nth 0 im.needMem m ≤ s.memGib m)) && decide (im.needRange ≤ field l 0 16)
  && decide (im.needUp ≤ field l 16 16) && decide (im.needPeers ≤ field l 32 16)
  && im.tors.all (fun e => s.torUsable (BitVec.ofNat 13 e.tor))

/-- Two words of a rung-0 block and its alternate differ only where R137 lets them. -/
def sameForm (im : Sched) (st : Stream) (a b : BitVec 128) : Bool :=
  let op := opcodeOf a
  let clear {w : Nat} (x : BitVec w) (lo len : Nat) : BitVec w := x &&& ~~~(BitVec.ofNat w ((2 ^ len - 1) * 2 ^ lo))
  if op = 0x10 ∨ op = 0x11 then
    clear a 72 20 == clear b 72 20
    && clear (nth 0 st.drains (field a 72 16)) 20 4 == clear (nth 0 st.drains (field b 72 16)) 20 4
  else if op = 0x70 then
    clear a 88 24 == clear b 88 24 && clear (im.load (field a 88 24)) 18 2 == clear (im.load (field b 88 24)) 18 2
  else a == b

/-- Every alternate is its rung-0 block followed by RET (R40, R137). -/
def altFormsOk (im : Sched) : Bool :=
  im.streams.zipIdx.all (fun p =>
    let st := p.1
    st.ops.all (fun w =>
        w.2.1 != 0xA0 || bit w.2.2 91 ||
        (let k := field w.2.2 75 16
         [1, 2, 3, 4].all (fun r => match im.altEntry (im.altBase p.2 + field w.2.2 92 20) r with
          | none => true
          | some a => opcodeOf (nth 0 st.words (a + k)) == 0x04 && decide (a + k < st.words.length)
              && (List.range k).all (fun j => sameForm im st (nth 0 st.words (w.1 + 1 + j)) (nth 0 st.words (a + j)))))))

/-- The failed checks of Table 02-12 from 0x20 on, lowest CAUSE first, each with its section. -/
def State.schedFaults (s : State) (im : Sched) (c : CtxIdx) : List (Nat × Nat) :=
  let faults : List (Bool × Nat × Nat) := [
    (im.bindDigest != s.img.active.structDigest, 0x20, 0x101),
    (!s.shapeFits im, 0x21, 0x101),
    (!s.insideContext im c, 0x22, 0),
    (!s.img.active.tied && !im.multi.isEmpty, 0x23, 0x102),
    (!altFormsOk im, 0x24, 0x106),
    (decide (256 < im.groups.length) || decide (16 < im.scheds.length), 0x25, 0x102),
    (im.keySlot != (nth {} s.img.active.contexts (im.ctx % 8)).keySlot, 0x26, 0)]
  (faults.filter (·.1)).map (·.2)

/-- R40 on a schedule image for a context: section by section in ascending TYPE (R27); a check that looks into another
section belongs to the section whose field it judges (notes/assumptions/47.md). -/
def State.checkSched (s : State) (c : CtxIdx) (bs : List Byte) : Except (Nat × Nat) Sched :=
  match checkContainer schedKind s.fuses.keys bs with
  | .error e => .error e
  | .ok (ss, slot) =>
    let im := readSched ss slot
    match schedKind.known.find? (fun t => !(schedLayoutOk im t (sectOf ss t) && schedFieldOk s im c t)) with
    | some t => .error (0x06, t)
    | none => match s.schedFaults im c with
      | e :: _ => .error e
      | [] => .ok im

end Sys2Proof.Machine
end

