-- ==== Sys2Proof/Machine/Ctx.lean ====
section
/-! DEFINITION. Contexts (chapter 15): bytes of module memory, host addresses (R311), the feed ring (R315 to R318),
completion records (R320), the checkpoint buffer (R322 to R324, R274), the start of a step with its belays (Table 01-8,
R247, R250, R270), the end of a run, aborts (R326, R327) and teardown (R328). -/

namespace Sys2Proof.Machine
open Sys2Proof

/-! ## Bytes of module memory -/

/-- Reads bytes [a, a + n) burst by burst; none with whether poison ended the read. -/
def State.readBytes (s : State) (source a n : Nat) : Option (List Byte) × State × Bool :=
  let lo := a / 32
  let hi := (a + n + 31) / 32
  let (r, s, p) := s.readBursts source ((List.range (hi - lo)).map (lo + ·))
  (r.map (fun bs => ((bs.flatMap (fun b => leBytes 32 (payload b))).drop (a - 32 * lo)).take n), s, p)

/-- Writes bytes from a: whole bursts with E = FLAGS = 0 (R56), the ends merged. -/
def State.writeBytes (s : State) (a : Nat) (bs : List Byte) : State :=
  let lo := a / 32
  let hi := (a + bs.length + 31) / 32
  (List.range (hi - lo)).foldl (fun s i =>
    let b := lo + i
    let old := leBytes 32 (payload (((s.readBurst b).data?).getD 0))
    let new := (List.range 32).map (fun j =>
      let p := 32 * b + j
      if a ≤ p ∧ p < a + bs.length then nth 0 bs (p - a) else nth 0 old j)
    s.writeBurst b (mkBurst 0 0 (ofLe 256 new))) s

/-! ## Host addresses (R311, R317, R308) -/

/-- A range lies in a context's host window. -/
def Context.inWindow (x : Context) (a n : Nat) : Bool :=
  let base := 4096 * x.winBase.toNat
  let size := 4096 * x.winSize.toNat
  size != 0 && decide (base ≤ a) && decide (a + n ≤ base + size)

/-- A range lies in the committed HDM decoder's range. -/
def State.inDecoder (s : State) (a n : Nat) : Bool :=
  s.host.committed && decide (s.host.decoderBase.toNat ≤ a) && decide (a + n ≤ s.host.decoderBase.toNat + s.img.active.hdmSize)

/-- The module address of a host physical address in the decoder's range (R184). -/
def State.modAddr (s : State) (a : Nat) : Nat := s.img.active.hdmBase + (a - s.host.decoderBase.toNat)

/-- The refusal cause of a named range, if it has one: HOST_ADDR or MOD_ADDR. -/
def State.rangeCause (s : State) (c : CtxIdx) (space : Bool) (a n : Nat) : List Nat :=
  if space then (if s.inDecoder a n then [] else [4]) else (if (s.ctx c).inWindow a n then [] else [3])

/-- A request outside the host window never leaves the module (R338). -/
def State.hostBlocked (s : State) : State :=
  { s with mgt := { s.mgt with blockedHost := satInc s.mgt.blockedHost } }.raiseBlocked

/-! ## Completion records (R320) -/

def CplRecord.bytes (r : CplRecord) (phase : Bool) : List Byte :=
  leBytes 4 r.tag ++ [r.op, r.status, r.cause, BitVec.ofNat 8 (boolNat phase + 2 * boolNat r.committed)] ++ leBytes 8 r.step
  ++ leBytes 8 r.feedPos ++ leBytes 8 r.recordSeq ++ leBytes 8 r.detail ++ List.replicate 24 0

/-- The completion ring is full (CTX_STATUS.CPL_FULL). -/
def Context.cplFull (x : Context) : Bool :=
  x.cplOrder != 0 && x.cplCount - x.cplHead == BitVec.ofNat 64 (2 ^ x.cplOrder.toNat)

/-- Writes the records that wait, in order, while the link is up and the ring has room. -/
def State.flushCpl : Nat → State → CtxIdx → State
  | 0, s, _ => s
  | f + 1, s, c =>
    let x := s.ctx c
    match x.cplWait with
    | [] => s
    | r :: rest =>
      if !s.boot.cxlUp || x.cplOrder == 0 || x.cplFull then s
      else
        let n := 2 ^ x.cplOrder.toNat
        let j := x.cplCount.toNat
        let a := 4096 * x.cplBase.toNat + 64 * (j % n)
        let s := s.setCtx c { x with cplWait := rest, cplCount := x.cplCount + 1 }
        let s := if x.inWindow a 64 then s.emit (.itoMWr a (r.bytes (j / n % 2 == 0))) else s.hostBlocked
        State.flushCpl f (if x.cplIrq then s.emit (.msix c.toNat) else s) c

def State.flush (s : State) (c : CtxIdx) : State := State.flushCpl (s.ctx c).cplWait.length s c

/-- Posts a record; a refusal's CAUSE shows in CTX_STATUS. -/
def State.post (s : State) (c : CtxIdx) (r : CplRecord) : State :=
  let x := s.ctx c
  (s.setCtx c { x with cplWait := x.cplWait ++ [r], lastCause := if r.status = 3 then r.cause else x.lastCause }).flush c

/-! ## The feed ring (R315 to R318) -/

def feTag (e : FeedEntry) : BitVec 32 := BitVec.ofNat 32 (leNat e 0 4)
def feOp (e : FeedEntry) : Nat := leNat e 4 1
def feSpace (e : FeedEntry) : Bool := leNat e 5 1 % 2 == 1
def feArg (e : FeedEntry) (k : Nat) : Nat := leNat e (8 + 8 * k) 8

/-- Bits of ARG0 … ARG3 that an op names (Table 15-6). -/
def argBits (op : Nat) : List Nat :=
  let f := 2 ^ 64 - 1
  nth [0, 0, 0, 0] [[], [f, f, 0xFF, 0], [f, f, 0, 0], [f, 0, 0, 0], [f, f, 0xFFFF, 0], [f, f, 0, 0], [0, 0, 0, 0], [0, 0, 0, 0]] op

/-- BAD_OP (R318): an unknown OP, or a reserved field that is not zero. -/
def feBad (e : FeedEntry) : Bool :=
  !(inRange 1 7 (feOp e)) || decide (1 < leNat e 5 1) || !zerosAt e 6 2 || !zerosAt e 40 88
  || (List.range 4).any (fun k => feArg e k &&& nth 0 (argBits (feOp e)) k != feArg e k)

/-- The states that allow an op (Table 15-6). -/
def opAllowed (op : Nat) (state : BitVec 4) : Bool :=
  (nth [] [[], [1], [2], [2, 5], [3, 4], [3, 4, 5], [3], [4]] op).contains state.toNat

/-- The feed position at the last cairn instant: STEP entries taken ahead of their step do not count. -/
def Context.cairnFeed (x : Context) : Word :=
  match x.current, x.stepEntries with
  | some e, _ => e.seq
  | none, e :: _ => e.seq
  | none, [] => x.feedPos

/-- The context's ring is set and its producer line is held (R316). -/
def Context.watches (x : Context) : Bool := x.ringSet && decide (1 ≤ x.state.toNat) && decide (x.state.toNat ≤ 5)

/-- Reads the producer line (R316). -/
def State.readLine (s : State) (c : CtxIdx) : State :=
  let x := s.ctx c
  let a := 4096 * x.ringBase.toNat
  if !x.watches || x.lineRead then s
  else if !x.inWindow a 64 then s.hostBlocked
  else
    let s := s.setCtx c { x with lineRead := true, outHost := x.outHost + 1 }
    if s.boot.cxlUp then s.emit (.rdShared a) else s

/-- Writes the consumer line (R315), or notes that it is due once the link is up (R312). -/
def State.writeConsumer (s : State) (c : CtxIdx) : State :=
  let x := s.ctx c
  let a := 4096 * x.ringBase.toNat + 64
  if !x.ringSet then s
  else if !x.inWindow a 64 then s.hostBlocked
  else if s.boot.cxlUp then
    (s.setCtx c { x with lineDirty := false }).emit (.itoMWr a (leBytes 8 x.consumer ++ leBytes 8 x.feedPos ++ List.replicate 48 0))
  else s.setCtx c { x with lineDirty := true }

/-- No LOAD or RESTORE is in progress. -/
def Context.opFree (x : Context) : Bool := match x.op with | .load _ => false | .restore _ => false | _ => true

/-- The front entry takes effect now (R317): no LOAD or RESTORE is in progress, and the context is between steps with
no STEP entry before it; in HELD, which runs no step, at once (DEDUCED, notes/assumptions/13.md). -/
def Context.entryReady (x : Context) : Bool := x.opFree && !x.inStep && (x.stepEntries.isEmpty || x.state == 4)

/-- Takes the front entry off the ring. -/
def State.consume (s : State) (c : CtxIdx) : State :=
  let x := s.ctx c
  (s.setCtx c { x with feedQ := x.feedQ.drop 1, consumer := x.consumer + 1 }).writeConsumer c

/-- The record of an entry whose operation ended (Table 15-7). -/
def State.endEntry (s : State) (c : CtxIdx) (e : FeedEntry) (status cause : Nat) (detail : Word) : State :=
  let x := s.ctx c
  s.post c { tag := feTag e, op := BitVec.ofNat 8 (feOp e), status := BitVec.ofNat 8 status, cause := BitVec.ofNat 8 cause,
             step := x.committed, feedPos := x.cairnFeed, detail := detail }

/-- Refuses the front entry: consumed, its state unchanged. -/
def State.refuseEntry (s : State) (c : CtxIdx) (e : FeedEntry) (cause : Nat) : State := (s.consume c).endEntry c e 3 cause 0

/-- The lowest cause of a list (R318). -/
def lowest (cs : List Nat) : Option Nat := cs.foldl (fun a c => match a with | none => some c | some b => some (min b c)) none

/-- The causes every op is tested for. -/
def State.entryCauses (s : State) (c : CtxIdx) (e : FeedEntry) : List Nat :=
  (if feBad e then [1] else []) ++ (if opAllowed (feOp e) (s.ctx c).state then [] else [2])

/-- Refuses front entries whose OP is unknown (R318). -/
def State.dropUnknown : Nat → State → CtxIdx → State
  | 0, s, _ => s
  | f + 1, s, c =>
    let x := s.ctx c
    match x.feedQ with
    | e :: _ => if x.entryReady && !(inRange 1 7 (feOp e)) then State.dropUnknown f (s.refuseEntry c e 1) c else s
    | [] => s

def State.scanRing (s : State) (c : CtxIdx) : State := State.dropUnknown (s.ctx c).feedQ.length s c

/-- The front entry, where it is of an op and takes effect now. -/
def State.frontEntry (s : State) (c : CtxIdx) (op : Nat) : Option FeedEntry :=
  let x := s.ctx c
  match x.feedQ with
  | e :: _ => if s.live && x.watches && x.entryReady && feOp e == op then some e else none
  | [] => none

/-! ## Committed state (R274, R323, R324, Table 13-6) -/

/-- The master blocks this module owns, in MODEL order and ascending sequence index. -/
def State.ownedBlocks (s : State) (im : Sched) : List (Nat × Nat) :=
  (List.range im.params.length).flatMap (fun i =>
    ((List.range (im.desc (ParamEntry.mDesc (im.param i))).blocks).filter (fun q => s.owns im i q)).map (fun q => (i, q)))

/-- Master and state descriptors of a parameter: s2 only with DENOM = 1. -/
def Sched.stateDescs (im : Sched) (i : Nat) : List Desc :=
  let p := im.param i
  [im.desc p.mDesc, im.desc p.s1Desc] ++ (if (im.row p.group).denom then [im.desc p.s2Desc] else [])

/-- Descriptors of movable tensors, in order. -/
def Sched.movables (im : Sched) : List Nat := (List.range im.descs.length).filter (fun d => (im.desc d).movable)

/-- The committed live ceiling of a movable tensor (R70). -/
def Context.committedCeil (x : Context) (im : Sched) (d : Nat) : Nat :=
  let v := mapGet 0 x.ceilings d
  if v = 0 then (im.desc d).ceiling else v

/-- A switchback entry's word (Table 08-1) and back. -/
def Swb.word (e : Swb) : Word :=
  (BitVec.ofInt 32 e.ref ++ (0 : BitVec 32)) ||| put (boolNat e.valid) 31 1 ||| put e.stickyRung 29 2 ||| put e.stickyLeft 22 7

def swbOfWord (w : Word) : Swb :=
  { ref := (w.extractLsb' 32 32).toInt, valid := bit w 31, stickyRung := field w 29 2, stickyLeft := field w 22 7 }

/-- Writes the switchback table to its place in module memory (R145). -/
def State.storeSwb (s : State) (c : CtxIdx) : State :=
  let x := s.ctx c
  match x.image with
  | none => s
  | some im => s.writeBytes im.swbBase ((List.range im.alts.length).flatMap (fun n => leBytes 8 (Swb.word (mapGet {} x.swb n))))

/-- Reads bursts until one delivers no data: what was read, and 0 all, 1 poison, 2 uncorrectable. -/
def State.readUntil (s : State) (source : Nat) : List Nat → List (BitVec 272) × State × Nat
  | [] => ([], s, 0)
  | b :: bs =>
    match s.moduleRead b source with
    | (.clean d, s) => let (r, s, k) := s.readUntil source bs; (d :: r, s, k)
    | (.corrected d, s) => let (r, s, k) := s.readUntil source bs; (d :: r, s, k)
    | (.poison, s) => ([], s, 1)
    | (.uncorrectable _, s) => ([], s, 2)

/-- Bytes after the header of a plain checkpoint buffer. -/
def State.ckptBody (s : State) (im : Sched) : Nat :=
  ((s.ownedBlocks im).map (fun b => 256 * (im.stateDescs b.1).length + 4)).foldl (· + ·) 0 + 8 * im.alts.length + im.movables.length

def segBytes : Nat := 1048576
def headBytes : Nat := 4096

/-- Bytes of the whole buffer: each encrypted segment carries a 16-byte tag. -/
def State.ckptSize (s : State) (im : Sched) (sealed : Bool) : Nat :=
  let n := s.ckptBody im
  headBytes + n + (if sealed then 16 * ((n + segBytes - 1) / segBytes) else 0)

/-- The checkpoint header (R324). -/
def State.ckptHeader (s : State) (x : Context) (im : Sched) (sealed : Bool) : List Byte :=
  pad headBytes (leBytes 4 (0x4B474350 : BitVec 32) ++ le 2 1 ++ le 2 0 ++ leBytes 8 x.committed ++ le 2 im.position
    ++ le 6 (boolNat sealed) ++ le 8 (s.ckptSize im sealed) ++ leBytes 64 im.modelDigest ++ leBytes 64 im.placementDigest
    ++ le 8 x.stormRun.toNat ++ leBytes 8 x.cairnFeed ++ leBytes 80 (BitVec.ofNat 640 x.clipTotal))

/-- The GCM nonce of a segment (R324). -/
def ckptNonce (step : Word) (pos seg : Nat) : BitVec 96 := step.setWidth 48 ++ BitVec.ofNat 16 pos ++ BitVec.ofNat 32 seg

/-- Seals segments, on the number of segments left. -/
def sealSegs (key : BitVec 256) (step : Word) (pos : Nat) (head : List Byte) : Nat → Nat → List Byte → List Byte
  | 0, _, _ => []
  | n + 1, k, bs =>
    Config.gcmSeal key (ckptNonce step pos k) (if k = 0 then head else []) (bs.take segBytes)
      ++ sealSegs key step pos head n (k + 1) (bs.drop segBytes)

/-- Opens segments; none when a tag fails. -/
def openSegs (key : BitVec 256) (step : Word) (pos : Nat) (head : List Byte) : Nat → Nat → List Byte → Option (List Byte)
  | 0, _, _ => some []
  | n + 1, k, bs =>
    match Config.gcmOpen key (ckptNonce step pos k) (if k = 0 then head else []) (bs.take (segBytes + 16)) with
    | none => none
    | some p => (openSegs key step pos head n (k + 1) (bs.drop (segBytes + 16))).map (p ++ ·)

/-- Reads the committed state of a checkpoint: the buffer's bytes, or how many were written before poison (R323). -/
def State.snapshot (s : State) (c : CtxIdx) (im : Sched) : Except Nat (List Byte) × State :=
  let x := s.ctx c
  let blocks := s.ownedBlocks im
  let addrs := blocks.flatMap (fun b =>
    let off := if x.liveCopy (im.param b.1) b.2 (s.stamps (im.param b.1) b.2) = 1 then (im.param b.1).copyOffset else 0
    (im.stateDescs b.1).flatMap (fun d => block8Addrs d b.2 off))
  let recs := blocks.map (fun b => recordBurst (im.param b.1) b.2)
  match s.readUntil 5 addrs with
  | (vs, s, 0) =>
    (match s.readUntil 5 recs with
      | (rs, s, 0) =>
        let live := (blocks.zip rs).flatMap (fun p =>
          let st := stampsOf p.2 p.1.2
          le 4 (if x.liveCopy (im.param p.1.1) p.1.2 st = 1 then st.2 else st.1))
        let table := (List.range im.alts.length).flatMap (fun n => leBytes 8 (Swb.word (mapGet {} x.swb n)))
        let ceil := im.movables.map (fun d => BitVec.ofNat 8 (x.committedCeil im d))
        let body := vs.flatMap (fun b => leBytes 32 (payload b)) ++ live ++ table ++ ceil
        let head := s.ckptHeader x im x.key.isSome
        (.ok (head ++ (match x.key with
          | some k => sealSegs k x.committed im.position head ((body.length + segBytes - 1) / segBytes) 0 body
          | none => body)), s)
      | (rs, s, _) => (.error (headBytes + 32 * vs.length + 4 * rs.length), s))
  | (vs, s, _) => (.error (headBytes + 32 * vs.length), s)

/-- Leaves the state that a RESTORE writes undefined (R322, Table 15-11): free values. -/
def State.scrambleState (s : State) (c : CtxIdx) (im : Sched) : State :=
  let s := (s.ownedBlocks im).foldl (fun s b =>
    ((im.stateDescs b.1).flatMap (fun d => block8Addrs d b.2 0)).foldl (fun s a =>
      let (v, s) := s.takeFree 272
      s.writeBurst a v) s) s
  s.setCtx c { s.ctx c with restored := false, undefinedState := true }

/-- Merges words into a burst of committed state; poison there fails the writer, which raises STATE_POISON (R391). -/
def State.mergeOrPoison (s : State) (b w : Nat) (words : List (BitVec 32)) : State :=
  match s.mergeSlot b w words with
  | (.poison, s) => s.statePoison
  | (_, s) => s

/-- Writes both stamps of a block (R225): neither copy is one that no commit reached. -/
def State.setStamps (s : State) (c : CtxIdx) (p : ParamEntry) (seq st0 st1 : Nat) : State :=
  let x := s.ctx c
  let s := s.setCtx c { x with unseen := x.unseen.filter (fun k => k != copyKey p seq 0 && k != copyKey p seq 1) }
  s.mergeOrPoison (recordBurst p seq) (recordWord seq) [BitVec.ofNat 32 st0, BitVec.ofNat 32 st1]

/-- The copy records of a loaded image (R225): copy 0 written at step 0, copy 1 never. Past the last block the burst's
words are free values (DESIGN CHOICE, notes/assumptions/126.md). -/
def State.initRecords (s : State) (im : Sched) : State :=
  im.params.foldl (fun s p =>
    let p : ParamEntry := p
    let n := (im.desc p.wDesc).blocks
    (List.range (ceilDiv n 4)).foldl (fun s j =>
      let (v, s) := s.takeFree 256
      let stamps := (List.range 4).flatMap (fun k =>
        if 4 * j + k < n then [(0 : BitVec 32), 0xFFFFFFFF] else [getLane 32 v (2 * k), getLane 32 v (2 * k + 1)])
      s.writeBurst (recordBurst p (4 * j)) (mkBurst 0 0 (packLanes 256 32 stamps))) s) s

/-- Quantises a rotation group of restored masters into copy 0 (R274, R227). -/
def State.requantRestored (s : State) (c : CtxIdx) (im : Sched) (i g : Nat) : State :=
  let p := im.param i
  let w := im.desc p.wDesc
  let m := im.desc p.mDesc
  let blocks := groupBlocks w g
  let x := s.ctx c
  let vals := blocks.map (fun b => edgeZero w b (0, 0)
    ((fpValues ((block8Addrs m b 0).map (fun a => ((s.readBurst a).data?).getD 0))).map (fun v => (fpDy v).getD (0, 0))))
  let rot := rotateGroup w vals
  let s := blocks.zipIdx.foldl (fun s (q : Nat × Nat) =>
    let k := quantK4n (maskBlock w q.1 (nth [] rot q.2)) w.ceiling w.cap w.planes q.1 0 (s.pilot c)
    let s := s.writeQuant c im 0 w q.1 0 k.bursts k.scree
    if s.pilot c && p.wtDesc != 0 then
      let wt := im.desc p.wtDesc
      let st := (q.1 % w.gridCols) * wt.gridCols + q.1 / w.gridCols
      let (bs, sc) := transQuant k.bursts k.scree (escCount (nth 0 k.bursts 0)) st
      s.writeQuant c im 0 wt st 0 bs sc
    else s) s
  s.setCtx c { s.ctx c with shardDigest := x.shardDigest, screeOut := x.screeOut }

/-- The refusal of a checkpoint buffer, if any, and its plain body (R322, R324). -/
def State.ckptFault (s : State) (x : Context) (im : Sched) (bs : List Byte) : Except Nat (List Byte) :=
  let sealed := leNat bs 18 1 % 2 == 1
  if bs.length < s.ckptSize im sealed then .error 0x08
  else if leNat bs 0 4 != 0x4B474350 || leNat bs 4 2 != 1 || decide (1 < leNat bs 18 6)
      || (ofLe 512 ((bs.drop 32).take 64) : Digest) != im.modelDigest
      || (ofLe 512 ((bs.drop 96).take 64) : Digest) != im.placementDigest || leNat bs 16 2 != im.position then .error 0x09
  else
    let n := s.ckptBody im
    let rest := bs.drop headBytes
    let plain := if sealed then
        (match x.key with
          | some k => openSegs k (BitVec.ofNat 64 (leNat bs 8 8)) im.position (bs.take headBytes) ((n + segBytes - 1) / segBytes) 0 rest
          | none => none)
      else some rest
    match plain with
    | none => .error 0x0A
    | some b =>
      let vals := ((s.ownedBlocks im).map (fun q => 64 * (im.stateDescs q.1).length)).foldl (· + ·) 0
      if (List.range vals).any (fun k => !f32Finite (BitVec.ofNat 32 (leNat b (4 * k) 4))) then .error 0x0D else .ok b

/-- Writes 256 bytes at o of a checkpoint as a master or slot block. -/
def State.writeCkptBlock (s : State) (a o : Nat) (body : List Byte) : State :=
  s.writeBursts a ((List.range 8).map (fun j => mkBurst 0 0 (ofLe 256 ((body.drop (o + 32 * j)).take 32))))

/-- Writes a checkpoint's state blocks in order from byte o on; answers the byte after them. -/
def State.writeCkptBlocks (s : State) (im : Sched) (body : List Byte) (o : Nat) (blocks : List (Nat × Nat)) : State × Nat :=
  blocks.foldl (fun a b =>
    (im.stateDescs b.1).foldl (fun a d => (a.1.writeCkptBlock (d.burstAddr b.2 0) a.2 body, a.2 + 256)) a) (s, o)

/-- Writes a checkpoint's copy records in order from byte o on; answers the byte after them. -/
def State.writeCkptStamps (s : State) (c : CtxIdx) (im : Sched) (body : List Byte) (o : Nat) (blocks : List (Nat × Nat)) : State × Nat :=
  blocks.foldl (fun a b => (a.1.setStamps c (im.param b.1) b.2 (leNat body a.2 4) 0xFFFFFFFF, a.2 + 4)) (s, o)

/-- A storm run that is restored at or past STORM_RUN has raised PERSISTENT_STORM already (R157; DEDUCED,
notes/assumptions/147.md). -/
def State.stormPast (s : State) (run : BitVec 8) : Bool := decide (s.img.active.thresholds.stormRun.toNat ≤ run.toNat)

/-- Writes a checkpoint's items to copy 0 and recomputes the rest (R322, R274). -/
def State.applyCkpt (s : State) (c : CtxIdx) (im : Sched) (head body : List Byte) : State :=
  let blocks := s.ownedBlocks im
  let n := leNat head 8 8
  let (s, o) := s.writeCkptBlocks im body 0 blocks
  let (s, o) := s.writeCkptStamps c im body o blocks
  let tab := (List.range im.alts.length).foldl (fun (m : SMap Swb) k => mapSet {} m k (swbOfWord (BitVec.ofNat 64 (leNat body (o + 8 * k) 8)))) []
  let o := o + 8 * im.alts.length
  let ceil := im.movables.zipIdx.foldl (fun (m : SMap Nat) p => mapSet 0 m p.1 (leNat body (o + p.2) 1)) []
  let nn := leNat head 176 80
  let x := s.ctx c
  let s := s.setCtx c { (x.advanceTo (s.pilot c) (n + 1)) with
    swb := tab, ceilings := ceil, stormRun := BitVec.ofNat 8 (leNat head 160 8), stormRaised := s.stormPast (BitVec.ofNat 8 (leNat head 160 8)),
    feedPos := BitVec.ofNat 64 (leNat head 168 8), clipTotal := nn, factor := clipFactor (s.pilot c) im.gMax nn,
    committed := BitVec.ofNat 64 n, step := BitVec.ofNat 64 (n + 1), pointer := n, planeValid := [], restored := true,
    undefinedState := false }
  let s := s.storeSwb c
  let s := { s with ni := { s.ni with step := BitVec.ofNat 64 (n + 1), schedCtx := c, normSq := clipNorm (s.pilot c) nn,
                                      factor := clipFactor (s.pilot c) im.gMax nn } }
  (blocks.map (fun b => (b.1, groupOf (im.desc (im.param b.1).wDesc) b.2))).eraseDups.foldl (fun s g => s.requantRestored c im g.1 g.2) s

/-! ## Belays of a step (R247, R250, R270) -/

/-- A belay of the range in a step. -/
structure BelayPlan where
  subject : Nat
  partner : Nat
  suspect : Bool := false
  restore : Bool := false
  deriving DecidableEq, Repr

/-- ACTIVE positions of a range, ascending. -/
def State.activeIn (s : State) (g : Nat) : List Nat := ((List.range 32).map (32 * g + ·)).filter s.isActive

/-- Positions in the order of their slots from the one after a slot, wrapping. -/
def State.slotOrder (s : State) (ps : List Nat) (after : Nat) : List Nat :=
  let key (p : Nat) : Nat := (s.slotOfPos p + 33 - (after + 1) % 33) % 33
  ps.mergeSort (fun a b => decide (key a ≤ key b))

/-- The belays of step n in a range: audit, then suspect, then restore. -/
def State.belaysIn (s : State) (im : Sched) (w : Wihorn) (n g : Nat) : List BelayPlan :=
  if s.singleModule then []
  else
    let act := s.activeIn g
    let busy (bs : List BelayPlan) (p : Nat) : Bool := bs.any (fun b => b.subject == p || b.partner == p)
    let audits := act.filterMap (fun p =>
      if s.crn.watched.any (fun v => v.1 == p) then none
      else match w.rotaAt p (n % max 1 w.interval) with
        | some k => if act.contains (32 * g + k) then some ({ subject := p, partner := 32 * g + k } : BelayPlan) else none
        | none => none)
    let watch := s.crn.watched.foldl (fun (bs : List BelayPlan) v =>
      if !act.contains v.1 then bs
      else
        let cand := (s.slotOrder (act.filter (fun p => s.ropeOf im p == s.ropeOf im v.1)) (s.slotOfPos v.2)).filter
          (fun p => p != v.1 && !busy bs p)
        match cand with
        | p :: _ => bs ++ [{ subject := v.1, partner := p, suspect := true }]
        | [] => bs) audits
    let catching := ((List.range 32).map (32 * g + ·)).filter (fun p => (s.member p).isSome && !s.isActive p)
    catching.foldl (fun bs v =>
      match act.find? (fun p => s.ropeOf im p == s.ropeOf im v && !busy bs p && !s.crn.restoreTried.contains (v, p)) with
      | some p => bs ++ [{ subject := p, partner := v, restore := true }]
      | none => bs) watch

/-- The belays of step n in the own range. -/
def State.rangeBelays (s : State) (im : Sched) (w : Wihorn) (n : Nat) : List BelayPlan := s.belaysIn im w n s.ownRange

/-- The belays in which this module takes part, role by role. -/
def State.ownBelays (s : State) (im : Sched) (w : Wihorn) (n : Nat) : List Belay :=
  let me := s.crn.ownPos.toNat
  let k := n % max 1 im.mbCount
  (s.rangeBelays im w n).filterMap (fun b =>
    if b.subject = me then some { role := 1, subject := me, partner := b.partner, ordinal := k, suspect := b.suspect, restore := b.restore }
    else if b.partner = me then some { role := 2, subject := b.subject, partner := me, ordinal := k, suspect := b.suspect, restore := b.restore }
    else none)

/-- The committed state a partner takes (R248, Table 13-2). -/
def State.stateMsg (_s : State) (x : Context) (im : Sched) (subject : Nat) : BelayMsg :=
  .state (BitVec.ofNat 14 subject) im.modelDigest ((List.range im.alts.length).map (fun n => (n, Swb.word (mapGet {} x.swb n))))
    (im.movables.map (fun d => (d, BitVec.ofNat 8 (x.committedCeil im d)))) x.stormRun x.cairnFeed

/-- Sends a BELAY packet. -/
def State.tellBelay (s : State) (c : CtxIdx) (p : Nat) (m : BelayMsg) : State := s.tell c 0x08 p (.belayOut p m)

/-- What a subject sends its partner at the start of the step (R248). -/
def State.sendBelay (s : State) (c : CtxIdx) (im : Sched) (b : Belay) : State :=
  let x := s.ctx c
  if b.role ≠ 1 then s
  else
    let mask := match x.current with | some e => e.mask | none => 0
    let (base, size) := match im.inputs[b.ordinal]?, x.current with
      | some (b0, n0, b1, n1), some e => if e.seq.toNat % 2 = 0 then (b0, n0) else (b1, n1)
      | _, _ => (0, 0)
    let st := s.stateMsg x im b.subject
    match s.readBytes 1 base size with
    | (some data, s, _) =>
      (s.tellBelay c b.partner (.input (BitVec.ofNat 14 b.subject) (BitVec.ofNat 4 b.ordinal) mask data)).tellBelay c b.partner st
    | (none, s, poison) => (if poison then s.failItem c (.ordinal b.ordinal) 0x0C 7 0 0 else s).tellBelay c b.partner st

/-! ## State copies (R267, Table 13-1) -/

/-- The source of a CATCHING_UP position: the owner of its shards in the lowest other rope whose owner is ACTIVE. -/
def State.sourceOf (s : State) (im : Sched) (v : Nat) : Option Nat :=
  let r := s.ropeOf im v
  ((List.range s.plan.ropeCount).filter (· != r)).findSome? (fun q =>
    match s.posOfRope im q (s.ropeMember im v) with
    | some p => if s.posActive p then some p else none
    | none => none)

/-- CATCHING_UP positions for which this module is the source. -/
def State.copiesTo (s : State) (im : Sched) : List Nat :=
  if s.crn.ownState ≠ 0 then []
  else ((s.crn.members.filter (fun e => !e.2.2)).map (·.1)).filter (fun v => s.sourceOf im v == some s.crn.ownPos.toNat)

/-- Sends a position its copy, each block from its live copy. -/
def State.sendCopy (s : State) (c : CtxIdx) (im : Sched) (v : Nat) : State :=
  (im.copyItems (s.pilot c) (s.ropeMember im v)).foldl (fun s k =>
    let x := s.ctx c
    let p := im.param k.2.1
    let st := s.stamps p k.2.2.1
    let live := x.liveCopy p k.2.2.1 st
    let off := if live = 1 then p.copyOffset else 0
    match s.readBursts 4 ((im.copyAddrs k).map (· + off)) with
    | (none, s, poison) => if poison then s.statePoison else s
    | (some bs, s, _) =>
      let it : CopyItem := { kind := k.1, param := BitVec.ofNat 24 k.2.1, seq := BitVec.ofNat 32 k.2.2.1, region := BitVec.ofNat 4 k.2.2.2,
                             stamp := BitVec.ofNat 32 (if live = 1 then st.2 else st.1), bursts := bs }
      s.tell c 0x07 v (.copyOut v [it])) s

/-- Sends the state of Table 13-2 to those of some positions that no restore belay serves (R270). -/
def State.sendAlone (s : State) (c : CtxIdx) (im : Sched) (vs : List Nat) : State :=
  let x := s.ctx c
  let alone := vs.filter (fun v =>
    !(s.belaysIn im s.img.active x.step.toNat (v / 32)).any (fun b => b.restore && b.partner == v))
  alone.foldl (fun s v => s.tellBelay c v (s.stateMsg x im s.crn.ownPos.toNat)) s

/-- A catching-up module with a loaded image reports so to the source of its copy: a STATE_COPY packet with no item starts
the copy (R267, R322; DESIGN CHOICE, notes/assumptions/11.md). -/
def State.reportLoaded (s : State) (c : CtxIdx) (im : Sched) : State :=
  let x := s.ctx c
  if s.crn.ownState ≠ 1 ∨ x.copyDone then s
  else match s.sourceOf im s.crn.ownPos.toNat with
    | some p => if x.copyFrom = some p then s else (s.setCtx c { x with copyFrom := some p }).tell c 0x07 p (.copyOut p [])
    | none => s

/-- The report reaches the subject of the restore belay too, whose packets found no image until now (R329). -/
def State.reportToSubjects (s : State) (c : CtxIdx) (im : Sched) : State :=
  if s.crn.ownState ≠ 1 then s
  else ((s.ownBelays im s.img.active (s.ctx c).step.toNat).filter (fun b => b.role == 2 && b.restore)).foldl
    (fun s b => s.tell c 0x07 b.subject (.copyOut b.subject [])) s

/-- A catching-up module's report starts its copy, and what the step's start sent it goes out again. -/
def State.serveLoaded (s : State) (c : CtxIdx) (im : Sched) (v : Nat) : State :=
  let s := if (s.copiesTo im).contains v then (s.sendAlone c im [v]).sendCopy c im v else s
  ((s.ctx c).belays.filter (fun b => (s.ctx c).inStep && b.role == 1 && b.restore && b.partner == v)).foldl
    (fun s b => s.sendBelay c im b) s

/-! ## The start of a step (Table 01-8) -/

/-- The plan an attempt uses (R245): the recovery plan of the rope that holds an absent or a declared position. -/
def State.planFor (s : State) (im : Sched) (declared : List Nat) : Nat :=
  match s.absentPositions im ++ declared with
  | [] => 0
  | p :: _ => 1 + s.ropeOf im p

/-- Lets the tors of a context begin issuing, and their loaders run; one that still has PRE words of its CAIRN to issue
begins behind them (R141). -/
def State.releaseTors (s : State) (c : CtxIdx) (im : Sched) : State :=
  im.tors.foldl (fun s e =>
    let t : TorIdx := BitVec.ofNat 13 e.tor
    let r := s.tor t
    if r.released then s.setTor t { r with startHeld := true } else s.startTor c im t) s

/-- A catching-up module's tors begin once the copy is complete and the subject's state has arrived (R268, R269). -/
def State.catchUpReady (_s : State) (x : Context) : Bool :=
  x.copyDone && (match x.belays.find? (fun b => b.role == 2 && b.restore) with | some b => b.arrivedState | none => x.stateTaken)

/-- The ordinals whose input a step reads (R319): not the one a belay partner gives up. -/
def ordinalsRead (im : Sched) (belays : List Belay) : List Nat :=
  let given := belays.filterMap (fun b => if b.role = 2 ∧ !b.restore then some b.ordinal else none)
  (List.range im.mbCount).filter (fun k => !given.contains k)

/-- What a context keeps of one step, cleared: at each cairn instant, when a run ends and when an image is loaded.
Packets of the step that follows may arrive before the module begins it (R197). -/
def Context.freshStep (x : Context) : Context :=
  { x.clearAttempt with
    inStep := false, current := none, belays := [], ladders := [], settles := [], verdicts := [], entryPhase := none,
    mbFailed := x.lateFailed, lateFailed := 0,
    counts := {}, loss := [], fetches := [], overflowed := false, rotBuf := [], attempt := 0, phase := 0, reportAt := none,
    srcDigests := [], verdict := none,
    excluded := [], declaredAt := [], twinGot := [], twinTo := [], twinPrev := [], twinAll := [],
    stateTaken := false }

/-- The belays of the coming step, with what has arrived for them. -/
def Context.mergeBelays (x : Context) (bs : List Belay) : List Belay :=
  bs.map (fun b => (x.belays.find? (fun a => a.role == b.role && a.subject == b.subject && a.partner == b.partner && a.ordinal == b.ordinal)).getD b)

/-- Fixes the plan and the belays of the coming step, so that its first packets find them. -/
def State.prepareStep (s : State) (c : CtxIdx) : State :=
  let x := s.ctx c
  match x.image with
  | none => s
  | some im => (s.setCtx c { x with planIdx := s.planFor im [],
                                    belays := x.mergeBelays (s.ownBelays im s.img.active x.step.toNat) }).reportLoaded c im

/-- Ticks since a feed wait that goes on began (R23). -/
def State.waited (s : State) (x : Context) : Nat := match x.waitFrom with | some t => (s.pwr.ticks - t).toNat | none => 0

/-- The step begins: policy, plan and belays are fixed. -/
def State.beginStep (s : State) (c : CtxIdx) (im : Sched) (belays : List Belay) : State :=
  let x := s.ctx c
  let waited := s.waited x
  let x := { x with
    inStep := true, waitFrom := none, feedWait := false, current := if s.crn.ownState = 1 then none else x.stepEntries.head?,
    stepEntries := if s.crn.ownState = 1 then x.stepEntries else x.stepEntries.drop 1,
    pol := s.img.active, belays := x.mergeBelays belays, swbWork := x.swb, live := x.ceilings,
    counts := { x.counts with feedWait := x.counts.feedWait + waited, tickStart := s.pwr.ticks },
    reports := x.reports.filter (fun r => r.step == x.step && r.membEpoch == s.crn.epoch),
    summaries := x.summaries.filter (fun e => e.2.all (fun r => r.step == x.step && r.membEpoch == s.crn.epoch)),
    planIdx := if x.nodes.isEmpty then s.planFor im [] else x.planIdx }
  let s := s.setCtx c x
  let s := ({ s with ni := { s.ni with attempt := 0, failedChunks := 0, blocksUpdated := 0, nonfinite := false } }).startNodes c
  let s := (s.ctx c).belays.foldl (fun (s : State) (b : Belay) => s.sendBelay c im b) (s.sendAlone c im (s.copiesTo im))
  if s.crn.ownState = 1 ∧ !s.catchUpReady (s.ctx c) then s else s.releaseTors c im

/-- Starts the context's next step if all it waits for is there; otherwise it waits (R23, R320). -/
def State.tryStart (s : State) (c : CtxIdx) : State :=
  let x := s.ctx c
  match x.image with
  | none => s
  | some im =>
    if x.state ≠ 3 ∨ x.inStep ∨ !s.live then s
    else
      let belays := s.ownBelays im s.img.active x.step.toNat
      let inputs := s.crn.ownState == 1 || (match x.stepEntries with
        | e :: _ => (ordinalsRead im belays).all (fun k => bit e.read k)
        | [] => false)
      if decide (s.crn.ownState.toNat ≤ 1) && inputs && !x.cplFull && x.cplWait.isEmpty then s.beginStep c im belays
      else s.setCtx c { x with feedWait := true, waitFrom := some (x.waitFrom.getD s.pwr.ticks) }

/-! ## The end of a run (R322, R327) -/

/-- The record of a STEP entry. -/
def stepRecord (e : StepEntry) (status : Nat) (committed : Bool) (step seq : Word) : CplRecord :=
  { tag := e.tag, op := 4, status := BitVec.ofNat 8 status, committed := committed, step := step, feedPos := e.seq + 1, recordSeq := seq }

/-- A tor stops what it does for a context (R88, R328). -/
def Tor.halted (r : Tor) : Tor :=
  if r.mappedOut then r
  else { r with state := 0, passes := [], pass := none, tail := none, queues := [0, 0, 0, 0], released := false, startHeld := false,
                preDone := 0, discard := [], drains := [], loads := [], later := [], arrived := [], ringA := [], ringB := [],
                ringPoison := [], aXpose := [], preFail := [], preLeft := 0, waitToken := none, settleTile := none, altWait := false,
                deqWait := false, stack := [], loops := [], stopped := false, failedTiles := [] }

/-- The tors of a context's ridges. -/
def State.ctxTors (s : State) (c : CtxIdx) : List TorIdx :=
  let m := (nth {} s.img.active.contexts c.toNat).ridges
  ((List.range 128).filter (fun g => m.getLsbD g)).flatMap (fun g => (List.range 64).map (fun i => BitVec.ofNat 13 (64 * g + i)))

def State.haltTors (s : State) (c : CtxIdx) : State :=
  (s.ctxTors c).foldl (fun s t => s.setTor t (s.tor t).halted) s

/-- The run ends: every consumed STEP whose step reached no cairn instant is ABORTED, then START's record (R327). What
the step held is given up with it (DEDUCED, notes/assumptions/12.md). -/
def State.endRun (s : State) (c : CtxIdx) (status : Nat) : State :=
  let x := s.ctx c
  let left := (match x.current with | some e => [(e, x.step)] | none => [])
    ++ x.stepEntries.zipIdx.map (fun p => (p.1, x.step + BitVec.ofNat 64 (p.2 + boolNat x.inStep)))
  let s := s.setCtx c { x.freshStep with
    state := 5, hold := 0, stepEntries := [], feedPos := x.cairnFeed, feedWait := false, waitFrom := none, abortAt := none,
    tokens := [], tokenPend := [], tokenGot := [], standIn := [], tokenOverflow := false, handed := [], mbFailed := 0 }
  let s := left.foldl (fun s p => s.post c (stepRecord p.1 2 false p.2 0)) s
  s.post c { tag := x.startTag, op := 3, status := BitVec.ofNat 8 status, step := x.committed, feedPos := x.cairnFeed }

/-- An abort at once of the run (R327): its step is abandoned, WITHDRAW is sent. -/
def State.abortRun (s : State) (c : CtxIdx) : State :=
  ((((s.haltTors c).abortWithdraw).endRun c 2).onIdle).scanRing c

/-- Leaves a checkpoint's module buffer undefined (Table 15-11). -/
def State.scrambleBuffer (s : State) (c : CtxIdx) (e : FeedEntry) : State :=
  match (s.ctx c).image with
  | none => s
  | some im =>
    if !feSpace e || !s.inDecoder (feArg e 0) (s.ckptSize im (s.ctx c).key.isSome) then s
    else
      let n := s.ckptSize im (s.ctx c).key.isSome
      (List.range ((n + 31) / 32)).foldl (fun s i =>
        let (v, s) := s.takeFree 256
        s.writeBytes (s.modAddr (feArg e 0) + 32 * i) ((leBytes 32 v).take (n - 32 * i))) s

/-- Aborts the LOAD, RESTORE or CHECKPOINT in progress; nothing when there is none. -/
def State.abortOp (s : State) (c : CtxIdx) : State :=
  let x := s.ctx c
  let s := s.setCtx c { x with op := .none }
  match x.op with
  | .none => s
  | .load e => s.endEntry c e 2 0 0
  | .restore e => (match x.image with | some im => s.scrambleState c im | none => s).endEntry c e 2 0 0
  | .checkpoint e => (s.scrambleBuffer c e).endEntry c e 2 0 0

/-- A HOLD bit is set (Table 15-10): the context holds after the instant. A feed wait ends with what it has counted (R23). -/
def State.holdCtx (s : State) (c : CtxIdx) (b : Nat) : State :=
  let x := s.ctx c
  if x.state = 3 ∨ x.state = 4 then
    s.setCtx c { x with state := 4, hold := x.hold ||| BitVec.ofNat 4 (2 ^ b), feedWait := false, waitFrom := none,
                        counts := { x.counts with feedWait := x.counts.feedWait + s.waited x } }
  else s

/-! ## Teardown (R328, Table 15-12) -/

/-- Orders 1 to 3, also when images are unloaded under R272. -/
def State.teardownStart (s : State) (c : CtxIdx) : State :=
  let x := s.ctx c
  if x.state = 0 ∨ x.state = 6 then s
  else
    let s := if x.state = 3 ∨ x.state = 4 then ((s.haltTors c).abortWithdraw).endRun c 2 else s
    let s := s.abortOp c
    let s := (s.ctx c).ckptQ.foldl (fun s e => s.endEntry c e 2 0 0) s
    let x := s.ctx c
    (s.haltTors c).setCtx c { x with state := 6, undrained := true, ckptQ := [], lineHeld := false, feedQ := [], retired := x.epoch,
                                     epoch := x.epoch + 1, hold := 0 }

/-- A module that left its position unloads every schedule image and raises LEFT_POSITION (R272). -/
def State.leavePosition (s : State) : State :=
  (allCtx.foldl State.teardownStart (s.raise 0x32 s.crn.ownPos.toNat)).onIdle

/-- A context whose STATE_LOST kept the images loaded is torn down: with the last such context the module unloads the
others (R272). -/
def State.lossEnds (s : State) (c : CtxIdx) : State :=
  let m := s.crn.lostMask &&& ~~~(BitVec.ofNat 8 (2 ^ c.toNat))
  let t := { s with crn := { s.crn with lostMask := m } }
  if s.crn.lostMask ≠ 0 ∧ m = 0 then t.leavePosition else t

/-- Memory requests of a context in flight (CTX_OUTSTANDING.OUT_MEM). -/
def State.outMem (s : State) (c : CtxIdx) : Nat :=
  let mine (r : MemReq) : Bool := match clientTor' r.client with | some t => s.torCtx t == some c | none => false
  (s.mem.subs.map (fun p => (p.2.queue.filter mine).length + (p.2.inflight.filter (fun f => mine f.req)).length)).foldl (· + ·) 0
where
  clientTor' : Client → Option TorIdx
    | .tor t => some t
    | .torPlane t => some t
    | .torScree t => some t
    | _ => none

/-- Packets of a context's flows in send queues and retry buffers (OUT_LINK). -/
def State.outLink (s : State) (c : CtxIdx) : Nat :=
  let mine (k : Packet) : Bool := !(Header.slotFlow k.header) && Header.ctx k.header == c
  (s.links.ports.map (fun p => ((p.2.ctlQ ++ p.2.dataQ ++ p.2.retry.map (·.1)).filter mine).length)).foldl (· + ·) 0
    + (s.links.flows.map (fun f => ((f.2.wait.map (·.1)).filter mine).length)).foldl (· + ·) 0

/-- Zero bursts over a byte range (R165). -/
def State.zeroRange (s : State) (base size : Nat) : State :=
  s.setCells (memClear s.cells (36 * (base / 32)) (36 * ((base + size) / 32)))

/-- The return buffers of a context's ridges are invalidated (R173). -/
def State.dropBuffers (s : State) (c : CtxIdx) : State :=
  let e := nth {} s.img.active.contexts c.toNat
  (List.range 128).foldl (fun s g => if e.ridges.getLsbD g then s.invalidateBuf g else s) s

/-- Order 5: the window and retained region, tor stores, and what the context keeps of its run. -/
def State.teardownScrub (s : State) (c : CtxIdx) : State :=
  let w := nth {} s.img.active.regions c.toNat
  let s := (s.zeroRange w.winBase w.winSize).zeroRange w.retBase w.retSize
  let s := (s.ctxTors c).foldl (fun s t => s.setTor t { s.tor t with store := [] }) s
  let s := s.dropBuffers c
  let x := s.ctx c
  s.setCtx c { x.clearAttempt with undrained := false, image := none, key := none, live := [], tokens := [], tokenPend := [], tokenGot := [] }

/-- Order 6: the context is EMPTY again. -/
def State.teardownEnd (s : State) (c : CtxIdx) : State :=
  let x := s.ctx c
  let declared := (nth {} s.img.active.contexts c.toNat).valid
  let fresh : Context := { state := if declared then 1 else 0, epoch := x.epoch, retired := x.retired, lastCause := x.lastCause,
                           endStep := x.endStep, outHost := x.outHost, recordSeq := 0 }
  let s := s.setCtx c fresh
  ((if x.cplIrq then s.emit (.msix c.toNat) else s).onIdle).lossEnds c

end Sys2Proof.Machine
end

