-- ==== Sys2Proof/Machine/Crn.lean ====
section
/-! DEFINITION. The cairn (chapters 12 and 13): suspicion and declaration (R242 to R244), belay and twin digests (R249,
R251 to R253), reports, the verdict and its two phases (R254 to R258), membership at the cairn instant (R265), leaving
a position (R272), the step record (R261), and the instant itself (R24). -/

namespace Sys2Proof.Machine
open Sys2Proof

/-! ## Suspicion, declaration (R242 to R244) -/

/-- Slots of the own range that hold a position not declared in the step. -/
def State.liveSlots (s : State) : List Nat :=
  (List.range 33).filter (fun q => match s.posOfSlot s.ownRange q with
    | some p => !s.crn.declared.contains p
    | none => false)

/-- The range's delegates (R255): its two lowest live slots. -/
def State.isDelegate (s : State) : Bool := (s.liveSlots.take 2).contains s.planSlot

/-- Other ranges of the system. -/
def State.otherRanges (s : State) : List Nat := s.plan.present.filter (· != s.ownRange)

/-- Marks broken the nodes of the current attempt that have a position among their sources or destinations. -/
def Context.breakNodes (x : Context) (im : Sched) (p : Nat) : Context :=
  x.plan.zipIdx.foldl (fun (x : Context) (e : NodeEntry × Nat) =>
    if (im.sources e.1).contains p || (NodeEntry.dests e.1).contains p then
      x.setNode e.2 { x.node e.2 with broken := true } else x) x

/-- The key under which a sender's count for a token is kept. -/
def tokenKey (token pos : Nat) : Nat := token * 2 ^ 14 + pos

/-- Stand-in counts for what a declared position has not sent (R244). -/
def State.standIns (s : State) (c : CtxIdx) (im : Sched) (p : Nat) : State :=
  im.tokens.foldl (fun s t =>
    if t.2.1 ≠ p then s
    else
      let x := s.ctx c
      let n := t.2.2 - mapGet 0 x.tokenGot (tokenKey t.1 p)
      (s.setCtx c { x with standIn := mapSet 0 x.standIn t.1 (mapGet 0 x.standIn t.1 + n) }).addToken c t.1 n) s

/-! ## Digests (R252, R253) -/

/-- The shards that rope member m owns. -/
def Sched.memberShards (im : Sched) (m : Nat) : List Nat :=
  (List.range im.shards.length).filter (fun i => match im.shards[i]? with | some e => e.member == m | none => false)
  ++ (if m = 0 then im.wholeParams.map (im.shards.length + ·) else [])

/-- The shards this module owns. -/
def State.ownShards (s : State) (im : Sched) : List Nat := im.memberShards (s.ropeMember im im.position)

/-- The live owners of rope member m in the other ropes, in cyclic rope order after the own one: (rope, position). -/
def State.twins (s : State) (im : Sched) : List (Nat × Nat) :=
  let r := s.ropeOf im im.position
  let m := s.ropeMember im im.position
  let nr := s.plan.ropeCount
  (List.range (nr - 1)).filterMap (fun i =>
    let q := (r + 1 + i) % nr
    match s.posOfRope im q m with
    | some p => if s.posActive p then some (q, p) else none
    | none => none)

/-- A twin's digest received for a shard in the current attempt. -/
def Context.digestFrom (x : Context) (shard rope : Nat) : Option (BitVec 64) :=
  (x.twinGot.find? (fun e => e.1 == x.attempt.toNat && e.2.1 == shard && e.2.2.1 == rope)).map (·.2.2.2)

/-- Sends the own digest of a shard to positions. -/
def State.sendDigest (s : State) (c : CtxIdx) (im : Sched) (shard : Nat) (ps : List Nat) : State :=
  let x := s.ctx c
  s.tellAll c 0x09 ps (fun p => Output.digestOut p c x.attempt shard (s.ropeOf im im.position) (s.stepDigest x im shard))

/-- Sends the own digests to the owners in the next rope that has a live owner; a declaration of that owner makes
another the next, which then takes them (R252). -/
def State.sendTwins (s : State) (c : CtxIdx) (im : Sched) : State :=
  let fresh := (((s.twins im).take 1).map (·.2)).filter (fun p => !(s.ctx c).twinTo.contains p)
  if fresh.isEmpty then s
  else (s.ownShards im).foldl (fun s h => s.sendDigest c im h fresh) (s.setCtx c { s.ctx c with twinTo := (s.ctx c).twinTo ++ fresh })

/-! ## Declarations (R243, R244) -/

/-- The effects of a declaration in one context's step: broken nodes, belays, stand-in counts, and what went to a module
now declared goes to the next one (R160, R252, R267). -/
def State.declareIn (s : State) (p : Nat) (c : CtxIdx) : State :=
  let x := s.ctx c
  match x.state == 3 || x.state == 4, x.image with
  | true, some im =>
    let x := x.breakNodes im p
    let x := { x with belays := x.belays.map (fun b => if (b.subject = p ∨ b.partner = p) ∧ b.outcome = 0 then { b with outcome := 3 } else b) }
    let s := (((s.setCtx c x).standIns c im p).refetch c im p).reportLoaded c im
    if x.twinTo.isEmpty then s else s.sendTwins c im
  | _, _ => s

/-- A delegate tells the delegates of every other range of a declaration (R243). -/
def State.tellDeclaration (s : State) (p : Nat) : State :=
  (s.otherRanges.flatMap s.delegatesOf).foldl (fun s d => s.tell (s.flowCtx (2 * d)) 0x09 d (.declarationOut (d / 32) p)) s

/-- Declares a position failed for the current step on a ground (R243, R244); a delegate forwards the declaration. -/
def State.declare (s : State) (p ground : Nat) : State :=
  let by' := s.crn.declaredBy ++ (if s.crn.declaredBy.contains (p, ground) then [] else [(p, ground)])
  let known := s.crn.declared.contains p
  let s := { s with crn := { s.crn with declaredBy := by' } }
  if known then s
  else
    let fwd := s.isDelegate && p / 32 == s.ownRange
    let s := { s with crn := { s.crn with declared := s.crn.declared ++ [p] } }
    let s := if fwd then s.tellDeclaration p else s
    allCtx.foldl (fun s c => s.declareIn p c) s

/-- Declares the position that a slot of the own range holds, if it holds one. -/
def State.declareSlot (s : State) (q ground : Nat) : State :=
  match s.posOfSlot s.ownRange q with
  | some p => s.declare p ground
  | none => s

/-- Suspects a range peer (R242, R243): proposes it to every range peer and declares its position. A module that would
propose a seventeenth peer in the step withdraws instead; it declares the peer's position all the same. -/
def State.suspect (s : State) (q : Nat) : State :=
  if s.crn.proposed.contains q then s
  else if 16 ≤ s.crn.proposed.length then (if s.crn.withdrawn then s else s.sendWithdraw).declareSlot q 64
  else
    let s := { s with crn := { s.crn with proposed := s.crn.proposed ++ [q] } }
    (s.tellSlots 0x0A s.rangePeers (fun r => Output.proposeTo r q)).declareSlot q 64

/-- A WITHDRAW makes its sender's proposals of the step void (R243): a position declared on them alone is declared no
longer (Table 12-7). A module that withdraws for another reason is read the same way (DEDUCED,
notes/assumptions/147.md). -/
def State.voidProposals (s : State) (q : Nat) : State :=
  let grounds := s.crn.declaredBy.filter (fun g => g.2 != q)
  let kept := s.crn.declared.filter (fun p => grounds.any (fun g => g.1 == p))
  { s with crn := { s.crn with declaredBy := grounds, declared := kept,
                               withdrew := if s.crn.withdrew.contains q then s.crn.withdrew else s.crn.withdrew ++ [q] } }

/-! ## What decides the comparisons (R249, R253, R270) -/

/-- A strict majority among digests. -/
def majority (ds : List (BitVec 64)) : Option (BitVec 64) := ds.find? (fun d => decide (ds.length < 2 * (ds.filter (· == d)).length))

/-- The twin comparisons of the attempt (R252, R253): the state after what they send, and whether they are done. -/
def State.twinStage (s : State) (c : CtxIdx) (im : Sched) : State × Bool :=
  let ts := s.twins im
  if s.crn.ownState ≠ 0 ∨ ts.isEmpty then (s, true)
  else
    let own := s.ownShards im
    let prev := ((ts.getLast?).map (·.1)).getD 0
    let s := s.sendTwins c im
    let x := s.ctx c
    let mine (h : Nat) : BitVec 64 := s.stepDigest x im h
    let bad := own.filter (fun h => match x.digestFrom h prev with | some d => d != mine h | none => false)
    -- a digest from any other rope than the previous one asks for a vote (R253; DEDUCED, notes/assumptions/9.md)
    let asked (h : Nat) : Bool := ts.any (fun t => t.1 != prev && (x.digestFrom h t.1).isSome)
    let more := own.filter (fun h => ((bad.contains h && x.twinPrev.contains h) || asked h) && !x.twinAll.contains h)
    let x := { x with twinMismatch := bad, twinAll := x.twinAll ++ more }
    let s := more.foldl (fun s h => s.sendDigest c im h ((ts.drop 1).map (·.2))) (s.setCtx c x)
    let all := own.all (fun h => (x.digestFrom h prev).isSome) &&
      x.twinAll.all (fun h => ts.all (fun t => (x.digestFrom h t.1).isSome))
    (s, all)

/-- What the digests of a shard that mismatched twice decide (R253): none no strict majority, else the majority's. -/
def State.twinVote (s : State) (x : Context) (im : Sched) (h : Nat) : Option (BitVec 64) :=
  majority (s.stepDigest x im h :: (s.twins im).filterMap (fun t => x.digestFrom h t.1))

/-- Shards without a strict majority. -/
def State.divergent (s : State) (x : Context) (im : Sched) : List Nat := x.twinAll.filter (fun h => (s.twinVote x im h).isNone)

/-- The belay digest of the subject's ordinal k (R249): its slot bursts and the burst of its FP32 loss, a free value
(notes/assumptions/147.md). None when a slot burst cannot be read. -/
def State.belayDigest (s : State) (x : Context) (im : Sched) (subject k : Nat) : Option (BitVec 64) :=
  let key := digestKey im.seed
  let loss := burstHash key (digestTag 0 3 0) (mkBurst 0 0 ((Config.loss subject k x.step.toNat).setWidth 256))
  let bursts := (x.handed.filter (fun h => h.ordinal == k)).flatMap (fun h =>
    let d := im.desc h.desc
    h.blocks.flatMap (fun q => (List.range d.blockBursts).map (fun j => (d.tensorId, q * d.blockBursts + j, d.burstAddr q j))))
  let v := bursts.foldl (fun (a : Option Nat) b => match a, (s.readBurst b.2.2).data? with
    | some n, some d => some ((n + burstHash key (digestTag b.1 0 b.2.1) d) % digestP)
    | _, _ => none) (some (loss % digestP))
  v.map (BitVec.ofNat 64)

/-- The subject tells its partner its digest, or that it has none (R249). -/
def State.tellBelayDigest (s : State) (c : CtxIdx) (b : Belay) (d : Option (BitVec 64)) : State :=
  s.tellBelay c b.partner (.digest (BitVec.ofNat 14 b.subject) (BitVec.ofNat 4 b.ordinal) d)

/-- One belay at the opening of the first report: the subject sends its digest, the partner compares. An ordinal that
failed on either module has none (R249). -/
def State.closeBelay (s : State) (c : CtxIdx) (im : Sched) (b : Belay) : State × Belay :=
  let x := s.ctx c
  if b.outcome ≠ 0 ∧ b.role = 2 then (s, b)
  else if bit x.mbFailed b.ordinal then
    (if b.role = 1 then s.tellBelayDigest c b none else s, { b with outcome := 3 })
  else
    match s.belayDigest x im b.subject b.ordinal with
    | none =>
      let s := s.failItem c (.ordinal b.ordinal) 0x0C 7 0 0
      (if b.role = 1 then s.tellBelayDigest c b none else s, { b with outcome := 3 })
    | some d =>
      let b := { b with ownDigest := some d }
      if b.role = 1 then (s.tellBelayDigest c b (some d), b)
      else (s, { b with outcome := if b.peerDigest = some d then 1 else 2 })

/-- The partner waits for the subject's digest unless the belay is over. -/
def Context.belayWaits (x : Context) : Bool :=
  x.belays.any (fun b => b.role == 2 && b.outcome == 0 && b.peerDigest.isNone && !bit x.mbFailed b.ordinal)

/-- A catching-up module waits for every source's step digest (R270). -/
def State.sourcesIn (s : State) (x : Context) (im : Sched) : Bool :=
  s.crn.ownState != 1 || (s.ownShards im).all (fun h => x.srcDigests.any (fun e => e.1 == h))

/-- A digest of the catching-up module differs from its source's. -/
def State.sourceDiffers (s : State) (x : Context) (im : Sched) : Bool :=
  (s.ownShards im).any (fun h => x.srcDigests.any (fun e => e.1 == h && e.2 != s.stepDigest x im h))

/-- A source sends its step digests to the positions it serves (R270). -/
def State.sendSourceDigests (s : State) (c : CtxIdx) (im : Sched) : State :=
  let x := s.ctx c
  (s.copiesTo im).foldl (fun s v => (s.ownShards im).foldl (fun s h =>
    s.tellBelay c v (.sourceDigest (BitVec.ofNat 24 h) (s.stepDigest x im h))) s) s

/-! ## The report (R254, Table 12-2) -/

/-- Update and re-quantisation work of the attempt that is not done. -/
def Context.workLeft (x : Context) (im : Sched) : Bool :=
  !x.heldOwn.isEmpty || x.touched.any (fun k => !x.written.contains k) ||
  x.touched.any (fun k =>
    let p := k / 2 ^ 32
    let q := k % 2 ^ 32
    let w := im.desc (ParamEntry.wDesc (im.param p))
    let g := groupOf w q
    let bs := groupBlocks w g
    x.groupFinal p bs && !x.badGroups.contains (blockKey p g) && !bs.all (fun b => x.requantised.contains (blockKey p b)))

/-- Every tor that runs has sent its step report, every reduction node is complete or broken, the attempt's update is
done, and no storm verdict is due (R158). A gather that is incomplete now is missing (R229; DEDUCED,
notes/assumptions/10.md). -/
def State.reportReady (s : State) (x : Context) (im : Sched) : Bool :=
  x.inStep && (x.phase == 0 || x.phase == 3) &&
  im.tors.all (fun e => (s.tor (BitVec.ofNat 13 e.tor)).reported || (s.tor (BitVec.ofNat 13 e.tor)).mappedOut) &&
  x.plan.zipIdx.all (fun (p : NodeEntry × Nat) => p.1.gather || (x.node p.2).complete || (x.node p.2).broken) &&
  !x.workLeft im && !x.belayWaits && s.sourcesIn x im && !s.verdictDue x im

/-- The slot mask of a list. -/
def slotMask (qs : List Nat) : BitVec 33 := qs.foldl (fun m q => m ||| BitVec.ofNat 33 (2 ^ q)) 0

/-- MB_FAILED as reported: not the ordinal given up to a belay; nothing of a module that catches up. -/
def State.reportedFails (s : State) (x : Context) : BitVec 16 :=
  if s.crn.ownState = 1 then 0
  else match x.belayOrdinal with
    | some k => x.mbFailed &&& ~~~(BitVec.ofNat 16 (2 ^ k))
    | none => x.mbFailed

/-- The belay this module reports as partner. A source digest that differs shows as a MISMATCH (DEDUCED,
notes/assumptions/9.md). -/
def State.reportedBelay (s : State) (x : Context) (im : Sched) : Option BelayReport :=
  let bad := s.crn.ownState == 1 && s.sourceDiffers x im
  match x.belays.find? (fun b => b.role == 2) with
  | some b => some { subject := BitVec.ofNat 14 b.subject, ordinal := BitVec.ofNat 4 b.ordinal, suspect := b.suspect,
                     outcome := if bad then 2 else BitVec.ofNat 2 b.outcome }
  | none => if bad then some { subject := s.crn.ownPos, ordinal := 0, suspect := false, outcome := 2 } else none

/-- The digests of a mismatched shard that a report shows, by rope: the own one, and the twins' after R253. -/
def State.knownDigests (s : State) (x : Context) (im : Sched) (h : Nat) : List (Nat × BitVec 64) :=
  (s.ropeOf im im.position, s.stepDigest x im h) ::
    (if x.twinAll.contains h then (s.twins im).filterMap (fun t => (x.digestFrom h t.1).map (fun d => (t.1, d))) else [])

/-- The own report. -/
def State.makeReport (s : State) (c : CtxIdx) (im : Sched) : CairnReport :=
  let x := s.ctx c
  { ctx := c, step := x.step, attempt := x.attempt, position := s.crn.ownPos, slot := s.crn.ownSlot,
    membEpoch := s.crn.epoch, policyDigest := x.pol.policyDigest, mbFailed := s.reportedFails x,
    proposals := slotMask s.crn.proposed, withdrawn := s.crn.withdrawn, belay := s.reportedBelay x im,
    chunkFaults := x.chunkFaults, mismatches := x.twinMismatch.map (fun h => (h, s.knownDigests x im h)),
    divergence := s.divergent x im, clipN := x.clipN,
    entryPhase := match x.entryPhase with | some p => BitVec.ofNat 8 p | none => 0xFF,
    rangeLimited := BitVec.ofNat 32 x.counts.rangeLimited, evToken := x.tokenOverflow, evNonfinite := x.nonfinite,
    evOverflow := x.overflowed }

/-! ## The verdict (R257) -/

/-- Ranges of the cairn tree; 0xFFFF marks the root, 0xFFFE a range outside the system (R388). -/
def Sched.treeRanges (im : Sched) : List Nat := (List.range 512).filter (fun g => nth 0xFFFE im.cairnTree g != 0xFFFE)
def Sched.treeParent (im : Sched) (g : Nat) : Nat := (nth 0xFFFE im.cairnTree g).toNat
def Sched.isRoot (im : Sched) (g : Nat) : Bool := nth 0xFFFE im.cairnTree g == 0xFFFF

/-- MB_COUNT of a position. -/
def Sched.mbOf (im : Sched) (p : Nat) : Nat := ((im.positions.find? (fun e => e.1 == p)).map (·.2)).getD 0

/-- An exclusion word (Table 12-6). -/
def exclWord (reason ordinal pos : Nat) : BitVec 32 := BitVec.ofNat 32 (reason * 2 ^ 18 + ordinal * 2 ^ 14 + pos)
def exclReason (w : BitVec 32) : Nat := field w 18 4
def exclOrdinal (w : BitVec 32) : Nat := field w 14 4
def exclPos (w : BitVec 32) : Nat := field w 0 14

/-- Exclusion words that cover an ordinal of a position. -/
def excludes (ws : List (BitVec 32)) (p k : Nat) : Bool :=
  ws.any (fun w => exclPos w == p && (3 ≤ exclReason w || exclOrdinal w == k))

/-- Positions declared by WITHDRAW, by proposals that are not void, or by the belay rule (R243, R250). A position that a
module holds and that has no report is not live: its range declared it (R255, R262). -/
def State.verdictDeclared (s : State) (im : Sched) (rs : List CairnReport) (n : Nat) : List Nat :=
  let interval := s.img.active.interval
  (im.positions.map (·.1)).filter (fun p =>
    ((s.member p).isSome && !rs.any (fun r => r.position.toNat == p)) || rs.any (fun r => (r.withdrawn && r.position.toNat == p) ||
      (!r.withdrawn && (List.range 33).any (fun q => bit r.proposals q && s.posOfSlot (r.position.toNat / 32) q == some p)) ||
      (match r.belay with
        | some b => b.outcome == 2 && b.subject.toNat == p && s.isActive r.position.toNat &&
            (b.suspect || s.crn.mismatches.any (fun e => e.1 == p && e.2 != n && decide (n < e.2 + interval)))
        | none => false)))

/-- Y of R257 as exclusion words in ascending order: reasons 1 to 3. -/
def State.verdictExcluded (s : State) (im : Sched) (rs : List CairnReport) (d : List Nat) : List (BitVec 32) :=
  let act := rs.filter (fun r => s.isActive r.position.toNat && !d.contains r.position.toNat)
  let failed := act.flatMap (fun r => ((List.range (im.mbOf r.position.toNat)).filter (fun k => bit r.mbFailed k)).map
    (fun k => exclWord 1 k r.position.toNat))
  let mism := act.filterMap (fun r => match r.belay with
    | some b =>
      let p := b.subject.toNat
      if b.outcome == 2 && s.isActive p && !d.contains p && !failed.contains (exclWord 1 b.ordinal.toNat p) then
        some (exclWord 2 b.ordinal.toNat p) else none
    | none => none)
  ((failed ++ mism ++ d.map (exclWord 3 0)).eraseDups).mergeSort (fun a b => decide (a.toNat ≤ b.toNat))

/-- Contributors outside Y: ordinals of ACTIVE reporters, but not those given up to a belay (R247). -/
def State.verdictContributors (s : State) (im : Sched) (rs : List CairnReport) (y : List (BitVec 32)) : Nat :=
  let act := rs.filter (fun r => s.isActive r.position.toNat)
  let sum := act.map (fun r => ((List.range (im.mbOf r.position.toNat)).filter (fun k =>
    !excludes y r.position.toNat k && (match r.belay with | some b => b.ordinal.toNat != k | none => true))).length)
  sum.foldl (· + ·) 0

/-- N of the step (R220): each rope member's part, from its lowest rope with a report. -/
def State.verdictN (s : State) (im : Sched) (rs : List CairnReport) (d : List Nat) : Nat :=
  let rs := rs.filter (fun r => s.isActive r.position.toNat && !d.contains r.position.toNat)
  let part (m : Nat) : Nat := ((List.range s.plan.ropeCount).findSome? (fun q => match s.posOfRope im q m with
    | some p => (rs.find? (fun r => r.position.toNat == p)).map (·.clipN)
    | none => none)).getD 0
  ((List.range s.plan.ropeSize).map part).foldl (· + ·) 0

/-- A storm step (R156): an entry phase named by a module whose micro-batches are not all excluded. -/
def State.verdictStorm (s : State) (im : Sched) (rs : List CairnReport) (y : List (BitVec 32)) : Bool :=
  rs.any (fun r => r.entryPhase != 0xFF && s.isActive r.position.toNat &&
    !(List.range (im.mbOf r.position.toNat)).all (fun k => excludes y r.position.toNat k))

/-- The tests of R257 in their order. -/
def decisionOf (a : Nat) (twoPolicies : Bool) (ropes y contributors : Nat) (token : Bool) (diverged : Bool)
    (redo nonfinite stormSkip limitSkip : Bool) :
    Decision :=
  if twoPolicies then .skip 1
  else if 1 < ropes then .skip 2
  else if 32 < y then .skip 3
  else if contributors = 0 then .skip 4
  else if token then .skip 5
  else if diverged then .skip 6
  else if redo ∧ a = 2 then .skip 7
  else if redo then .reduce
  else if nonfinite then .skip 8
  else if stormSkip then .skip 9
  else if limitSkip then .skip 10
  else .commit

/-- Joiners accepted and refused (R264): for a range without a spare, the lowest slot with the reports' digest. -/
def State.verdictJoins (s : State) (digest : Digest) : List (BitVec 9 × BitVec 6) × List (BitVec 9 × BitVec 6) :=
  let name (e : Nat × Nat × Digest) : BitVec 9 × BitVec 6 := (BitVec.ofNat 9 e.1, BitVec.ofNat 6 e.2.1)
  let good := s.crn.joins.filter (fun e => e.2.2 == digest && (s.spareOf e.1).isNone)
  let least (e : Nat × Nat × Digest) : Bool := good.all (fun f => f.1 != e.1 || decide (e.2.1 ≤ f.2.1))
  ((good.filter least).map name, (s.crn.joins.filter (fun e => e.2.2 != digest)).map name)

/-- Positions whose catch-up this step completed (Table 13-3): their reports show no failed restore belay. -/
def State.verdictCaughtUp (s : State) (rs : List CairnReport) (d : List Nat) : List (BitVec 14) :=
  (rs.filter (fun r => (s.member r.position.toNat).isSome && !s.isActive r.position.toNat && !d.contains r.position.toNat &&
    (match r.belay with | some b => b.outcome == 1 | none => true))).map (·.position)

/-- The verdict of an attempt from the reports of every live position (R257). -/
def State.verdictOf (s : State) (c : CtxIdx) (im : Sched) (rs : List CairnReport) : Verdict :=
  let x := s.ctx c
  let n := x.step.toNat
  let d := s.verdictDeclared im rs n
  let y := s.verdictExcluded im rs d
  let absent := s.absentPositions im
  let ropes := ((d ++ absent).map (s.ropeOf im)).eraseDups.length
  let digests := (rs.map (·.policyDigest)).eraseDups
  let storm := s.verdictStorm im rs y
  let ya := x.excluded.filter (fun w => exclReason w != 4)
  let redo := y != ya || d != x.declaredAt || rs.any (fun r => r.chunkFaults || !r.mismatches.isEmpty)
  let dec := decisionOf x.attempt.toNat (decide (1 < digests.length)) ropes y.length (s.verdictContributors im rs y)
    (rs.any (·.evToken)) (rs.any (fun r => !r.divergence.isEmpty)) redo (rs.any (·.evNonfinite))
    (storm && x.pol.stormStep) (rs.any (fun r => r.rangeLimited != 0) && x.pol.rangeLimited)
  let instant := dec != .reduce
  let j := s.verdictJoins (nth 0 digests 0)
  let catching := (s.crn.members.filter (fun e => !e.2.2 && !d.contains e.1)).map (fun e => exclWord 4 0 e.1)
  { ctx := c, step := x.step, attempt := x.attempt, decision := dec,
    excluded := (y ++ catching).mergeSort (fun a b => decide (a.toNat ≤ b.toNat)),
    declared := d.map (BitVec.ofNat 14), clipN := s.verdictN im rs d, stormStep := storm,
    joins := if instant then j.1 else [], refusedJoins := if instant then j.2 else [],
    diverged := (rs.flatMap (·.divergence)).eraseDups, caughtUp := if dec = .commit then s.verdictCaughtUp rs d else [] }

/-! ## Acting on a verdict (R258) -/

/-- Declares the positions of a verdict; this module too may learn of one only here. -/
def State.declareAll (s : State) (ps : List Nat) : State := ps.foldl (fun s p => s.declare p 64) s

/-- Starts attempt a + 1 (Table 12-3). A position declared since the verdict's reports breaks nodes of the new plan too. -/
def State.reduceAgain (s : State) (c : CtxIdx) (im : Sched) (v : Verdict) : State :=
  let d := v.declared.map (·.toNat)
  let s := s.declareAll (d.filter (· != s.crn.ownPos.toNat))
  let x := s.ctx c
  let prev := x.twinPrev ++ x.twinMismatch.filter (fun h => !x.twinPrev.contains h)
  let x := { x.clearAttempt with
    attempt := v.attempt + 1, excluded := v.excluded, declaredAt := d, phase := 3, twinPrev := prev, twinTo := [],
    twinAll := [], reportAt := none, srcDigests := [], planIdx := s.planFor im d,
    summaries := x.summaries.filter (fun e => e.2.all (fun r => r.attempt == v.attempt + 1)) }
  let x := (s.crn.declared.filter (fun p => !d.contains p)).foldl (fun (x : Context) p => x.breakNodes im p) x
  let s := { s.setCtx c x with ni := { s.ni with attempt := v.attempt + 1 } }
  (s.startNodes c).feedNodes c

/-! ## Membership at the cairn instant (R265) -/

/-- The record of one range after an instant. -/
def memberStep (ps : List Nat) (g : Nat) (d : List Nat) (joins : List (BitVec 9 × BitVec 6)) (done : List Nat) (k : Cairn) : Cairn :=
  let mine (p : Nat) : Bool := p / 32 == g
  let members := k.members.filter (fun e => !(mine e.1 && d.contains e.1))
  let spare := (k.spares.find? (fun e => e.1 == g)).map (·.2)
  let vacant := (ps.filter mine).filter (fun p => !members.any (fun e => e.1 == p))
  let (members, spare) := match spare, vacant with
    | some q, p :: _ => (regPut members p (q, false), none)
    | sp, _ => (members, sp)
  let spare := match joins.find? (fun j => j.1.toNat == g) with
    | some j => some j.2.toNat
    | none => spare
  let members := members.map (fun e => if mine e.1 && done.contains e.1 then (e.1, (e.2.1, true)) else e)
  { k with members := members, spares := (k.spares.filter (fun e => e.1 != g)) ++ (match spare with | some q => [(g, q)] | none => []) }
where
  regPut : SMap (Nat × Bool) → Nat → Nat × Bool → SMap (Nat × Bool)
    | [], i, v => [(i, v)]
    | (k, w) :: t, i, v => if i < k then (i, v) :: (k, w) :: t else if i = k then (i, v) :: t else (k, w) :: regPut t i v

/-- Whether some shard of a context has no ACTIVE owner in any rope (R273). In a single-module system that left its
position none has, also where the image holds no parameter (R272; DEDUCED, notes/assumptions/131.md). -/
def State.shardLost (s : State) (im : Sched) : Bool :=
  (s.singleModule && s.crn.ownState == 3) || (im.shards.map ShardEntry.member ++ im.wholeParams.map (fun _ => 0)).eraseDups.any (fun m =>
    (List.range s.plan.ropeCount).all (fun r => match s.posOfRope im r m with | some p => !s.isActive p | none => true))

/-- This module takes a position as CATCHING_UP (R266). -/
def State.switchIn (s : State) (p : Nat) : State :=
  ({ s with crn := { s.crn with ownState := 1, ownPos := BitVec.ofNat 14 p, catchState := 1, catchSteps := 0, catchBelay := 0,
                                catchFails := 0, restoreHold := false, catchSubject := 0 } }).raise 0x30 p

/-- Membership, and the epoch where a record changes or the step is skipped (R241, R265). -/
def State.membership (s : State) (v : Verdict) : State :=
  let d := v.declared.map (·.toNat)
  let old := s.crn
  let gs := if s.plan.present.isEmpty then [s.ownRange] else s.plan.present
  let k := gs.foldl (fun k g => memberStep s.plan.positions g d v.joins (v.caughtUp.map (·.toNat)) k) old
  let changed := k.members != old.members || k.spares != old.spares
  -- a fault reported after the collective closed belongs to the step that follows (R24)
  let late := old.declared.filter (fun p => !d.contains p && old.declaredBy.any (fun g => g.1 == p && g.2 != 65))
  let lateSlot (q : Nat) : Bool := match s.posOfSlot s.ownRange q with | some p => late.contains p | none => false
  let skip := match v.decision with | .skip _ => true | _ => false
  let k := { k with epoch := if changed || skip then k.epoch + 1 else k.epoch, joins := [],
                    watched := k.watched.filter (fun w => !d.contains w.1), declared := late,
                    declaredBy := old.declaredBy.filter (fun g => late.contains g.1 && g.2 != 65),
                    proposed := old.proposed.filter lateSlot, withdrew := old.withdrew.filter lateSlot,
                    withdrawn := old.withdrawn && decide (old.ownState.toNat ≤ 1) && !d.contains old.ownPos.toNat,
                    restoreTried := k.restoreTried.filter (fun e => k.members.any (fun m => m.1 == e.1 && !m.2.2)) }
  let s := { s with crn := k }
  let me := (BitVec.ofNat 9 s.ownRange, BitVec.ofNat 6 s.planSlot)
  let s := if v.refusedJoins.contains me then s.raise 0x19 0 else s
  let s := if old.ownState = 2 then
      (match k.members.find? (fun e => e.2 == (s.planSlot, false) && e.1 / 32 == s.ownRange) with
        | some e => s.switchIn e.1
        | none => s) else s
  let s := if old.ownState.toNat ≤ 1 && d.contains old.ownPos.toNat then
      { s with crn := { s.crn with ownState := 3, catchState := 0, watch := false } } else s
  let s := if old.ownState = 1 && s.crn.ownState = 1 && v.caughtUp.contains old.ownPos then
      ({ s with crn := { s.crn with ownState := 0, catchState := 0 } }).raise 0x31 old.ownPos.toNat else s
  if v.joins.contains me && s.crn.ownState = 3 then { s with crn := { s.crn with ownState := 2 } } else s

/-- Leaving a position, and lost shards (R272, R273): STATE_LOST holds a context that runs. A module that left with a
shard of some loaded context lost keeps every image until those contexts are torn down (a single-module system until new
images are loaded, R22); without one it unloads them at once. -/
def State.afterMembership (s : State) (c : CtxIdx) (left : Bool) : State :=
  let lost (c : CtxIdx) : Bool := match (s.ctx c).image with | some im => s.shardLost im | none => false
  let run := lost c
  let s := if run then (s.raise 0x12 c.toNat).holdCtx c 3 else s
  if !left then s
  else
    let s := (allCtx.filter (fun k => k != c && lost k)).foldl (fun s k => (s.raise 0x12 k.toNat).holdCtx k 3) s
    let ks := allCtx.filter lost
    if ks.isEmpty then s.leavePosition
    else if s.singleModule then s
    else { s with crn := { s.crn with lostMask := BitVec.ofNat 8 ((ks.map (fun k => 2 ^ k.toNat)).foldl (· + ·) 0) } }

/-- Effect 3: staged repairs, the pending Wihorn image, the shape table. -/
def State.effect3 (s : State) (c : CtxIdx) (n : Nat) : State :=
  let w := s.img.pending
  let s := if s.img.stage = .pending ∧ w.effCtx = c ∧ (w.effStep = 0 ∨ w.effStep.toNat = n + 1) then s.switchover else s
  ((s.applyRepairs).returnPorts).refreshLinks

/-- A module without a step of its own follows the verdicts of its range (R263): a COMMIT moves the step it would
continue from, and an image staged for that instant switches over (R36, R37). -/
def State.followVerdict (s : State) (v : Verdict) : State :=
  let s := s.membership v
  if v.decision = .commit then
    ({ s with crn := { s.crn with follow := mapSet (0, 0) s.crn.follow v.ctx.toNat (v.step.toNat, v.clipN) } }).effect3 v.ctx v.step.toNat
  else s.returnPorts.refreshLinks

/-- A delegate passes a verdict to its range peers and down the cairn tree (R255). -/
def State.passVerdict (s : State) (c : CtxIdx) (im : Sched) (v : Verdict) : State :=
  let below := im.treeRanges.filter (fun g => g != s.ownRange && !im.isRoot g && im.treeParent g == s.ownRange)
  (s.tellSlots 0x09 s.rangePeers (fun _ => .verdictOut v)).tellAll c 0x09 (below.flatMap s.delegatesOf) (fun _ => .verdictOut v)

/-- The first verdict for the step and attempt takes effect; a delegate passes it on (R255). -/
def State.actOnVerdict (s : State) (v : Verdict) : State :=
  let c := v.ctx
  let x := s.ctx c
  let pass := s.isDelegate
  match x.inStep, x.image with
  | true, some im =>
    if v.step ≠ x.step ∨ v.attempt ≠ x.attempt ∨ x.verdict.isSome then s
    else
      let s := if pass then s.passVerdict c im v else s
      if v.decision = .reduce then (s.setCtx c { x with lastVerdict := some v }).reduceAgain c im v
      else s.setCtx c { x with verdict := some v, lastVerdict := some v, phase := 4 }
  | _, _ =>
    if v.decision = .reduce ∨ x.lastVerdict = some v then s
    else
      let s := s.setCtx c { x with lastVerdict := some v }
      if 2 ≤ s.crn.ownState.toNat then s.followVerdict v
      -- a module that abandoned the step (R327) leaves its position when the verdict declares it
      else if v.declared.contains s.crn.ownPos then (s.membership v).afterMembership c true else s

/-! ## The two phases (R255) -/

/-- Positions of the own range whose reports the summary holds: every one not VACANT and not declared. -/
def State.livePositions (s : State) : List Nat :=
  ((List.range 32).map (32 * s.ownRange + ·)).filter (fun p => (s.member p).isSome && !s.crn.declared.contains p)

/-- Reports of the current attempt. -/
def Context.current? (x : Context) (epoch : BitVec 32) (r : CairnReport) : Bool :=
  r.step == x.step && r.attempt == x.attempt && r.membEpoch == epoch

/-- The own range's summary, complete once every live position has reported. -/
def State.rangeSummary (s : State) (x : Context) : Option (List CairnReport) :=
  let rs := x.reports.filter (x.current? s.crn.epoch)
  let live := s.livePositions
  if !live.isEmpty && live.all (fun p => rs.any (fun r => r.position.toNat == p)) then
    some ((rs.filter (fun r => live.contains r.position.toNat)).mergeSort (fun a b => decide (a.slot.toNat ≤ b.slot.toNat)))
  else none

/-- Goes on with the collective where it can: a delegate sends the complete summary up the tree, and in the root range
computes the verdict from every summary. -/
def State.gather (s : State) (c : CtxIdx) : State :=
  let x := s.ctx c
  match x.inStep && (x.phase == 1 || x.phase == 2), x.image, s.rangeSummary x with
  | true, some im, some rs =>
    let joins := (s.crn.joins.filter (fun e => e.1 == s.ownRange)).map (·.2)
    let x := { x with phase := 2 }
    let held := x.summaries.filter (fun e => e.2.all (x.current? s.crn.epoch))
    if !s.isDelegate then s.setCtx c x
    else if im.isRoot s.ownRange then
      let others := im.treeRanges.filter (· != s.ownRange)
      let s := s.setCtx c x
      if others.all (fun g => held.any (fun e => e.1 == g)) then
        s.actOnVerdict (s.verdictOf c im (rs ++ held.flatMap (·.2)))
      else s
    else
      let sent := match x.summaries.find? (fun e => e.1 == s.ownRange) with | some e => e.2 == rs | none => false
      let s := s.setCtx c { x with summaries := mapSet [] x.summaries s.ownRange rs }
      if sent then s
      else s.tellAll c 0x09 (s.delegatesOf (im.treeParent s.ownRange)) (fun _ => .summaryOut (im.treeParent s.ownRange) s.ownRange rs joins)
  | _, _, _ => s

def State.gatherAll (s : State) : State := allCtx.foldl State.gather s

/-- A twin whose digest is not the majority's withdraws (R253). -/
def State.minorityWithdraws (s : State) (c : CtxIdx) (im : Sched) : State :=
  let x := s.ctx c
  if x.twinAll.any (fun h => match s.twinVote x im h with | some d => d != s.stepDigest x im h | none => false) then s.sendWithdraw else s

/-- The losses of the step (Table 12-5): free values for the ordinals this module computes, 0x7FC0_0000 for the others. -/
def State.ownLosses (s : State) (x : Context) (im : Sched) : List F32 :=
  (List.range 16).map (fun k =>
    if s.crn.ownState = 1 ∨ im.mbCount ≤ k ∨ x.belayOrdinal = some k then 0x7FC00000 else Config.loss s.crn.ownPos.toNat k x.step.toNat)

/-- Opens the report: belays close (in attempt 0 only), a divergent minority withdraws, the report goes to every live
range peer. A single-module system decides from its own report (R22). -/
def State.openReport (s : State) (c : CtxIdx) (im : Sched) : State :=
  let x := s.ctx c
  let s := if x.attempt ≠ 0 then s
    else
      let (s, bs) := x.belays.foldl (fun (a : State × List Belay) b => let q := a.1.closeBelay c im b; (q.1, a.2 ++ [q.2])) (s, [])
      s.setCtx c { s.ctx c with belays := bs }
  let s := s.sendSourceDigests c im
  let s := s.minorityWithdraws c im
  let x := s.ctx c
  let s := if x.attempt = 0 then s.setCtx c { x with loss := s.ownLosses x im } else s
  let r := s.makeReport c im
  let x := s.ctx c
  let s := s.setCtx c { x with phase := 1, reportAt := some s.pwr.ticks,
                               reports := x.reports.filter (fun q => q.slot != r.slot || q.attempt != r.attempt) ++ [r] }
  if s.singleModule then s.actOnVerdict (s.verdictOf c im [r])
  else
    let peers := s.rangePeers.filter (fun q => match s.posOfSlot s.ownRange q with | some p => !s.crn.declared.contains p | none => false)
    (s.tellSlots 0x09 peers (fun q => Output.reportOut q r)).gather c

/-- Ranges whose current summary the root still lacks (R256). -/
def State.lacking (s : State) (x : Context) (im : Sched) : List Nat :=
  im.treeRanges.filter (fun g => g != s.ownRange && !x.summaries.any (fun e => e.1 == g && e.2.all (x.current? s.crn.epoch)))

/-- A context of the root range lacks a summary. -/
def State.summaryLacks (s : State) (c : CtxIdx) : List Nat :=
  let x := s.ctx c
  match x.image with
  | some im => if x.inStep && x.phase == 2 && im.isRoot s.ownRange then s.lacking x im else []
  | none => []

/-- The own open reports go to positions that are declared no longer (R243). -/
def State.reportTo (s : State) (ps : List Nat) : State :=
  allCtx.foldl (fun s c =>
    let x := s.ctx c
    match (x.phase == 1 || x.phase == 2) && x.inStep, x.reports.find? (fun r => r.slot.toNat == s.planSlot && x.current? s.crn.epoch r) with
    | true, some r => s.tellSlots 0x09 ((ps.filter (fun p => p / 32 == s.ownRange)).map s.slotOfPos) (fun q => Output.reportOut q r)
    | _, _ => s) s

/-! ## Watch (R250) and catch-up (R271) at the instant -/

/-- The partner's report of a belay, by its outcome: 3 where none arrived or a party is declared. -/
def belayOutcome (rs : List CairnReport) (d : List Nat) (b : BelayPlan) : Nat :=
  if d.contains b.subject || d.contains b.partner then 3
  else match (rs.find? (fun r => r.position.toNat == b.partner)).bind (·.belay) with
    | some q => if q.subject.toNat = b.subject then q.outcome.toNat else 3
    | none => 3

/-- The watch list after a step's belays. `n` is the step, `k` the ordinal belayed. -/
def watchStep (rs : List CairnReport) (v : Verdict) (bs : List BelayPlan) (n k : Nat) (q : Cairn) : Cairn :=
  let d := v.declared.map (·.toNat)
  let q := { q with mismatches := (q.mismatches ++ ((v.excluded.filter (fun w => exclReason w == 2)).map (fun w => (exclPos w, n)))).eraseDups }
  bs.foldl (fun (q : Cairn) b =>
    let o := belayOutcome rs d b
    let failed := v.excluded.contains (exclWord 1 k b.subject)
    let rest := q.watched.filter (fun w => w.1 != b.subject)
    let last := ((q.watched.find? (fun w => w.1 == b.subject)).map (·.2)).getD 0
    if b.restore then q
    else if b.suspect then
      (if failed then q
      else if o = 1 then { q with watched := rest ++ [(last, b.partner)] }
      else if o = 2 then { q with watched := rest }
      else q)
    else if o = 2 ∧ ¬ failed then { q with watched := rest ++ [(b.subject, b.partner)] }
    else q) q

/-- The own outcome of a catch-up step (Table 13-3): a second consecutive failure withdraws. -/
def State.catchUpStep (s : State) (c : CtxIdx) (im : Sched) (v : Verdict) : State :=
  if s.crn.ownState ≠ 1 ∨ v.caughtUp.contains s.crn.ownPos ∨ v.declared.contains s.crn.ownPos then s
  else
    let x := s.ctx c
    let b := x.belays.find? (fun b => b.role == 2 && b.restore)
    let o := match b with | some b => b.outcome | none => 0
    let bad := o == 2 || s.sourceDiffers x im
    let subject := match b with | some b => BitVec.ofNat 14 b.subject | none => s.crn.catchSubject
    let k : Cairn := { s.crn with
      catchSteps := satInc s.crn.catchSteps, catchBelay := BitVec.ofNat 2 o, catchSubject := subject,
      catchFails := if bad then s.crn.catchFails + 1 else 0 }
    let s := { s with crn := k }
    if !bad then s
    else if 2 ≤ k.catchFails then
      (({ s with crn := { s.crn with ownState := 3, catchState := 0, restoreHold := true,
                                     members := s.crn.members.filter (fun e => e.1 != s.crn.ownPos.toNat) } }).sendWithdraw).raise 0x13
      s.crn.ownPos.toNat
    else if v.decision = .commit then
      { s.setCtx c { x with copyDone := false, copied := [] } with crn := { s.crn with catchState := 2 } }
    else s

/-- Subjects whose restore belay ended MISMATCH in a committed step: the next one takes their place (R271). -/
def restoreStep (rs : List CairnReport) (v : Verdict) (bs : List BelayPlan) (q : Cairn) : Cairn :=
  if v.decision ≠ .commit then q
  else bs.foldl (fun (q : Cairn) b =>
    if b.restore ∧ belayOutcome rs (v.declared.map (·.toNat)) b = 2 then { q with restoreTried := q.restoreTried ++ [(b.partner, b.subject)] }
    else q) q

/-! ## The step record (R261, Table 12-5; Table 08-3) -/

/-- Contributors in the final sums: the ordinals of every ACTIVE position, but those a belay partner gives up (R247) and
those outside the final attempt (R235). Every module counts the same (DEDUCED, notes/assumptions/128.md). -/
def State.contributors (s : State) (x : Context) (im : Sched) : Nat :=
  let n := x.step.toNat
  (im.positions.filter (fun e => s.isActive e.1)).foldl (fun a e =>
    let p := e.1
    let gives := (s.belaysIn im x.pol n (p / 32)).any (fun b => b.partner == p && !b.restore)
    a + ((List.range (im.mbOf p)).filter (fun k =>
      !excludes x.excluded p k && !(gives && k == n % max 1 (im.mbOf p)))).length) 0

/-- The switchback block. -/
def Context.switchbackBlock (x : Context) (stormRun : BitVec 8) (flags : Nat) : List Byte :=
  let ts := x.ladders.map (fun p => p.2.tally)
  let sum (f : Tally → Nat) : Nat := (ts.map f).foldl (· + ·) 0
  let k := x.counts
  le 4 (sum (·.tested)) ++ le 4 (sum (·.up)) ++ le 4 (sum (·.down)) ++ le 4 (sum (·.rung1)) ++ le 4 (sum (·.rung2))
    ++ le 4 (sum (·.genuine)) ++ le 4 (sum (·.stickySet)) ++ le 4 (sum (·.noWider)) ++ le 4 (sum (·.stormJumps)) ++ le 4 k.rangeLimited
    ++ [match x.entryPhase with | some p => BitVec.ofNat 8 p | none => 0xFF, stormRun, BitVec.ofNat 8 flags, 0]
    ++ le 2 k.raises ++ le 2 k.drops
    ++ le 8 (sum (·.kept.blocks) + k.conv.blocks) ++ le 8 (sum (·.kept.sat) + k.conv.sat) ++ le 8 (sum (·.kept.unf) + k.conv.unf)
    ++ le 8 (sum (·.kept.esc) + k.conv.esc) ++ le 8 (sum (·.kept.low) + k.conv.low) ++ le 8 k.planeFetch ++ le 16 0

/-- The own step digest: the sum over the owned shards (R252). -/
def State.ownDigest (s : State) (x : Context) (im : Sched) : BitVec 64 :=
  BitVec.ofNat 64 ((s.ownShards im).foldl (fun a h => (a + (s.stepDigest x im h).toNat) % digestP) 0)

/-- The BELAY word: the subject's outcome is the one its partner reported. -/
def belayWord (x : Context) : Word :=
  match x.belays.head? with
  | none => 0
  | some b =>
    let o := if b.role = 1 then
        (match (x.reports.find? (fun r => r.position.toNat == b.partner)).bind (·.belay) with
          | some q => if q.subject.toNat = b.subject then q.outcome.toNat else 3
          | none => 3)
      else b.outcome
    put b.subject 0 14 ||| put b.ordinal 14 4 ||| put (boolNat b.suspect) 18 1 ||| put b.role 19 2 ||| put o 21 2

/-- The record's bytes. `epoch` is the one the step ran under; `held` and `raised` belong to Table 08-3's flags. -/
def State.stepRecordBytes (s : State) (x : Context) (im : Sched) (v : Verdict) (epoch : BitVec 32) (pos : Nat) (stormRun : BitVec 8)
    (raised held : Bool) (feedPos : Word) (contributors : Nat) : List Byte :=
  let (out, cause) : Nat × Nat := match v.decision with | .commit => (1, 0) | .skip k => (2, k.toNat) | .reduce => (0, 0)
  let flags := boolNat x.entryPhase.isSome + 2 * boolNat v.stormStep + 4 * boolNat (out == 2) + 8 * boolNat raised + 16 * boolNat held
  let rope := if x.planIdx = 0 then 0xFFFFFFFF else x.planIdx - 1
  let rows := (List.range im.groups.length).foldl (fun (a : Nat) j => a + (mapGet {} x.rows j).fpf.toNat * 2 ^ (5 * j)) 0
  pad 1024 (pad 0x300 (leBytes 8 (x.recordSeq + 1) ++ leBytes 8 x.step ++ leBytes 4 epoch ++ le 2 pos ++ [s.crn.ownSlot.setWidth 8]
    ++ le 1 (out + 16 * cause) ++ le 1 (x.attempt.toNat + 1) ++ le 1 (min 32 v.excluded.length) ++ leBytes 2 x.mbFailed
    ++ le 4 contributors ++ leBytes 64 im.modelDigest ++ leBytes 64 im.placementDigest ++ leBytes 64 x.pol.policyDigest
    ++ (List.range 16).flatMap (fun k => leBytes 4 ((x.loss[k]?).getD 0x7FC00000)) ++ leBytes 8 (belayWord x)
    ++ leBytes 8 (((x.belays.head?).bind (·.ownDigest)).getD 0) ++ leBytes 8 (s.ownDigest x im) ++ leBytes 8 feedPos
    ++ leBytes 80 (BitVec.ofNat 640 v.clipN) ++ le 4 rope ++ le 4 0 ++ le 8 x.counts.feedWait ++ leBytes 8 x.counts.tickStart
    ++ leBytes 8 s.pwr.ticks ++ le 2 x.counts.staleTokens ++ le 1 x.counts.fpfTors.toNat ++ [0] ++ le 4 x.counts.tileFailures ++ le 8 0
    ++ x.switchbackBlock stormRun flags ++ leBytes 160 (BitVec.ofNat 1280 rows))
    ++ (v.excluded.take 32).flatMap (leBytes 4))

/-! ## The instant (R24, Table 12-3) -/

/-- The switchback table after effect 1 (R146, R149): working copies with every earlier nonzero STICKY_LEFT one lower. -/
def Context.committedSwb (x : Context) : SMap Swb :=
  x.swbWork.foldl (fun (m : SMap Swb) e =>
    let q := e.2
    -- a replayed tile sets the subject's entry, not this one (R248)
    let fresh := decide (0 < (x.ladder e.1).tally.stickySet) && !(x.ladder e.1).replay
    let q := if fresh || q.stickyLeft = 0 then q
      else { q with stickyLeft := q.stickyLeft - 1, stickyRung := if q.stickyLeft = 1 then 0 else q.stickyRung }
    mapSet {} m e.1 q) []

/-- A failure count clears after 256 consecutive committed steps without a failure, the failing step itself no such one
(R108, R110). -/
def Tor.cleanStep (r : Tor) : Tor :=
  let clean := r.cleanSteps.zipIdx.map (fun n => if r.failedNow.contains n.2 then 0 else n.1 + 1)
  let r := { r with cleanSteps := clean }
  let r := (List.range 5).foldl (fun (r : Tor) p =>
    if 256 ≤ nth 0 clean p then { r.setRowCount p 0 with cleanSteps := setNth r.cleanSteps p 0 } else r) r
  if 256 ≤ nth 0 clean 5 then { r with torFail := 0, cleanSteps := setNth r.cleanSteps 5 0 } else r

/-- The clean-step counts of a context's tors; a tor with nothing counted keeps none. -/
def State.cleanTors (s : State) (c : CtxIdx) : State :=
  (s.tors.filter (fun e => s.torCtx (BitVec.ofNat 13 e.1) == some c && (e.2.failCount != 0 || e.2.torFail != 0))).foldl
    (fun s e => s.setTor (BitVec.ofNat 13 e.1) e.2.cleanStep) s

/-- A new step's failures begin (R108). -/
def State.forgetFailures (s : State) (c : CtxIdx) : State :=
  (s.tors.filter (fun e => s.torCtx (BitVec.ofNat 13 e.1) == some c && !e.2.failedNow.isEmpty)).foldl
    (fun s e => s.setTor (BitVec.ofNat 13 e.1) { s.tor (BitVec.ofNat 13 e.1) with failedNow := [] }) s

/-- The flow entries of a context reset (R195, R197). -/
def State.resetFlows (s : State) (c : CtxIdx) : State :=
  let e := nth {} s.img.active.contexts c.toNat
  let mine (f : Nat) : Bool := decide (e.flowFirst ≤ f) && decide (f < e.flowFirst + e.flowCount)
  let s := { s with links := { s.links with flows := s.links.flows.filter (fun f => !mine f.1) } }
  -- TOKEN packets taken a step ahead belong to the flows as they now begin
  let s := (s.links.aheadSeen.filter (fun a => mine a.1)).foldl (fun s a =>
    match (s.flow a.1).accept a.2 with
    | .accepted x => s.setFlow a.1 x
    | _ => s) s
  { s with links := { s.links with aheadSeen := s.links.aheadSeen.filter (fun a => !mine a.1) } }

/-- Effect 1: the epoch pointers, the switchback table, the live ceilings, N. -/
def State.effect1 (s : State) (c : CtxIdx) (im : Sched) (v : Verdict) : State :=
  let x := s.ctx c
  let x := { x with pointer := x.step.toNat, stamped := [], committed := x.step, swb := x.committedSwb, ceilings := x.live, planeValid := [],
                    clipTotal := v.clipN, factor := clipFactor (s.pilot c) im.gMax v.clipN }
  (s.setCtx c x).storeSwb c

/-- A staged map-out takes a tor that a loaded image needs (R272). -/
def State.losesTor (s : State) : Bool := s.stagedTors.any (fun t => (s.tor t).stagedTor && s.torNeeded t)

/-- Effect 4: the schedule engine for step n + 1. -/
def State.effect4 (s : State) (c : CtxIdx) (im : Sched) (v : Verdict) : State :=
  let x := s.ctx c
  let n := x.step.toNat
  let s := s.setCtx c { (x.advance (s.pilot c) (n + 1)) with step := x.step + 1 }
  { s with ni := { s.ni with step := x.step + 1, schedCtx := c, normSq := clipNorm (s.pilot c) v.clipN,
                             factor := clipFactor (s.pilot c) im.gMax v.clipN } }

/-- Effect 5: retained contributions and token counters; then the signals held for the step that follows (R135). -/
def State.effect5 (s : State) (c : CtxIdx) : State :=
  let x := s.ctx c
  let now := x.tokenPend.filter (fun m => m.step == x.step.setWidth 16 && m.membEpoch == s.crn.epoch.setWidth 8 && m.ctxEpoch == x.epoch)
  let s := s.setCtx c { x with tokens := [], tokenPend := [], tokenGot := [], standIn := [], tokenOverflow := false, handed := [] }
  now.foldl (fun s m =>
    let x := s.ctx c
    let k := tokenKey m.token.toNat m.srcPos.toNat
    (s.setCtx c { x with tokenGot := mapSet 0 x.tokenGot k (mapGet 0 x.tokenGot k + m.inc.toNat) }).addToken c m.token.toNat m.inc.toNat) s

/-- The storm run (R157) and whether PERSISTENT_STORM is raised at this cairn. -/
def Context.stormStep (x : Context) (v : Verdict) : Context × Bool :=
  if !v.stormStep then ({ x with stormRun := 0, stormRaised := false }, false)
  else
    let run := satInc x.stormRun
    let hit := !x.stormRaised && decide (x.pol.thresholds.stormRun.toNat ≤ run.toNat)
    ({ x with stormRun := run, stormRaised := x.stormRaised || hit }, hit)

/-- A PAUSE at the front of the ring takes effect in the instant (R317, Table 15-13). -/
def State.pauseFront (s : State) (c : CtxIdx) : State :=
  match s.frontEntry c 6 with
  | some e => if (s.entryCauses c e).isEmpty then ((s.consume c).holdCtx c 0).endEntry c e 1 0 0 else s
  | none => s

/-- Belay outcomes of the step, and restores to try again (R249, R271). -/
def State.belayStep (s : State) (rs : List CairnReport) (v : Verdict) (bs : List BelayPlan) (n k : Nat) : State :=
  { s with crn := restoreStep rs v bs (watchStep rs v bs n k s.crn) }

/-- WATCH: the module's own position is watched. -/
def State.noteWatch (s : State) : State :=
  { s with crn := { s.crn with watch := s.crn.watched.any (fun w => w.1 == s.crn.ownPos.toNat) } }

/-- Effects 1 and 2 of an instant: the pointer and what it moves, then membership. -/
def State.instantMembership (s : State) (c : CtxIdx) (im : Sched) (v : Verdict) : State :=
  let x := s.ctx c
  let n := x.step.toNat
  ((((if v.decision = .commit then (s.catchUpStep c im v).effect1 c im v else s.catchUpStep c im v).belayStep
    x.reports v (s.rangeBelays im x.pol n) n (n % max 1 im.mbCount)).membership v).resetFlows c).noteWatch

/-- The tors of a context pass their CAIRN once the step is released: word 0 is next (R141). One that has PRE words left
issues them first. -/
def State.passCairn (s : State) (im : Sched) : State :=
  im.tors.foldl (fun s e =>
    let t : TorIdx := BitVec.ofNat 13 e.tor
    let r := s.tor t
    if r.state != 4 then s
    else if r.preLeft = 0 then s.setTor t { r with pc := 0, state := 0 }
    else s.setTor t { r with released := true }) s

/-- Effects 3, 4 and 5 of an instant: repairs, the tors of a committed step, the records; every instant invalidates the
return buffers (R173). -/
def State.instantTors (s : State) (c : CtxIdx) (im : Sched) (v : Verdict) (n : Nat) (loses left : Bool) : State :=
  let s := if loses then s.raise 0x14 0 else s
  let s := if v.decision = .commit then s.effect3 c n
    else ((if loses && left then s.applyRepairs else s).returnPorts).refreshLinks
  let s := if v.decision = .commit then (s.cleanTors c).effect4 c im v else s
  (((s.effect5 c).dropBuffers c).forgetFailures c).passCairn im

/-- What the module's own registers keep of a verdict: the last record's number, the outcome and the skip cause, the count
of skips, and the containment cause of a SKIP that names it (R254, R256, R351). -/
def State.noteDecision (s : State) (v : Verdict) (seq : Word) : State :=
  let (out, cause) : BitVec 4 × BitVec 4 := match v.decision with | .skip q => (2, q) | _ => (1, s.crn.skipCause)
  let s := { s with
    crn := { s.crn with recordSeq := seq, lastOutcome := out, skipCause := cause },
    err := { s.err with skips := if v.decision == .commit then s.err.skips else s.err.skips + 1 },
    prefetch := false }
  if v.decision = .skip 1 then s.recordCause 0x22 0 7 0 else s

/-- The completion of the STEP entry a context runs, with the record's number (R319). -/
def State.postOutcome (s : State) (c : CtxIdx) (x : Context) (commit : Bool) (seq : Word) : State :=
  match x.current with
  | some q => s.post c (stepRecord q 1 commit x.step seq)
  | none => s

/-- A context after its step's record: a fresh step with the divergence counts and the record's number. A catching-up
module takes no STEP entry; its feed position advances all the same (R269, R319). -/
def Context.afterRecord (y : Context) (div : SMap Nat) (seq : Word) (catchingUp : Bool) : Context :=
  { y.freshStep with divergence := div, recordSeq := seq, feedPos := if catchingUp then y.feedPos + 1 else y.feedPos }

/-- Storms, divergence and the step record of an instant, from the state o before it; the record's hold causes: a storm,
a position that diverged twice. -/
def State.instantRecord (s o : State) (c : CtxIdx) (im : Sched) (v : Verdict) : State × Bool × Bool :=
  let x := o.ctx c
  let commit := v.decision == .commit
  let pos := if o.crn.ownState.toNat ≤ 1 then o.crn.ownPos.toNat else 0xFFFF
  let (y, raised) := (s.ctx c).stormStep v
  let div := v.diverged.foldl (fun (m : SMap Nat) h => mapSet 0 m h (mapGet 0 x.divergence h + 1)) []
  let y := y.afterRecord div (x.recordSeq + 1) (o.crn.ownState == 1)
  let s := s.setCtx c y
  let hold := raised && x.pol.persistentStorm
  let twice := div.any (fun e => decide (2 ≤ e.2))
  let held := hold || twice || s.shardLost im
  let seq := x.recordSeq + 1
  let bytes := s.stepRecordBytes x im v o.crn.epoch pos y.stormRun raised held y.cairnFeed (o.contributors x im)
  let s := s.writeBytes (im.recordBase + 1024 * (seq.toNat % 256)) bytes
  let s := (s.noteDecision v seq).postOutcome c x commit seq
  let s := if raised then s.raise 0x20 0 else s
  (if twice then s.raise 0x11 0 else s, hold, twice)

/-- What follows an instant: a pause, holds, membership, the end of the run, the next step and the declarations that
belong to it (R24). -/
def State.afterInstant (s : State) (c : CtxIdx) (n : Nat) (commit hold twice left : Bool) : State :=
  let s := s.pauseFront c
  let s := if hold then s.holdCtx c 1 else s
  let s := if twice then s.holdCtx c 2 else s
  let s := s.afterMembership c left
  let x : Context := s.ctx c
  let aborted := match x.abortAt with | some (t, _) => decide (t.toNat ≤ n) | none => false
  let ended := commit && x.endStep != 0 && decide (x.endStep.toNat ≤ n)
  let s := if x.state ≠ 3 ∧ x.state ≠ 4 then s
    else if ended then (s.endRun c 1).onIdle
    else if aborted then (s.endRun c 2).onIdle else s
  let s := s.prepareStep c
  let s := (s.crn.declared).foldl (fun s p =>
    (if s.isDelegate && p / 32 == s.ownRange then s.tellDeclaration p else s).declareIn p c) s
  ((s.readLine c).scanRing c).tryStart c

/-- The cairn instant of a COMMIT or SKIP verdict in a context: R24's effects, the record, the holds, the end of a run. -/
def State.instant (s : State) (c : CtxIdx) (im : Sched) (v : Verdict) : State :=
  let t := s.instantMembership c im v
  let left := decide (s.crn.ownState.toNat ≤ 1) && decide (2 ≤ t.crn.ownState.toNat) && !t.crn.restoreHold
  let (u, hold, twice) := (t.instantTors c im v (s.ctx c).step.toNat s.losesTor left).instantRecord s c im v
  u.afterInstant c (s.ctx c).step.toNat (v.decision == .commit) hold twice left

end Sys2Proof.Machine
end

