-- ==== Sys2Proof/Machine/LinkRows.lean ====
section
/-! DEFINITION. The link commands: training, claims and discovery (R188, R202 to R205), the link layer (R187 to R194),
reception, forwarding and the flow tests (R190, R195 to R200, R329). -/

namespace Sys2Proof.Machine
open Sys2Proof

/-- Frames pass: bring-up step 7 has begun, and neither a failed start nor bivouac bars them. -/
def State.framesOn (s : State) : Bool := s.powered && s.boot.links && decide (s.boot.mode.toNat ≤ 1) && !s.pwr.extest

/-- The ports work: containment leaves them control frames and MEMBERSHIP only (Table 13-8). -/
def State.linksOn (s : State) : Bool := s.framesOn && s.err.containState != 1

/-! ## Join-ready and the conditions of R203 to R205 -/

/-- Enters a link state. -/
def State.enterLinks (s : State) (n : BitVec 3) : State := { s with links := { s.links with state := n } }

/-- Join-ready: a single-module system takes its one position (R22). -/
def State.joinReady (s : State) : State :=
  let s := s.enterLinks 2
  if s.singleModule && s.crn.ownState == 3 then
    let p := s.ownRange * 32 + s.planSlot
    { s with crn := { s.crn with ownState := 0, ownPos := BitVec.ofNat 14 p, members := [(p, (s.planSlot, true))] } }
  else s

/-- Peers that have become unreachable are reported; at run time one of the two modules withdraws (R203, R205, R242). -/
def State.checkPeers (s : State) : State :=
  let fresh := s.unreachablePeers.filter (fun q => !bit s.links.unreachable q)
  let s := { s with links := { s.links with unreachable := s.unreachablePeers.foldl (fun m q => m ||| BitVec.ofNat 33 (2 ^ q)) 0 } }
  fresh.foldl (fun s q =>
    let s := s.raise 0x16 q
    if s.boot.mode ≠ 1 then s else if q < s.planSlot then s.sendWithdraw else s.suspect q) s

/-- The minimums at run time (R205): falling below them withdraws the module (R242). -/
def State.checkMinimums (s : State) : State :=
  let below := !(decide (s.plan.minDirect ≤ s.directPeers) && decide (s.plan.minUplinks ≤ s.upLinks.length))
  let was := s.links.belowMin
  let s := { s with links := { s.links with belowMin := below } }
  if below && !was then (s.raise 0x17 0).sendWithdraw else s

/-- Discovery has settled once. -/
def State.noteSettled (s : State) : State := { s with links := { s.links with settled := true } }

/-- Plan-mismatch is entered and reported, with LNK_STATUS as it now reads (R204). -/
def State.planMismatch (s : State) : State := (s.enterLinks 3).raise 0x15 (s.enterLinks 3).lnkStatus.toNat

/-- Tests what R203 to R205 test, once discovery is settled. -/
def State.linkCheck (s : State) : State :=
  if !s.discoverySettled then s
  else
    let s := s.noteSettled.checkPeers
    if s.links.state = 2 then s.checkMinimums
    else if s.meetsPlan then s.joinReady
    else if s.links.state = 3 then s
    else s.planMismatch

/-- A port's state or outcome changed. -/
def State.portChanged (s : State) : State :=
  let training := allPorts.any (fun n => (s.port n).state == 1)
  let s := if s.links.state = 0 ∧ ¬ training then s.enterLinks 1 else s
  let s := if s.discoverySettled then s.sendRangeMap else s
  (s.linkCheck).refreshIfIdle

/-- A port that is down or failed: MISSING where it was planned (Table 10-5). -/
def State.portMissing (s : State) (n : Nat) : State :=
  if s.portClass n = 0 then s.setPort n { s.port n with state := 0 }
  else (s.setPort n { s.port n with state := 4, outcome := 2 }).raise 0x24 n

/-! ## Training and claims -/

/-- LINK_TRAINING_DONE (R188, R202, Table 10-5). -/
def execLinkTrainingDone (port : BitVec 7) (trained : Bool) (rtt : BitVec 16) (s : State) : Host.Outcome State Fault Refusal :=
  .next (
    let n := port.toNat
    let p := s.port n
    if !s.linksOn || decide (96 ≤ n) || p.state != 1 then s
    else if !trained then (s.portMissing n).portChanged
    else if 1200 < rtt.toNat then ((s.setPort n { p with rtt := rtt, state := 5, outcome := 6 }).raise 0x24 n).portChanged
    else if s.portClass n = 0 then ((s.setPort n { p with rtt := rtt, state := 0, outcome := 3 }).raise 0x25 n).portChanged
    else ((s.setPort n { p with rtt := rtt, state := 2, claimed := false }).sendClaim n).portChanged)

/-- CLAIM_SEND (R202): until a claim has been received. -/
def execClaimSend (port : BitVec 7) (s : State) : Host.Outcome State Fault Refusal :=
  .next (
    let n := port.toNat
    if s.linksOn && decide (n < 96) && (s.port n).state == 2 && !(s.port n).claimed then s.sendClaim n else s)

/-- The outcome of a claim on a planned port: WRONG_CLASS, WRONG_POSITION or MATCH (Table 10-5). -/
def State.claimOutcome (s : State) (n : Nat) (c : ClaimData) : BitVec 4 :=
  let e := s.planPort n
  if c.fromSwitch != (s.portClass n == 2) then 5
  else if c.addr.toNat = field e 14 15 ∧ c.port.toNat = field e 7 7 then 1 else 4

/-- CLAIM: recorded; it decides the outcome, and a changed claim disables a port in MATCH. -/
def execClaim (port : BitVec 7) (c : ClaimData) (s : State) : Host.Outcome State Fault Refusal :=
  .next (
    let n := port.toNat
    let p := s.port n
    if !s.linksOn || decide (96 ≤ n) then s
    else
      let q := { p with neighAddr := c.addr, neighPort := c.port, digest := c.digest, claimed := true }
      let o := s.claimOutcome n c
      if p.state = 0 ∧ p.outcome = 3 then (s.setPort n q).sendClaim n
      else if p.state = 2 then
        (if o = 1 then
          let late := s.links.state == 2 && s.boot.mode == 1 && !s.idle
          ((s.setPort n { q with outcome := 1, state := if late then 2 else 3, returnAtCairn := late }).sendClaim n).portChanged
        else (((s.setPort n { q with outcome := o, state := 5 }).raise 0x26 n).sendClaim n).portChanged)
      else if p.state = 3 then
        (if p.neighAddr = c.addr ∧ p.neighPort = c.port then s.setPort n q
        else ((((s.setPort n { q with outcome := 4 }).portDown n 5).raise 0x26 n).sendClaim n).portChanged)
      else s)

/-- DISCOVERY_TIMEOUT (R202). -/
def execDiscoveryTimeout (port : BitVec 7) (s : State) : Host.Outcome State Fault Refusal :=
  .next (
    let n := port.toNat
    if s.linksOn && decide (n < 96) && s.portClass n != 0 && (s.port n).outcome == 0 then (s.portMissing n).portChanged else s)

/-- RANGE_MAP (R203, R204). -/
def execRangeMap (slot : BitVec 6) (counts : List (BitVec 2)) (s : State) : Host.Outcome State Fault Refusal :=
  .next (
    if s.linksOn && decide (slot.toNat ≤ 32) && counts.length == 33 then
      ({ s with links := { s.links with rangeMaps := mapSet [] s.links.rangeMaps slot.toNat counts } }).linkCheck
    else s)

/-- A port starts to train again: its link layer begins afresh. -/
def State.retrain (s : State) (n : Nat) : State :=
  s.setPort n { s.port n with state := 1, outcome := 0, claimed := false, returnAtCairn := false, rxNext := 0, txNext := 0, nak := false,
                              retry := [], ctlQ := [], dataQ := [], creditCtl := 2, creditData := 2, creditShared := 12,
                              freed := [0, 0, 0], returned := [0, 0, 0] }

/-- PORT_RETRAIN (R205). -/
def execPortRetrain (port : BitVec 7) (s : State) : Host.Outcome State Fault Refusal :=
  .next (if s.linksOn && decide (port.toNat < 96) && (s.port port.toNat).state == 4 then s.retrain port.toNat else s)

/-- Rediscovers a disabled or down port. -/
def State.rediscover (s : State) (n : Nat) : State :=
  if s.linksOn && decide (n < 96) && ((s.port n).state == 4 || (s.port n).state == 5) then s.retrain n else s

/-- REDISCOVER (LNK_CONTROL). -/
def execRediscover (port : BitVec 7) (s : State) : Host.Outcome State Fault Refusal := .next (s.rediscover port.toNat)

/-! ## Ports going down (R194, R206) -/

/-- A port is declared down; in discovery it counts as MISSING (R207). -/
def State.dropPort (s : State) (n : Nat) : State :=
  let p := s.port n
  if p.state = 3 then (s.portDown n 4).portChanged
  else if p.state = 2 then ((s.portDown n 4).portMissing n).portChanged else s

/-- LANE_LOCK_LOSS. -/
def execLaneLockLoss (port : BitVec 7) (s : State) : Host.Outcome State Fault Refusal :=
  .next (if s.linksOn && decide (port.toNat < 96) then s.dropPort port.toNat else s)

/-- CONTROL_FRAME_TIMEOUT. -/
def execControlFrameTimeout (port : BitVec 7) (s : State) : Host.Outcome State Fault Refusal :=
  .next (if s.linksOn && decide (port.toNat < 96) then s.dropPort port.toNat else s)

/-- UNCORRECTABLE_CODEWORD (R187, R194): counted; more than 16 in 1,000,000 ticks bring the port down. -/
def execUncorrectableCodeword (port : BitVec 7) (s : State) : Host.Outcome State Fault Refusal :=
  .next (
    let n := port.toNat
    let p := s.port n
    if !s.linksOn || decide (96 ≤ n) || !(p.state == 2 || p.state == 3) then s
    else
      let ts := (p.cwTicks.filter (fun t => decide ((s.pwr.ticks - t).toNat < 1000000))) ++ [s.pwr.ticks]
      let s := s.setPort n { p with uncorrCw := satInc p.uncorrCw, cwTicks := ts }
      if 16 < ts.length then s.dropPort n else s)

/-! ## Control frames and retries (R192, R193) -/

/-- Re-sends from the oldest unacknowledged packet; a packet already sent 8 times brings the port down (R194). -/
def State.goBack (s : State) (n : Nat) : State :=
  let p := s.port n
  match p.retry with
  | [] => s
  | (_, k) :: _ =>
    if 8 ≤ k then s.dropPort n
    else
      let p := { p with retry := p.retry.map (fun e => (e.1, e.2 + 1)), retries := p.retries + BitVec.ofNat 16 p.retry.length }
      (s.setPort n p).sendOut n (p.retry.map (·.1))

/-- The retry buffer after a cumulative acknowledgement. -/
def acknowledge (q : List (Packet × Nat)) (ack : BitVec 8) : List (Packet × Nat) :=
  match q.findIdx? (fun e => Header.lseq e.1.header == ack) with
  | some i => q.drop (i + 1)
  | none => q

/-- Credits regained (R192). The receiver counts a slot by the kind it had free, so a kind can come back fuller than it
went: what is over goes to the kinds that lack it, and none is lost. -/
def Port.regain (p : Port) (ctl data shared : Nat) : Port :=
  let c := p.creditCtl + ctl
  let d := p.creditData + data
  let sh := p.creditShared + shared + (c - 2) + (d - 2)
  let c := min 2 c
  let d := min 2 d
  let c' := min 2 (c + (sh - 12))
  let d' := min 2 (d + (sh - 12 - (c' - c)))
  { p with creditCtl := c', creditData := d', creditShared := min 12 sh }

/-- What a cumulative count of a credit kind, mod 32, adds to what came before (R193). -/
def Port.sinceLast (p : Port) (kind : Nat) (count : BitVec 5) : Nat := (count.toNat + 32 - nth 0 p.returned kind) % 32

/-- CONTROL_FRAME: symbols corrected in it and in idle codewords (R187), acknowledgement, credits, NAK. The credit counts
are cumulative, mod 32, so that a lost frame loses none (DESIGN CHOICE, notes/assumptions/148.md). -/
def execControlFrame (port : BitVec 7) (check : FrameCheck) (ack : BitVec 8) (nak : Bool) (ctl data shared : BitVec 5) (s : State) : Host.Outcome State Fault Refusal :=
  .next (
    let n := port.toNat
    let p := s.port n
    if !s.framesOn || decide (96 ≤ n) || !p.lit then s
    else
      let p := { p with corrected := p.corrected + check.corrected.setWidth 64 }
      if !check.valid then s.setPort n p
      else
        let q := p.regain (p.sinceLast 0 ctl) (p.sinceLast 1 data) (p.sinceLast 2 shared)
        let s := s.setPort n { q with retry := acknowledge p.retry ack, returned := [ctl.toNat, data.toNat, shared.toNat] }
        (if nak then s.goBack n else s).pumpPort n)

/-- CONTROL_FRAME_SEND: the cumulative state, which a later frame repeats: the acknowledgement, a NAK until the packet
asked for has come, and the slots freed of each kind, mod 32. -/
def execControlFrameSend (port : BitVec 7) (s : State) : Host.Outcome State Fault Refusal :=
  .next (
    let n := port.toNat
    let p := s.port n
    if !s.framesOn || decide (96 ≤ n) || !p.lit then s
    else
      s.emit (.controlOut n (p.rxNext - 1) p.nak (nth 0 p.freed 0 % 32) (nth 0 p.freed 1 % 32) (nth 0 p.freed 2 % 32)))

/-- RETRY_TIMEOUT. -/
def execRetryTimeout (port : BitVec 7) (s : State) : Host.Outcome State Fault Refusal :=
  .next (
    if s.framesOn && decide (port.toNat < 96) && (s.port port.toNat).lit then s.goBack port.toNat else s)

/-! ## Reception -/

/-- The kind of receive slot a packet takes: its class's reserved one while one is free, else a shared one, else the other
class's. -/
def Port.slotKind (p : Port) (cls : Nat) : Option Nat :=
  let used (k : Nat) : Nat := (p.rxSlots.filter (fun e => e.2 == k)).length
  if used cls < 2 then some cls else if used 2 < 12 then some 2 else if used (1 - cls) < 2 then some (1 - cls) else none

/-- Frees a receive slot: its credit goes back with the control frames that follow. -/
def State.freeSlot (s : State) (n kind : Nat) : State :=
  let p := s.port n
  s.setPort n { p with freed := setNth p.freed kind (nth 0 p.freed kind + 1) }

/-- R190's tests on a header, R198's, and R20's: an address of a slot above 32. -/
def Header.malformed (h : Header) : Bool :=
  typeClass h.type != some h.cls || field h 8 35 != 0 || (h.slotFlow && addrRange h.src != addrRange h.dest)
  || (h.type != 0x10 && [h.dest, h.src, h.treeDest].any (fun a => decide (32 < addrSlot a)))

/-- What R195, R197, R244 and R329 make of a positional packet. -/
inductive Standing where
  | malformed | stale | held | now
  deriving DecidableEq, Repr

def State.standing (s : State) (h : Header) : Standing :=
  let x := s.ctx h.ctx
  let e := nth {} s.img.active.contexts h.ctx.toNat
  let f := 2 * h.srcPos + h.cls
  let step := x.step.setWidth 16
  let epoch : Byte := s.crn.epoch.setWidth 8
  let stateOk := x.state == 3 || x.state == 4 || (x.state == 2 && (h.type != 0x07 || s.crn.ownState == 1))
  if !e.valid || decide (f < e.flowFirst) || decide (e.flowFirst + e.flowCount ≤ f) then .malformed
  else if h.ctxEpoch ≠ x.epoch ∨ !stateOk ∨ s.crn.declared.contains h.srcPos then .stale
  -- the entry of the module's own position is never used (R195)
  else if h.srcPos = s.crn.ownPos.toNat ∧ s.crn.ownState.toNat ≤ 1 then .stale
  else if h.step = step ∧ h.membEpoch = epoch then
    (match s.member h.srcPos with
      | some (q, _) => if h.src = mkAddr (h.srcPos / 32) q then .now else .stale
      | none => .stale)
  else if (h.step = step ∨ h.step = step + 1) ∧ (h.membEpoch = epoch ∨ h.membEpoch = epoch + 1) then .held
  else .stale

/-- Hands a packet to its consumer: the command of its type acts on it. -/
def State.handOver (s : State) (n : Nat) (k : Packet) (kind : Nat) : State := (s.freeSlot n kind).emit (.handed n k)

/-- Sends a FLOW_ACK for a flow entry: BASE goes to the sender (R196). -/
def State.sendFlowAck (s : State) (slotFlow : Bool) (f : Nat) : State :=
  let x := if slotFlow then s.slotFlowOf f else s.flow f
  let y := { x with lastAck := x.base }
  if slotFlow then (s.setSlotFlow f y).tellSlot 0x05 (f / 2) (.flowAckOut true f x.base)
  else (s.setFlow f y).tell (s.flowCtx f) 0x05 (f / 2) (.flowAckOut false f x.base)

/-- Sends the FLOW_ACK that is due once BASE has advanced by 64. -/
def State.ackIfDue (s : State) (slotFlow : Bool) (f : Nat) : State :=
  let x := if slotFlow then s.slotFlowOf f else s.flow f
  if 64 ≤ (x.base - x.lastAck).toNat then s.sendFlowAck slotFlow f else s

/-- The flow tests of R196, then the hand-over. -/
def State.flowTest (s : State) (n : Nat) (k : Packet) (kind : Nat) : State :=
  let h : Header := k.header
  let p := s.port n
  let f := 2 * h.srcPos + h.cls
  let sf := 2 * addrSlot h.src + h.cls
  match (if h.slotFlow then s.slotFlowOf sf else s.flow f).accept h.seq with
  | .duplicate => (s.setPort n { p with dupDrops := satInc p.dupDrops }).freeSlot n kind
  | .beyond => (s.setPort n { p with window := satInc p.window }).freeSlot n kind
  | .accepted x =>
    ((if h.slotFlow then s.setSlotFlow sf x else s.setFlow f x).handOver n k kind).ackIfDue h.slotFlow (if h.slotFlow then sf else f)

/-- A reduction or gather packet that must stay in its receive slot: its accumulators are held by an earlier node (R218),
or the blocks it overwrites have not landed (R268). -/
def State.mustWait (s : State) (k : Packet) : Bool :=
  let h : Header := k.header
  let x := s.ctx h.ctx
  let a := CollArg.ofWord h.arg
  match h.type == 1, x.image, x.findNode a.chunk a.gather with
  | true, some im, some (i, e) =>
    if a.gather then !(parseGather 4096 a.first k.payload).all (fun b => s.blockLanded h.ctx im e.param (e.first + b.1))
    else x.accHeld i e
  | _, _, _ => false

/-- A packet for this module. -/
def State.consumePacket (s : State) (n : Nat) (k : Packet) (kind : Nat) : State :=
  let h : Header := k.header
  let p := s.port n
  if h.type = 0x10 then s.handOver n k kind
  else if h.slotFlow then s.flowTest n k kind
  else match s.standing h with
    | .malformed => (s.setPort n { p with malformed := satInc p.malformed }).freeSlot n kind
    | .stale => (s.setPort n { p with stale := satInc p.stale }).freeSlot n kind
    | .now => if s.mustWait k then s.setPort n { p with rxSlots := p.rxSlots ++ [(k, kind)] } else s.flowTest n k kind
    | .held =>
      if h.type = 0x02 then
        let key := (2 * h.srcPos, h.seq)
        if s.links.aheadSeen.contains key then (s.setPort n { p with dupDrops := satInc p.dupDrops }).freeSlot n kind
        else { s with links := { s.links with aheadSeen := s.links.aheadSeen ++ [key] } }.handOver n k kind
      else s.setPort n { p with rxSlots := p.rxSlots ++ [(k, kind)] }

/-- A packet for another module: forwarded whole, its slot freed as it moves on (R191, R199, R200). -/
def State.forwardPacket (s : State) (n : Nat) (k : Packet) (kind : Nat) : State :=
  let s := s.freeSlot n kind
  match s.route k.header none with
  | some m => (s.queueOn m k false).pumpPort m
  | none => let p := s.port n; s.setPort n { p with hopLimit := satInc p.hopLimit }

/-- PACKET_RECEIVE: the link-level checks, then the packet's own. In a contained module a packet stays in its receive slot:
the network interface has stopped (Table 13-8; DEDUCED, notes/assumptions/148.md). -/
def execPacketReceive (port : BitVec 7) (r : RawPacket) (overlaps : Bool) (corrected : BitVec 16) (s : State) :
    Host.Outcome State Fault Refusal :=
  .next (
    let n := port.toNat
    let p := s.port n
    let h : Header := r.header
    if !s.framesOn || decide (96 ≤ n) || !p.lit then s
    else
      let p := { p with corrected := p.corrected + corrected.setWidth 64 }
      let bad := overlaps || decide (4096 < h.length) || r.payload.length != h.length || packetCrc h r.payload != r.crc
      -- a port that is not up takes claims only: other packets are asked for again (DESIGN CHOICE, notes/assumptions/148.md)
      let early := p.state != 3 && h.type != 0x10
      if bad || early || h.lseq != p.rxNext then s.setPort n { p with nak := true }
      else match p.slotKind h.cls with
        | none => s.setPort n { p with nak := true }
        | some kind =>
          let k : Packet := { header := r.header, payload := r.payload }
          let s := s.setPort n { p with rxNext := p.rxNext + 1, nak := false }
          let q := s.port n
          if h.malformed then (s.setPort n { q with malformed := satInc q.malformed }).freeSlot n kind
          else if s.err.containState = 1 then s.setPort n { q with rxSlots := q.rxSlots ++ [(k, kind)] }
          -- out of service, ports answer only CLAIM and RANGE_MAP (R285)
          else if s.err.containState = 2 ∧ h.type ≠ 0x10 ∧ h.type ≠ 0x0B then s.freeSlot n kind
          else if h.dest = s.plan.ownAddr ∨ h.type = 0x10 then s.consumePacket n k kind
          else s.forwardPacket n k kind)

/-- Packets that wait in receive slots for a context are looked at again (R197, R218, R268). -/
def State.takeHeld (s : State) (c : CtxIdx) : State :=
  allPorts.foldl (fun s n =>
    let p := s.port n
    let mine (e : Packet × Nat) : Bool := Header.ctx e.1.header == c
    let due := p.rxSlots.filter mine
    if due.isEmpty then s
    else due.foldl (fun s e => s.consumePacket n e.1 e.2) (s.setPort n { p with rxSlots := p.rxSlots.filter (fun e => !mine e) })) s

/-! ## Flow acknowledgements (R196) -/

/-- Sends what a slot flow's window now lets go. -/
def State.flushSlot : Nat → State → Nat → State
  | 0, s, _ => s
  | g + 1, s, f =>
    let x := s.slotFlowOf f
    match x.wait with
    | [] => s
    | (k, exit) :: ks =>
      if (Header.seq k.header - x.acked).toNat < 256 then
        ((s.setSlotFlow f { x with wait := ks }).sendRouted k exit).flushSlot g f
      else s

/-- Sends what the window now lets go. -/
def State.flushFlow : Nat → State → Nat → State
  | 0, s, _ => s
  | g + 1, s, f =>
    let x := s.flow f
    match x.wait with
    | [] => s
    | (k, exit) :: ks =>
      if (Header.seq k.header - x.acked).toNat < 256 then
        ((s.setFlow f { x with wait := ks }).sendRouted k exit).flushFlow g f
      else s

/-- FLOW_ACK: ACKED moves on to BASE. -/
def execFlowAck (slotFlow : Bool) (flow : BitVec 15) (base : BitVec 32) (s : State) : Host.Outcome State Fault Refusal :=
  .next (
    let f := flow.toNat
    if !s.linksOn then s
    else if slotFlow then
      let x := s.slotFlowOf f
      if decide (f < 66) && decide (x.acked.toNat < base.toNat) && decide (base.toNat ≤ x.nextSeq.toNat) then
        (s.setSlotFlow f { x with acked := base }).flushSlot x.wait.length f else s
    else
      let x := s.flow f
      if x.acked.toNat < base.toNat ∧ base.toNat ≤ x.nextSeq.toNat then
        (s.setFlow f { x with acked := base }).flushFlow x.wait.length f
      else s)

/-- FLOW_ACK_SEND: BASE goes to the sender. -/
def execFlowAckSend (slotFlow : Bool) (flow : BitVec 15) (s : State) : Host.Outcome State Fault Refusal :=
  .next (
    let f := flow.toNat
    let x := if slotFlow then s.slotFlowOf f else s.flow f
    if !s.linksOn || x.base == x.lastAck || (slotFlow && decide (66 ≤ f)) then s else s.sendFlowAck slotFlow f)

end Sys2Proof.Machine
end

