-- ==== Sys2Proof/Machine/CrnRows.lean ====
section
/-! DEFINITION. The commands of membership and of the cairn (R242 to R244, R254 to R256, R264, R24). -/

namespace Sys2Proof.Machine
open Sys2Proof

/-! ## Heartbeats, suspicion, declarations -/

/-- Peers and messages of the range take effect: the module works and is no single-module system. -/
def State.inRangeTraffic (s : State) : Bool := s.live && !s.singleModule && s.err.containState == 0

/-- HEARTBEAT_SEND (R242). -/
def execHeartbeatSend (s : State) : Host.Outcome State Fault Refusal :=
  .next (
    if !s.inRangeTraffic then s
    else
      let peers := s.rangePeers.filter (fun q => match s.posOfSlot s.ownRange q with | some p => !s.crn.declared.contains p | none => true)
      s.tellSlots 0x0A peers Output.heartbeatTo)

/-- HEARTBEAT: the peer's timeout starts again. -/
def execHeartbeat (slot : BitVec 6) (s : State) : Host.Outcome State Fault Refusal :=
  .next (if s.inRangeTraffic then { s with crn := { s.crn with heard := mapSet 0 s.crn.heard slot.toNat s.pwr.ticks } } else s)

/-- HB_TIMEOUT: HB_TIMEOUT ticks have passed since the peer's last HEARTBEAT. -/
def execHbTimeout (slot : BitVec 6) (s : State) : Host.Outcome State Fault Refusal :=
  .next (
    if s.inRangeTraffic && s.rangePeers.contains slot.toNat
        && decide (s.crn.hbTimeout.toNat ≤ (s.pwr.ticks - mapGet 0 s.crn.heard slot.toNat).toNat) then
      (s.suspect slot.toNat).gatherAll
    else s)

/-- A peer's report is late: REPORT_TIMEOUT ticks have passed since the own report of some context opened. -/
def State.reportLate (s : State) (slot : Nat) : Bool :=
  allCtx.any (fun c =>
    let x := s.ctx c
    match x.inStep && (x.phase == 1 || x.phase == 2), x.reportAt with
    | true, some t => decide (s.crn.reportTimeout.toNat ≤ (s.pwr.ticks - t).toNat) &&
        !x.reports.any (fun r => r.slot.toNat == slot && x.current? s.crn.epoch r)
    | _, _ => false)

/-- REPORT_TIMEOUT (R242). -/
def execReportTimeout (slot : BitVec 6) (s : State) : Host.Outcome State Fault Refusal :=
  .next (
    if s.inRangeTraffic && s.rangePeers.contains slot.toNat && (s.posOfSlot s.ownRange slot.toNat).isSome && s.reportLate slot.toNat then
      (s.suspect slot.toNat).gatherAll
    else s)

/-- PROPOSE (R243): the named position is declared, unless the sender has withdrawn: then its proposals are void. -/
def execPropose (sender slot : BitVec 6) (s : State) : Host.Outcome State Fault Refusal :=
  .next (if s.inRangeTraffic && !s.crn.withdrew.contains sender.toNat then (s.declareSlot slot.toNat sender.toNat).gatherAll else s)

/-- WITHDRAW (R242): its sender is suspected, and its proposals of the step are void (R243). -/
def execWithdraw (slot : BitVec 6) (s : State) : Host.Outcome State Fault Refusal :=
  .next (
    if s.inRangeTraffic && s.rangePeers.contains slot.toNat then
      let t := s.voidProposals slot.toNat
      ((t.reportTo (s.crn.declared.filter (fun p => !t.crn.declared.contains p))).suspect slot.toNat).gatherAll
    else s)

/-! ## Joins (R264) -/

/-- JOIN_SEND: a join-ready module with no position and no schedule image asks to become spare. -/
def execJoinSend (s : State) : Host.Outcome State Fault Refusal :=
  .next (
    if s.inRangeTraffic && s.links.state == 2 && s.crn.ownState == 3 && !s.crn.restoreHold
        && allCtx.all (fun c => (s.ctx c).image.isNone) then
      s.tellSlots 0x0A s.rangePeers (fun q => Output.joinTo q s.img.active.policyDigest)
    else s)

/-- Holds a join request, one for each slot. -/
def State.holdJoin (s : State) (range slot : Nat) (d : Digest) : State :=
  { s with crn := { s.crn with joins := s.crn.joins.filter (fun e => !(e.1 == range && e.2.1 == slot)) ++ [(range, slot, d)] } }

/-- JOIN. -/
def execJoin (slot : BitVec 6) (digest : Digest) (s : State) : Host.Outcome State Fault Refusal :=
  .next (if s.inRangeTraffic then s.holdJoin s.ownRange slot.toNat digest else s)

/-! ## The cairn -/

/-- CAIRN_REPORT_OPEN (R254): twin digests leave first; the report opens once every comparison is done. -/
def execCairnReportOpen (c : CtxIdx) (s : State) : Host.Outcome State Fault Refusal :=
  .next (match (s.ctx c).image with
    | none => s
    | some im =>
      if !s.live || (s.ctx c).state != 3 then s
      else
        let s := s.startGathers c
        if !s.reportReady (s.ctx c) im then s
        else
          let (s, done) := s.twinStage c im
          (if done then s.openReport c im else s).takeHeld c)

/-- A peer's report (R255): one of an earlier step is stale (R262). -/
def State.takeReportMsg (s : State) (r : CairnReport) : State :=
  let x := s.ctx r.ctx
  if x.image.isNone || r.position.toNat / 32 != s.ownRange || decide (r.step.toNat < x.step.toNat)
      || decide (r.membEpoch.toNat < s.crn.epoch.toNat) then s
  else
    let same (q : CairnReport) : Bool := q.slot == r.slot && q.attempt == r.attempt && q.step == r.step && q.membEpoch == r.membEpoch
    (s.setCtx r.ctx { x with reports := x.reports.filter (fun q => !same q) ++ [r] }).gather r.ctx

/-- CAIRN_TIMEOUT no longer holds once no summary lacks (R256). -/
def State.clearTimeout (s : State) : State :=
  if allCtx.all (fun c => (s.summaryLacks c).isEmpty) then { s with crn := { s.crn with timeout := false } } else s

/-- A summary of an earlier step, epoch or attempt (R262). -/
def Context.oldSummary (x : Context) (epoch : BitVec 32) (r : CairnReport) : Bool :=
  decide (r.step.toNat < x.step.toNat) || decide (r.membEpoch.toNat < epoch.toNat) || (r.step == x.step && decide (r.attempt.toNat < x.attempt.toNat))

/-- A range's summary: kept by range; a delegate on the way to the root sends it on. -/
def State.takeSummary (s : State) (g : Nat) (rs : List CairnReport) (joins : List (BitVec 6 × Digest)) : State :=
  match rs with
  | [] => s
  | r :: _ =>
    let x := s.ctx r.ctx
    match x.image with
    | none => s
    | some im =>
      if mapGet [] x.summaries g = rs ∨ x.oldSummary s.crn.epoch r then s
      else
        let s := s.setCtx r.ctx { x with summaries := mapSet [] x.summaries g rs }
        let s := joins.foldl (fun s j => s.holdJoin g j.1.toNat j.2) s
        let up := im.treeParent s.ownRange
        let s := s.clearTimeout
        let s := if s.isDelegate && !im.isRoot s.ownRange then
            s.tellAll r.ctx 0x09 (s.delegatesOf up) (fun _ => .summaryOut up g rs (joins.map (fun j => (j.1.toNat, j.2)))) else s
        s.gather r.ctx

/-- A twin's digest (R252, R253). -/
def State.takeDigest (s : State) (c : CtxIdx) (attempt shard rope : Nat) (d : BitVec 64) : State :=
  let x := s.ctx c
  match x.inStep, x.image with
  | true, some im =>
    let s := s.setCtx c { x with
      twinGot := x.twinGot.filter (fun e => !(e.1 == attempt && e.2.1 == shard && e.2.2.1 == rope)) ++ [(attempt, shard, rope, d)] }
    if !x.twinTo.isEmpty && (x.phase == 1 || x.phase == 2) then
      let (s, done) := s.twinStage c im
      if done then s.minorityWithdraws c im else s
    else s
  | _, _ => s

/-- CAIRN_PACKET. -/
def execCairnPacket (m : CairnMsg) (s : State) : Host.Outcome State Fault Refusal :=
  .next (
    if !s.inRangeTraffic then s
    else match m with
      | .report r => s.takeReportMsg r
      | .summary g rs joins => s.takeSummary g.toNat rs joins
      | .declaration p => (s.declare p.toNat 65).gatherAll
      | .twinDigest c a h r d => s.takeDigest c a.toNat h.toNat r.toNat d
      | .verdict v => s.actOnVerdict v)

/-- CAIRN_TIMEOUT (R256): the root still lacks a range's summary. -/
def execCairnTimeout (range : BitVec 9) (s : State) : Host.Outcome State Fault Refusal :=
  .next (
    let lacks := allCtx.any (fun c => (s.summaryLacks c).contains range.toNat)
    if s.inRangeTraffic && lacks then ({ s with crn := { s.crn with timeout := true } }).raise 0x18 range.toNat else s)

/-- CAIRN_INSTANT (R24, R258): it waits while a checkpoint of the context is being written (R323). -/
def execCairnInstant (c : CtxIdx) (s : State) : Host.Outcome State Fault Refusal :=
  .next (
    let x := s.ctx c
    let writing := match x.op with | .checkpoint _ => true | _ => false
    match x.image, x.verdict with
    | some im, some v => if !s.live || !x.inStep || writing || !x.ckptQ.isEmpty then s else (s.instant c im v).takeHeld c
    | _, _ => s)

end Sys2Proof.Machine
end

