-- ==== Sys2Proof/Machine/Memory.lean ====
section
/-! DEFINITION. The memory controllers and the host's CXL.mem port: a request's place in its subchannel (R164), the
grant of scheduled and dynamic traffic (R176 to R180), a read's completion (R168 to R171, R173), slot merges (R391),
the patrol scrub (R181), host accesses (R184, R185) and the CXL snoops (R309, R311). -/

namespace Sys2Proof.Machine
open Sys2Proof

/-- The memory controllers work: in containment too, for the dump engine writes the moraine (R278). -/
def State.memWorks (s : State) : Bool := s.powered && !s.pwr.refclkLost

/-! ## Traffic classes (R175, Table 09-4) -/

def clientDynamic : Client → Bool
  | .tor _ => false
  | .ni _ => false
  | _ => true

/-- UE_SOURCE of a client's read (MEM_STATUS). -/
def clientSource : Client → Nat
  | .tor _ => 1
  | .ni _ => 1
  | .torPlane _ => 2
  | .torScree _ => 3
  | .niServe _ => 4
  | .niLand _ => 4
  | .host => 5
  | .scrub => 7
  | .mgmt => 8
  | .dump => 9

/-! ## The arbiter tree (Table 09-5, Table 02-16) -/

/-- One arbiter on a request's way: its name within the subchannel's tree, the input, and the input's weight. -/
structure ArbHop where
  id : Nat
  input : Nat
  weight : Nat
  deriving DecidableEq, Repr

def State.arbWeight (s : State) (i : Nat) : Nat := (nth 0 s.img.active.arbiter i).toNat

/-- From a ridge's arbiter down to one tor queue (R178): the lead of a fused group holds its group's eight queues. -/
def State.torHops (s : State) (t : TorIdx) (scree : Nat) : List ArbHop :=
  let g := ridgeOf t
  let l := s.leadOf t
  let i := l.toNat % 64
  let node := if s.fused t then 4 * (i / 16) + i % 8 / 2 else i
  let leaf := if s.fused t then 2 * quadrant t + scree else scree
  [{ id := 16 + g, input := node, weight := s.arbWeight (4 * g + 1) },
   { id := 256 + l.toNat, input := leaf, weight := s.arbWeight (4 * g) }]

/-- The massif a dynamic request starts from, its input at that massif's network, and the hops below. -/
def State.leafHops (s : State) (cl : Client) (m : Nat) : Nat × Nat × List ArbHop :=
  match cl with
  | .torPlane t => (ridgeOf t / 32, ridgeOf t % 32, s.torHops t 0)
  | .torScree t => (ridgeOf t / 32, ridgeOf t % 32, s.torHops t 1)
  | .tor t => (ridgeOf t / 32, ridgeOf t % 32, s.torHops t 0)
  | .ni k => (k.toNat, 32, [{ id := 3 + k.toNat, input := 0, weight := 1 }])
  | .niServe k => (k.toNat, 32, [{ id := 3 + k.toNat, input := 0, weight := 1 }])
  | .niLand k => (k.toNat, 32, [{ id := 3 + k.toNat, input := 1, weight := 1 }])
  | .host => (m, 33, [{ id := 2, input := 0, weight := 1 }])
  | .mgmt => (m, 33, [{ id := 2, input := 1, weight := 1 }])
  | .dump => (m, 33, [{ id := 2, input := 2, weight := 1 }])
  | .scrub => (m, 34, [])

/-- A dynamic request's way from the subchannel's arbiter of massif m down to its leaf. Dynamic traffic between
diagonal massifs goes clockwise (R12). -/
def State.arbPath (s : State) (cl : Client) (m : Nat) : List ArbHop :=
  let w (k i : Nat) : Nat := s.arbWeight (512 + 16 * k + i)
  let (k, i, below) := s.leafHops cl m
  let ridgeW := s.arbWeight (4 * (32 * k + i) + 2)
  let net (ring : Bool) : ArbHop :=
    { id := if ring then 8 + k else 1, input := i,
      weight := if i < 32 then ridgeW else if i = 32 then (if ring then w k 2 else w k 0) else w k 1 }
  let before := (m + 3) % 4
  match cl with
  | .scrub => [{ id := 0, input := 3, weight := w m 8 }]
  | _ =>
    (match (m + 4 - k) % 4 with
      | 0 => [{ id := 0, input := 0, weight := w m 5 }, net false]
      | 1 => [{ id := 0, input := 1, weight := w m 6 }, { id := 7, input := 0, weight := w before 3 }, net true]
      | 2 => [{ id := 0, input := 1, weight := w m 6 }, { id := 7, input := 1, weight := w before 4 }, net true]
      | _ => [{ id := 0, input := 2, weight := w m 7 }, net true]) ++ below

/-- The input an arbiter takes: the one it stands at while its quota lasts, else the next one waiting, round and round
(R179). -/
def pickInput (at' used : Nat) (waiting : List ArbHop) : Option ArbHop :=
  let ok := waiting.filter (fun h => h.weight != 0)
  match ok.find? (fun h => h.input == at' && decide (used < h.weight)) with
  | some h => some h
  | none =>
    let least (l : List ArbHop) : Option ArbHop :=
      l.foldl (fun (b : Option ArbHop) h => match b with | none => some h | some x => if h.input < x.input then some h else some x) none
    match least (ok.filter (fun h => decide (at' < h.input))) with
    | some h => some h
    | none => least ok

/-- Descends the tree: at each arbiter the waiting inputs are those its candidates come from. Answers the request. -/
def descend (rounds : SMap (Nat × Nat)) : Nat → List (MemReq × List ArbHop) → Option MemReq
  | 0, _ => none
  | f + 1, cands =>
    match cands with
    | [] => none
    | (r, []) :: _ => some r
    | (_, h :: _) :: _ =>
      let st := mapGet (0, 0) rounds h.id
      let heads := cands.filterMap (fun q => q.2.head?)
      match pickInput st.1 st.2 heads with
      | none => none
      | some p => descend rounds f ((cands.filter (fun q => (q.2.head?).map (·.input) == some p.input)).map (fun q => (q.1, q.2.drop 1)))

/-- Every arbiter on the granted request's way counts the grant, and moves on when the quota is used or nothing waits
there any more. -/
def countGrant (rounds : SMap (Nat × Nat)) (left : List (List ArbHop)) : List ArbHop → List ArbHop → SMap (Nat × Nat)
  | _, [] => rounds
  | up, h :: hs =>
    let st := mapGet (0, 0) rounds h.id
    let used := (if st.1 = h.input ∧ st.2 < h.weight then st.2 else 0) + 1
    let here := up ++ [h]
    let still := left.any (fun p => (p.take here.length).map (fun x => (x.id, x.input)) == here.map (fun x => (x.id, x.input)))
    let next := if used < h.weight ∧ still = true then (h.input, used) else (h.input + 1, 0)
    countGrant (mapSet (0, 0) rounds h.id next) left here hs

/-! ## The subchannel -/

def popCount16 (x : BitVec 16) : Nat := ((List.range 16).filter (fun i => bit x i)).length

/-- HDM lines the host may hold are named by module line (64 bytes). An access waits for a snoop outstanding on its
line (R309). -/
def State.snoopWaits (s : State) (r : MemReq) : Bool :=
  r.client != .host && s.host.waiting.any (fun w => w / 2 == r.addr.toNat / 2)

/-- Requests a subchannel may grant now: none behind an earlier request for the same burst (R164), no read once
contained (R170), none that waits for the host (R309). -/
def State.eligible (s : State) : List MemReq → List Nat → List MemReq
  | [], _ => []
  | r :: rs, seen =>
    let ok := !seen.contains r.addr.toNat && (r.write.isSome || !s.mem.contained) && !s.snoopWaits r
    (if ok then [r] else []) ++ s.eligible rs (seen ++ [r.addr.toNat])

/-- The request a subchannel grants next (R176, R177): the head of the scheduled queue, or the arbiters' choice. -/
def State.choose (s : State) (i : Nat) : Option MemReq :=
  let q := s.sub i
  let ok := s.eligible q.queue []
  let sched := match q.queue.find? (fun r => !clientDynamic r.client) with
    | some r => if ok.contains r then some r else none
    | none => none
  let dyns := (ok.filter (fun r => clientDynamic r.client)).map (fun r => (r, s.arbPath r.client (i / 64)))
  match sched, descend q.rounds 8 dyns with
  | some a, some b => if popCount16 q.recent < 2 then some b else some a
  | some a, none => some a
  | none, d => d

/-- A write takes effect: through a tor's own write port it updates the ridge's return buffer (R173). -/
def State.performWrite (s : State) (r : MemReq) (d : BitVec 272) : State :=
  let s := s.setRaw r.addr.toNat (if r.poison && r.client == .host then poisonBurst d else encodeBurst d)
  match clientTor r.client with
  | none => s
  | some t =>
    let q := mapGet [] s.mem.returnBuf (ridgeOf t)
    let q := q.map (fun e => if e.1 = r.addr.toNat then (e.1, d) else e)
    { s with mem := { s.mem with returnBuf := mapSet [] s.mem.returnBuf (ridgeOf t) q } }

/-- The next scrub read of a subchannel joins its queue (R181). -/
def Subchannel.nextScrub (q : Subchannel) (i : Nat) : Subchannel :=
  { q with queue := q.queue ++ [{ client := .scrub, addr := BitVec.ofNat 36 (burstAt i q.scrubLoc), write := none }],
           scrubLoc := (q.scrubLoc + 1) % 201326592 }

/-- After CONTAINED, and in containment, host reads are answered with poison and host writes dropped (R170, R278). -/
def State.hostCut (s : State) : Bool := s.mem.contained || s.err.containState == 1

/-- A grant (R177): one request leaves the queue. A read behind which a write to its burst waits is stale from the start
(R169, Table 09-11). -/
def State.grant (s : State) (i : Nat) : State :=
  match s.choose i with
  | none => s
  | some r =>
    let q := s.sub i
    let dyn := clientDynamic r.client
    let rest := q.queue.erase r
    let left := (rest.filter (fun x => clientDynamic x.client)).map (fun x => s.arbPath x.client (i / 64))
    let q := { q with queue := rest, recent := (q.recent <<< 1) ||| (if dyn then 1 else 0),
                      rounds := if dyn then countGrant q.rounds left [] (s.arbPath r.client (i / 64)) else q.rounds,
                      dynamic := q.dynamic + (if dyn then 1 else 0), scheduled := q.scheduled + (if dyn then 0 else 1) }
    let q := if r.client == .scrub && q.scrubDue then ({ q with scrubDue := false } : Subchannel).nextScrub i else q
    match r.write with
    | some d => if r.client == .host && s.hostCut then s.setSub i q else (s.setSub i q).performWrite r d
    | none =>
      let stale := rest.any (fun x => x.addr == r.addr && x.write.isSome)
      s.setSub i { q with inflight := q.inflight ++ [{ req := r, raw := s.rawBurst r.addr.toNat, stale := stale }] }

/-! ## Read completion -/

/-- Whether a burst holds committed state of a context (R171): a block of a CLASS 0, 1 or 2 tensor in either copy, its
planes or scree, or a copy record. -/
def Sched.committedBurst (im : Sched) (b : Nat) : Bool :=
  let inReg (off : Nat) (a : Nat × Nat) : Bool := decide (a.1 + off ≤ 32 * b) && decide (32 * b < a.1 + off + a.2)
  im.descs.zipIdx.any (fun d => decide (Desc.cls d.1 ≤ 2) && (Desc.regions d.1).any (fun a =>
    inReg 0 a || (match im.paramOf d.2 with | some i => inReg (32 * (im.param i).copyOffset) a | none => false)))
  || im.params.any (fun p => inReg 0 (32 * ParamEntry.recordBase p, 32 * ceilDiv (im.desc (ParamEntry.wDesc p)).blocks 4))

def State.committedBurst (s : State) (b : Nat) : Bool :=
  allCtx.any (fun c => match (s.ctx c).image with | some im => im.committedBurst b | none => false)

/-- A burst or poison reaches a tor's loader; the ridge's return buffer keeps data, and the loaders of the ridge that
wait for it go on (R173). -/
def State.arrive (s : State) (t : TorIdx) (b : Nat) (d : Option (BitVec 272)) : State :=
  let r := s.tor t
  let a : Arrival := { present := true, poison := d.isNone, d := d.getD 0 }
  let s := if r.discard.contains b then s.setTor t { r with discard := r.discard.erase b }
    else s.setTor t { r with arrived := mapSet {} r.arrived b a }
  let s := s.keepBuf (ridgeOf t) b d
  (s.tors.filter (fun e => e.1 / 64 == ridgeOf t && (e.1 == t.toNat || !e.2.loads.isEmpty))).foldl (fun (s : State) e =>
    let u := BitVec.ofNat 13 e.1
    match s.runner u with | some c => s.progress c u | none => s) s

/-- Every subchannel has completed the pass (R181). -/
def State.passesDone (s : State) : State :=
  if (List.range 256).all (fun i => decide (s.mem.scrubPasses < (s.sub i).scrubPass)) then
    { s with mem := { s.mem with scrubPasses := s.mem.scrubPasses + 1 } }
  else s

/-- A scrub read ended: the read of the last location completes the pass. -/
def State.scrubbed (s : State) (i b : Nat) : State :=
  if locOf b = 201326591 then
    let q := s.sub i
    (s.setSub i { q with scrubPass := q.scrubPass + 1 }).passesDone
  else s

/-- What a completed read does for its requester (R169 to R171). -/
def State.finishRead (s : State) (i : Nat) (f : InFlight) (res : ReadRes) : State :=
  let b := f.req.addr.toNat
  let s := match res with
    | .corrected d => s.noteCorrected b d (!f.stale)
    | .uncorrectable sy => s.memUe b sy (clientSource f.req.client)
    | .poison =>
      (match f.req.client with
        | .host => { s with mem := { s.mem with poisonReads := satInc s.mem.poisonReads } }
        | .scrub => { s with mem := { s.mem with scrubPoison := s.mem.scrubPoison + 1 } }
        | .mgmt => s
        | .dump => s
        | _ => if s.committedBurst b then s.statePoison else s)
    | .clean _ => s
  match f.req.client, clientTor f.req.client with
  | .scrub, _ => s.scrubbed i b
  | _, some t => (match res with
    | .uncorrectable _ => s
    | _ => s.arrive t b res.data?)
  | _, none => s

/-- A burst read completes (R168): the oldest granted read of the subchannel, its stored bits as the operand alters
them. -/
def State.readDone (s : State) (i : Nat) (flip : Burst) : State :=
  let q := s.sub i
  match q.inflight with
  | [] => s
  | f :: rest => (s.setSub i { q with inflight := rest }).finishRead i f (decodeBurst (f.raw ^^^ flip))

/-! ## The rows -/

/-- The BISnp a module access to a tracked HDM line begins with (R309). -/
def State.snoopFor (s : State) (r : MemReq) : State :=
  let line := r.addr.toNat / 2
  let inv := r.write.isSome
  let w := 2 * line + boolNat inv
  if r.client == .host || !s.host.snoop.contains line || s.host.waiting.contains w || s.host.waiting.contains (2 * line + 1) then s
  else { s.emit (.bisnp line inv) with host := { s.host with waiting := s.host.waiting ++ [w] } }

/-- A write that may not reach its burst: only the dump engine writes the moraine, no host or management write a reserved
region (R183), and a host write after containment is dropped (R170). -/
def State.writeBarred (s : State) (r : MemReq) : Bool :=
  let a := 32 * r.addr.toNat
  let w := s.img.active
  r.write.isSome && (match r.client with
    | .dump => false
    | .host => s.hostCut || s.inReserved a 32
    | .mgmt => s.inReserved a 32
    | _ => decide (a < w.moraineBase + w.moraineSize) && decide (w.moraineBase < a + 32))

/-- The leaf of a tor's read (R175, Table 09-4), from the load stream that asks for the burst: its SCREE queue for a scree
slot; its PLANE queue for a plane burst of an LDQ inside a rung-1 or rung-2 entry, or with a clear plane-valid bit; else
scheduled. -/
def State.ldqClient (s : State) (t : TorIdx) (b : Nat) (given : Client) : Client :=
  match (s.torCtx t).bind (fun c => (s.ctx c).image.map (fun im => (c, im))) with
  | none => given
  | some (c, im) =>
    let x := s.ctx c
    let parts (l : LoadReq) : Nat × Nat × Bool × Bool :=
      let e := im.load l.stream
      let d := im.desc e.desc
      let off := s.liveOffset x im e.desc (e.seqAt l.done)
      let plane (p : Nat) : Bool := decide (p ≤ e.plane) && decide (d.planeAddr p 0 + off ≤ b) && decide (b < d.planeAddr p 0 + off + d.blocks)
      let p := if plane 1 then 1 else if plane 2 then 2 else 0
      (e.desc, b - (d.planeAddr p 0 + off), p != 0,
        e.scree && d.cap != 0 && decide (d.screeAddr 0 + off ≤ b) && decide (b ≤ d.screeAddr (d.blocks - 1) + off))
    match (s.tor t).loads.find? (fun l => (parts l).2.2.1 || (parts l).2.2.2) with
    | none => if (s.tor t).loads.isEmpty then given else .tor t
    | some l =>
      let q := parts l
      if q.2.2.2 then .torScree t
      else if l.dyn || !s.planeOk x im q.1 q.2.1 b then .torPlane t else .tor t

/-- The client a request counts for. -/
def State.requestLeaf (s : State) (r : MemReq) : MemReq :=
  match clientTor r.client, r.write with
  | some t, none => { r with client := s.ldqClient t r.addr.toNat r.client }
  | _, _ => r

/-- MEMORY_REQUEST (R164, R161, R175). A write that arrives makes every earlier read of its burst stale (R169). -/
def execMemoryRequest (r : MemReq) (s : State) : Host.Outcome State Fault Refusal :=
  if !s.memWorks then .next s
  else if moduleBursts ≤ r.addr.toNat then
    (if r.client = .mgmt then .next (s.emit (.refusedCommand "error completion")) else .fault (.unpopulated r.addr.toNat))
  else if s.writeBarred r then .next s
  else
    let r := s.requestLeaf r
    .next ((s.snoopFor r).queueRequest r)

/-- SUBCHANNEL_GRANT (R177): once memory training has filled the subchannels (R165). -/
def execSubchannelGrant (sub : BitVec 8) (s : State) : Host.Outcome State Fault Refusal :=
  .next (if s.memWorks && s.mem.initDone then s.grant sub.toNat else s)

/-- MEMORY_READ_DONE (R168). -/
def execMemoryReadDone (sub : BitVec 8) (flip : Burst) (s : State) : Host.Outcome State Fault Refusal :=
  .next (if s.memWorks then s.readDone sub.toNat flip else s)

/-- SLOT_MERGE (R391). A poisoned burst fails the writer: a tor's word with MEM_POISON, the NI store path with
STATE_POISON. -/
def execSlotMerge (addr : BitVec 36) (first : BitVec 3) (words : List (BitVec 32)) (client : Client) (s : State) :
    Host.Outcome State Fault Refusal :=
  if !s.memWorks || s.mem.contained then .next s
  else if moduleBursts ≤ addr.toNat then .fault (.unpopulated addr.toNat)
  else if s.writeBarred { client := client, addr := addr, write := some 0 } then .next s
  else
    let (r, s) := s.mergeSlot addr.toNat first.toNat words
    match r with
    | .poison =>
      (match client, clientTor client with
        | .ni _, _ => .next s.statePoison
        | _, some t => (match s.torCtx t with
          | some c => (match (s.ctx c).image with
            | some im => .next ((if s.committedBurst addr.toNat then s.statePoison else s).failWord c im t 0x0C)
            | none => .next s)
          | none => .next s)
        | _, none => .next s)
    | _ => .next s

/-- SCRUB_REQUEST (R181): the interval expires. A request still waiting puts the next off to its grant. -/
def execScrubRequest (sub : BitVec 8) (s : State) : Host.Outcome State Fault Refusal :=
  if !s.memWorks || !s.mem.initDone then .next s
  else
    let q := s.sub sub.toNat
    .next (s.setSub sub.toNat (if q.queue.any (fun r => r.client == .scrub) then { q with scrubDue := true } else q.nextScrub sub.toNat))

/-! ### Host CXL.mem (R184, R185, R308) -/

/-- The first burst of the line a host physical address names, in the committed decoder's range. -/
def State.hostBurst (s : State) (hpa : Nat) : Option Nat :=
  let base := s.host.decoderBase.toNat
  let w := s.img.active
  if s.host.committed && decide (base ≤ hpa) && decide (hpa < base + w.hdmSize) then
    some ((w.hdmBase + (hpa - base)) / 64 * 2)
  else none

/-- The port serves CXL.mem: link up, memory filled, powered. -/
def State.hostServes (s : State) : Bool := s.memWorks && s.boot.cxlUp && s.mem.initDone

/-- A host read of one burst, dynamic traffic (Table 09-4): its data or poison (R169 to R171). -/
def State.hostRead (s : State) (b : Nat) : ReadRes × State :=
  let s := s.countServed b true
  match s.readBurst b with
  | .corrected d => (.corrected d, s.noteCorrected b d true)
  | r => (r, s)

/-- The two bursts of a line, the lower global subchannel recorded first where both are uncorrectable (R170). -/
def State.recordUes (s : State) (source : Nat) (rs : List (Nat × ReadRes)) : State :=
  let bad := rs.filterMap (fun (p : Nat × ReadRes) => match p.2 with | .uncorrectable sy => some (p.1, sy) | _ => none)
  match bad with
  | [a, b] => if subOf a.1 ≤ subOf b.1 then (s.memUe a.1 a.2 source).memUe b.1 b.2 source else (s.memUe b.1 b.2 source).memUe a.1 a.2 source
  | [a] => s.memUe a.1 a.2 source
  | _ => s

/-- The snoop filter takes a line the host may now hold; when full, its oldest entry goes first by BISnpInv (R309). -/
def State.trackLine (s : State) (line : Nat) : State :=
  if s.host.snoop.contains line then s
  else
    let s := match s.host.snoop with
      | o :: rest => if s.host.snoop.length < 1048576 then s
        else { s.emit (.bisnp o true) with host := { s.host with snoop := rest, waiting := s.host.waiting ++ [2 * o + 1] } }
      | [] => s
    { s with host := { s.host with snoop := s.host.snoop ++ [line] } }

/-- Counts a host read that a poisoned burst answered, once for its line (R171). -/
def State.notePoisonRead (s : State) (rs : List ReadRes) : State :=
  if rs.any (· == .poison) then { s with mem := { s.mem with poisonReads := satInc s.mem.poisonReads } } else s

/-- HOST_MEM_READ (R184). -/
def execHostMemRead (hpa : BitVec 64) (s : State) : Host.Outcome State Fault Refusal :=
  if !s.hostServes then .next s
  else match s.hostBurst hpa.toNat with
    | none => .next s
    | some b =>
      if s.hostCut then .next (s.emit (.memPoison hpa))
      else
        let (r0, s) := s.hostRead b
        let (r1, s) := s.hostRead (b + 1)
        let s := s.trackLine (b / 2)
        match r0.data?, r1.data? with
        | some d0, some d1 => .next (s.emit (.memData hpa (payload d1 ++ payload d0)))
        | _, _ => .next (((s.notePoisonRead [r0, r1]).emit (.memPoison hpa)).recordUes 5 [(b, r0), (b + 1, r1)])

/-- Writes a burst for the host, in its place behind requests that wait for it (R56, R164, R171). -/
def State.hostStore (s : State) (b : Nat) (p : BitVec 256) (poison : Bool) : State :=
  s.serveWrite { client := .host, addr := BitVec.ofNat 36 b, write := some (mkBurst 0 0 p), poison := poison }
    (if poison then poisonBurst (mkBurst 0 0 p) else encodeBurst (mkBurst 0 0 p))

/-- A full line write (R184): both bursts whole, poisoned where the write carries poison. -/
def State.hostWrite (s : State) (hpa : Nat) (data : BitVec 512) (poison : Bool) : State :=
  if !s.hostServes then s
  else match s.hostBurst hpa with
    | none => s
    | some b => if s.hostCut then s
      else (s.hostStore b (data.extractLsb' 0 256) poison).hostStore (b + 1) (data.extractLsb' 256 256) poison

/-- HOST_MEM_WRITE (R184, R56). -/
def execHostMemWrite (hpa : BitVec 64) (data : BitVec 512) (s : State) : Host.Outcome State Fault Refusal :=
  .next (s.hostWrite hpa.toNat data false)

/-- HOST_MEM_POISON_WRITE (R184, R171). -/
def execHostMemPoisonWrite (hpa : BitVec 64) (data : BitVec 512) (s : State) : Host.Outcome State Fault Refusal :=
  .next (s.hostWrite hpa.toNat data true)

/-- The written bytes of one burst over what was read (R184). -/
def mergeBytes (old new : BitVec 256) (mask : BitVec 32) : BitVec 256 :=
  (List.range 32).foldl (fun (p : BitVec 256) i => if bit mask i then setLane 8 p i (getLane 8 new i) else p) old

/-- HOST_MEM_PARTIAL_WRITE (R184): reads, corrects, merges and rewrites each burst it touches. -/
def execHostMemPartialWrite (hpa : BitVec 64) (data : BitVec 512) (mask : BitVec 64) (s : State) :
    Host.Outcome State Fault Refusal :=
  if !s.hostServes || s.hostCut then .next s
  else match s.hostBurst hpa.toNat with
    | none => .next s
    | some b =>
      let touched := [0, 1].filter (fun j => getLane 32 mask j != 0)
      let (rs, s) := touched.foldl (fun (a : List (Nat × ReadRes) × State) j =>
        let (r, s) := a.2.hostRead (b + j)
        (a.1 ++ [(b + j, r)], s)) ([], s)
      if rs.any (fun p => match p.2 with | .uncorrectable _ => true | _ => false) then .next (s.recordUes 6 rs)
      else
        .next (rs.foldl (fun (s : State) p =>
          let j := p.1 - b
          let old := match p.2.data? with | some d => payload d | none => payload ((s.rawBurst p.1).setWidth 272)
          let new := mergeBytes old (getLane 256 data j) (getLane 32 mask j)
          s.hostStore p.1 new p.2.data?.isNone) s)

/-! ### Snoops (R309, R311) -/

/-- BISNP_RESPONSE (R309): the oldest snoop outstanding for the line is answered; after BISnpInv the host holds it no
longer. -/
def execBisnpResponse (hpa : BitVec 64) (s : State) : Host.Outcome State Fault Refusal :=
  if !s.powered then .next s
  else match s.hostBurst hpa.toNat with
    | none => .next s
    | some b =>
      let line := b / 2
      match s.host.waiting.find? (fun w => w / 2 == line) with
      | none => .next s
      | some w =>
        let snoop := if w % 2 = 1 then s.host.snoop.erase line else s.host.snoop
        .next { s with host := { s.host with waiting := s.host.waiting.erase w, snoop := snoop } }

/-- The host's snoop of a line the module may hold in Shared state: the contexts whose producer line it is. The
producer line is the first 64 bytes of the ring (R316). -/
def State.producerOf (s : State) (hpa : Nat) : List CtxIdx :=
  allCtx.filter (fun c => let x := s.ctx c; x.lineHeld && decide (4096 * x.ringBase.toNat / 64 = hpa / 64))

/-- A snoop that invalidates: the line is dropped, and a producer line is read again by RdShared (R311, R316). -/
def State.dropLine (s : State) (hpa : Nat) : State :=
  (s.producerOf hpa).foldl (fun (s : State) c => (s.setCtx c { s.ctx c with lineHeld := false }).readLine c) s

/-- SNPINV (R311). -/
def execSnpinv (hpa : BitVec 64) (s : State) : Host.Outcome State Fault Refusal :=
  if !s.powered || !s.boot.cxlUp then .next s else .next ((s.emit (.snpResponse hpa)).dropLine hpa.toNat)

/-- SNPDATA (R311). -/
def execSnpdata (hpa : BitVec 64) (s : State) : Host.Outcome State Fault Refusal :=
  if !s.powered || !s.boot.cxlUp then .next s else .next ((s.emit (.snpResponse hpa)).dropLine hpa.toNat)

/-- SNPCUR (R311): the line is kept. -/
def execSnpcur (hpa : BitVec 64) (s : State) : Host.Outcome State Fault Refusal :=
  if !s.powered || !s.boot.cxlUp then .next s else .next (s.emit (.snpResponse hpa))

end Sys2Proof.Machine
end

