-- ==== Sys2Proof/Machine/NetRows.lean ====
section
/-! DEFINITION. The commands of the NI, the update engine and the position flows: reductions and gathers (R215 to R217,
R229), the update and the re-quantisation (R223, R227), tokens (R135), plane fetches (R151), the state copy (R267,
R268) and belays (R248, R249, R269, R270). -/

namespace Sys2Proof.Machine
open Sys2Proof

/-- A positional packet of a context is taken: the module works, and the context is LOADED, RUNNING or HELD with an
image (R329). -/
def State.takes (s : State) (c : CtxIdx) : Option Sched :=
  let x := s.ctx c
  if s.live && decide (2 ≤ x.state.toNat) && decide (x.state.toNat ≤ 4) then x.image else none

/-- The update engine works: the context is in a step. -/
def State.updates (s : State) (c : CtxIdx) : Bool := s.live && (s.ctx c).state == 3 && (s.ctx c).inStep

/-! ## Collectives -/

/-- COLL (R215). -/
def execColl (m : CollMsg) (s : State) : Host.Outcome State Fault Refusal :=
  .next (if (s.takes m.ctx).isSome then ((s.recvColl m).feedNodes m.ctx).takeHeld m.ctx else s)

/-- UPDATE_BLOCK (R223). -/
def execUpdateBlock (c : CtxIdx) (param : BitVec 24) (seq : BitVec 32) (s : State) : Host.Outcome State Fault Refusal :=
  .next (if s.updates c then s.updateBlock c param.toNat seq.toNat else s)

/-- REQUANTISE (R227). -/
def execRequantise (c : CtxIdx) (param : BitVec 24) (group : BitVec 32) (s : State) : Host.Outcome State Fault Refusal :=
  .next (if s.updates c then s.requantGroup c param.toNat group.toNat else s)

/-- GATHER (R229). -/
def execGather (m : CollMsg) (s : State) : Host.Outcome State Fault Refusal :=
  .next (if (s.takes m.ctx).isSome then ((s.recvGather m).feedNodes m.ctx).takeHeld m.ctx else s)

/-- FAILED_CHUNK (R217). -/
def execFailedChunk (c : CtxIdx) (srcPos : BitVec 14) (chunk : BitVec 24) (s : State) : Host.Outcome State Fault Refusal :=
  .next (if (s.takes c).isSome then ((s.recvFailedChunk c srcPos.toNat chunk.toNat).feedNodes c).takeHeld c else s)

/-! ## Tokens (R135, R244) -/

/-- A signal of the step that follows: one ahead in its step number, or, past a SKIP, in its membership epoch (R197). -/
def State.tokenAhead (s : State) (m : TokenMsg) : Bool :=
  let now : BitVec 16 := (s.ctx m.ctx).step.setWidth 16
  let epoch : Byte := s.crn.epoch.setWidth 8
  (m.step == now || m.step == now + 1) && (m.membEpoch == epoch || m.membEpoch == epoch + 1) && !(m.step == now && m.membEpoch == epoch)

/-- TOKEN: applied in its step, held for the following one, else dropped and counted. Beyond the 64 entries of a port's
queue the signals are back-pressured (R135): they wait in their receive slots, and `tokenPend` holds them too, in order.
A declared position's signals give way to its stand-in counts. -/
def execToken (m : TokenMsg) (s : State) : Host.Outcome State Fault Refusal :=
  .next (
    let x := s.ctx m.ctx
    if (s.takes m.ctx).isNone then s
    else if m.ctxEpoch = x.epoch ∧ m.step = x.step.setWidth 16 ∧ m.membEpoch = s.crn.epoch.setWidth 8 then
      (if s.crn.declared.contains m.srcPos.toNat then s
      else
        let k := tokenKey m.token.toNat m.srcPos.toNat
        let x := { x with tokenGot := mapSet 0 x.tokenGot k (mapGet 0 x.tokenGot k + m.inc.toNat) }
        (s.setCtx m.ctx x).addToken m.ctx m.token.toNat m.inc.toNat)
    else if m.ctxEpoch = x.epoch ∧ s.tokenAhead m then s.setCtx m.ctx { x with tokenPend := x.tokenPend ++ [m] }
    else s.setCtx m.ctx { x with counts := { x.counts with staleTokens := x.counts.staleTokens + 1 } })

/-! ## Plane fetches (R151) -/

/-- Whether a burst is a plane burst of a CLASS 0 tensor, in either copy. -/
def Sched.planeBurst (im : Sched) (b : Nat) : Bool :=
  im.descs.zipIdx.any (fun d =>
    let x : Desc := d.1
    let off := match im.paramOf d.2 with | some i => (im.param i).copyOffset | none => 0
    let hit (base : Nat) : Bool := (decide (base ≤ b) && decide (b < base + x.blocks))
      || (decide (base + off ≤ b) && decide (b < base + off + x.blocks))
    x.cls == 0 && ((decide (1 ≤ x.planes) && hit x.plane1) || (decide (2 ≤ x.planes) && hit x.plane2)))

/-- FETCH_REQ: the owner reads its plane burst and returns it. -/
def execFetchReq (c : CtxIdx) (srcPos : BitVec 14) (addr : BitVec 36) (plane : BitVec 2) (s : State) :
    Host.Outcome State Fault Refusal :=
  .next (match s.takes c with
    | none => s
    | some im =>
      if !im.planeBurst addr.toNat || s.mem.contained then s
      else match s.moduleRead addr.toNat 4 with
        | (.clean d, s) => s.tell c 0x04 srcPos.toNat (.fetchDataOut srcPos.toNat addr plane [d])
        | (.corrected d, s) => s.tell c 0x04 srcPos.toNat (.fetchDataOut srcPos.toNat addr plane [d])
        | (.poison, s) => s.statePoison
        | (.uncorrectable _, s) => s)

/-- Runs the loaders and delayed effects of a context's tors. -/
def State.progressAll (s : State) (c : CtxIdx) (im : Sched) : State :=
  im.tors.foldl (fun s e =>
    let t : TorIdx := BitVec.ofNat 13 e.tor
    if (s.runner t).isSome then s.progress c t else s) s

/-- Writes landing bursts: dynamic traffic (Table 09-4). -/
def State.landBursts (s : State) (b : Nat) (bursts : List (BitVec 272)) : State :=
  bursts.zipIdx.foldl (fun s p =>
    s.serveWrite { client := .niLand (BitVec.ofNat 2 ((b + p.2) / massifBursts)), addr := BitVec.ofNat 36 (b + p.2),
                   write := some p.1 } (encodeBurst p.1)) s

/-- FETCH_DATA: bursts land at their own addresses and set their plane-valid bits. -/
def execFetchData (c : CtxIdx) (addr : BitVec 36) (_plane : BitVec 2) (bursts : List (BitVec 272)) (s : State) :
    Host.Outcome State Fault Refusal :=
  .next (match s.takes c with
    | none => s
    | some im =>
      let n := bursts.length
      if !(List.range n).all (fun i => im.planeBurst (addr.toNat + i)) then s
      else
        let s := s.landBursts addr.toNat bursts
        let x := s.ctx c
        let pv := (List.range n).foldl (fun (m : SMap Bool) i => mapSet false m (addr.toNat + i) true) x.planeValid
        let landed (f : PlaneFetch) : Bool := decide (addr.toNat ≤ f.addr) && decide (f.addr < addr.toNat + n)
        let s := s.setCtx c { x with planeValid := pv, fetches := x.fetches.filter (fun f => !landed f),
                                     counts := { x.counts with planeFetch := x.counts.planeFetch + n } }
        let s := { s with planeFetchTotal := s.planeFetchTotal + BitVec.ofNat 32 n }
        let s := match s.prefetch, x.entryPhase with
          | true, some p => { s with prefetch := s.prefetchOpen c im p }
          | _, _ => s
        s.progressAll c im)

/-! ## The state copy (R267, R268) -/

/-- A catching-up module's step goes on once the copy is complete and the subject's state has arrived. -/
def State.releaseCatchUp (s : State) (c : CtxIdx) (im : Sched) (was : Bool) : State :=
  let x := s.ctx c
  if s.crn.ownState == 1 && x.inStep && !was && s.catchUpReady x then s.releaseTors c im else s

/-- The copy is complete: the tors may start. -/
def State.finishCopy (s : State) (c : CtxIdx) (im : Sched) : State :=
  ({ s.setCtx c { s.ctx c with copyDone := true } with crn := { s.crn with catchState := 3 } }).releaseCatchUp c im false

/-- One item lands in copy 0; a scree slot is merged into its burst. -/
def State.landItem (s : State) (c : CtxIdx) (im : Sched) (it : CopyItem) : State :=
  let key : CopyKey := (it.kind, it.param.toNat, it.seq.toNat, it.region.toNat)
  let items := im.copyItems (s.pilot c) (s.ropeMember im im.position)
  let i := items.findIdx (· == key)
  let x := s.ctx c
  if items.length ≤ i ∨ x.copied.contains i then s
  else
    let p := im.param it.param.toNat
    let q := it.seq.toNat
    let own := s.owns im it.param.toNat q
    let s := s.setCtx c { x with copied := x.copied ++ [i] }
    let as := im.copyAddrs key
    match it.kind, it.region.toNat with
    | .stamp, _ => if own then s.setStamps c p q it.stamp.toNat 0xFFFFFFFF else s
    | .ownPlane, _ =>
      let s := s.writeBursts (nth 0 as 0) it.bursts
      let x := s.ctx c
      s.setCtx c { x with planeValid := as.foldl (fun (m : SMap Bool) a => mapSet false m a true) x.planeValid }
    | .base, 1 =>
      let w := im.desc p.wDesc
      let d := nth 0 it.bursts 0
      s.mergeOrPoison (nth 0 as 0) (w.screeWord q) ((List.range w.cap).map (fun k => d.extractLsb' (32 * (w.screeWord q + k)) 32))
    | .base, 3 =>
      let w := im.desc p.wtDesc
      let j := im.mirror p q
      let d := nth 0 it.bursts 0
      s.mergeOrPoison (nth 0 as 0) (w.screeWord j) ((List.range w.cap).map (fun k => d.extractLsb' (32 * (w.screeWord j + k)) 32))
    | .base, r =>
      let s := s.writeBursts (nth 0 as 0) it.bursts
      if r = 0 ∧ !own then s.setStamps c p q x.pointer 0xFFFFFFFF else s
    | .ownState, _ => s.writeBursts (nth 0 as 0) it.bursts

/-- STATE_COPY: taken by a catching-up module until its copy is complete; the owner stages and gather packets whose
blocks have landed go on (R268). One without items is a catching-up module's report that its image is loaded (R267). -/
def execStateCopy (c : CtxIdx) (k : CopyPacket) (s : State) : Host.Outcome State Fault Refusal :=
  .next (match s.takes c with
    | none => s
    | some im =>
      if s.crn.ownState = 0 ∧ k.items = [] then s.serveLoaded c im k.srcPos.toNat
      else if s.crn.ownState ≠ 1 ∨ (s.ctx c).copyDone then s
      else
        let s := k.items.foldl (fun s it => s.landItem c im it) s
        let all := decide ((im.copyItems (s.pilot c) (s.ropeMember im im.position)).length ≤ (s.ctx c).copied.length)
        let s := if all then s.finishCopy c im else s
        ((s.retryOwn c).feedNodes c).takeHeld c)

/-! ## Belays (R248, R249, R269, R270) -/

/-- Changes this module's part in the belay of a subject. -/
def Context.mapBelay (x : Context) (role subject : Nat) (f : Belay → Belay) : Context :=
  { x with belays := x.belays.map (fun b => if b.role = role ∧ b.subject = subject then f b else b) }

/-- The committed state a catching-up module takes from its restore-belay subject (Table 13-2). -/
def Context.takeRestored (x : Context) (swb : SMap Swb) (ceil : List (Nat × BitVec 8)) (run : BitVec 8) (raised : Bool) (pos : Word) : Context :=
  let cs := ceil.foldl (fun (m : SMap Nat) e => mapSet 0 m e.1 e.2.toNat) []
  { x with swb := swb, swbWork := swb, ceilings := cs, live := cs, stormRun := run, stormRaised := raised, feedPos := pos }

/-- The subject's table and ceilings reach the partner; another model digest ends the belay INCOMPLETE (R248). -/
def State.takeBelayState (s : State) (c : CtxIdx) (im : Sched) (subject : Nat) (model : Digest) (entries : List (Nat × BitVec 64))
    (ceil : List (Nat × BitVec 8)) (run : BitVec 8) (pos : Word) : State :=
  let x := s.ctx c
  let tab := entries.foldl (fun (m : SMap Swb) e => mapSet {} m e.1 (swbOfWord e.2)) []
  match x.belays.find? (fun b => b.role == 2 && b.subject == subject) with
  | none =>
    -- no restore belay serves the position: its source sends the state (R270)
    if s.crn.ownState = 1 ∧ s.sourceOf im s.crn.ownPos.toNat = some subject ∧ ¬ x.stateTaken ∧ model = im.modelDigest
        ∧ ¬ x.belays.any (fun b => b.role == 2 && b.restore) then
      let was := s.catchUpReady x
      ((s.setCtx c { x.takeRestored tab ceil run (s.stormPast run) pos with stateTaken := true }).storeSwb c).releaseCatchUp c im was
    else s
  | some b =>
    if b.arrivedState || b.outcome != 0 then s
    else if model ≠ im.modelDigest then (s.setCtx c (x.mapBelay 2 subject (fun b => { b with outcome := 3 }))).raise 0x28 subject
    else
      let was := s.catchUpReady x
      let x := x.mapBelay 2 subject (fun b => { b with swb := tab, ceilings := ceil, arrivedState := true })
      if b.restore then
        ((s.setCtx c (x.takeRestored tab ceil run (s.stormPast run) pos)).storeSwb c).releaseCatchUp c im was
      else s.setCtx c x

/-- BELAY. -/
def execBelay (c : CtxIdx) (m : BelayMsg) (s : State) : Host.Outcome State Fault Refusal :=
  .next (match s.takes c with
    | none => s
    | some im =>
      let x := s.ctx c
      match m with
      | .input subject ordinal mask data =>
        (s.setCtx c (x.mapBelay 2 subject.toNat (fun b =>
          if b.ordinal = ordinal.toNat ∧ b.inputs = [] then { b with inputs := [(ordinal.toNat, data)], mask := mask } else b))).progressAll c im
      | .state subject model entries ceil run pos =>
        (s.takeBelayState c im subject.toNat model entries ceil run pos).progressAll c im
      -- none: the ordinal failed on the subject (R249)
      | .digest subject ordinal none =>
        s.setCtx c (x.mapBelay 2 subject.toNat (fun b => if b.ordinal = ordinal.toNat ∧ b.outcome = 0 then { b with outcome := 3 } else b))
      | .digest subject ordinal (some d) =>
        s.setCtx c (x.mapBelay 2 subject.toNat (fun b =>
          if b.ordinal = ordinal.toNat ∧ b.peerDigest = none then { b with peerDigest := some d } else b))
      | .sourceDigest shard d =>
        if s.crn.ownState = 1 ∧ ¬ x.srcDigests.any (fun e => e.1 == shard.toNat) then
          s.setCtx c { x with srcDigests := x.srcDigests ++ [(shard.toNat, d)] }
        else s)

end Sys2Proof.Machine
end

