-- ==== Sys2Proof/Machine/CtxRows.lean ====
section
/-! DEFINITION. The commands of the host attachment and of the contexts: the CXL port (R298, R307, R308, R311, R312), the
feed ring (R315 to R317), LOAD, RESTORE, START, STEP, CHECKPOINT, PAUSE, RESUME (R319 to R325), ABORT (R326, R327) and
teardown (R328). -/

namespace Sys2Proof.Machine
open Sys2Proof

/-! ## CXL.cache requests in flight -/

/-- A CXL.cache request of a context has ended. -/
def State.hostDone (s : State) (c : CtxIdx) : State := let x := s.ctx c; s.setCtx c { x with outHost := x.outHost - 1 }

/-- A CXL.cache request of a context leaves, or waits for the link (R312). -/
def State.hostAsk (s : State) (c : CtxIdx) (o : Output) : State :=
  let x := s.ctx c
  let s := s.setCtx c { x with outHost := x.outHost + 1 }
  if s.boot.cxlUp then s.emit o else s

/-- The context is served: the module works. -/
def State.serves (s : State) : Bool := s.live

/-! ## The ring (R315, R316) -/

/-- ORDER is held in 6 … 16 (CTX_RING_c, CTX_CPL_c). -/
def ringOrderOf (v : Word) : BitVec 5 := BitVec.ofNat 5 (clampNat (field v 0 5) 6 16)

/-- The states in which CTX_RING_c, CTX_CPL_c and the host window may be written (R315). -/
def Context.ringWritable (x : Context) : Bool := x.state == 1 || x.state == 2 || x.state == 5

/-- A write of CTX_RING_c: the ring is set and its producer line read at once; a read of the old ring's line is given up. -/
def State.ringWrite (s : State) (c : CtxIdx) (value : Word) : State :=
  let x := s.ctx c
  if !x.ringWritable then s
  else
    (s.setCtx c { x with ringBase := value.extractLsb' 12 52, ringOrder := ringOrderOf value, ringSet := true, producer := 0,
                         consumer := 0, cplHead := 0, feedQ := [], lineHeld := false, lineRead := false,
                         outHost := if x.lineRead then x.outHost - 1 else x.outHost }).readLine c

/-- CTX_RING_WRITE. -/
def execCtxRingWrite (c : CtxIdx) (value : BitVec 64) (s : State) : Host.Outcome State Fault Refusal :=
  .next (if s.barAnswers && s.live then s.ringWrite c value else s)

/-- The addresses of the entries from number `from'` on. -/
def Context.entryAddrs (x : Context) (from' n : Nat) : List Nat :=
  (List.range n).map (fun i => 4096 * x.ringBase.toNat + 4096 + 128 * ((from' + i) % 2 ^ x.ringOrder.toNat))

/-- The producer line has arrived: the new entries are read, none outside the host window (R311). -/
def State.takeLine (s : State) (c : CtxIdx) (producer head : Word) (entries : List (List Byte)) : State :=
  let x := s.ctx c
  let have' := x.feedQ.length
  let n := min ((producer - x.consumer).toNat - have') (2 ^ x.ringOrder.toNat - have')
  let as := (x.entryAddrs (x.consumer.toNat + have') n).takeWhile (fun a => x.inWindow a 128)
  let s := if as.length < n then s.hostBlocked else s
  let s := s.setCtx c { x with producer := producer, cplHead := head, lineHeld := true, feedQ := x.feedQ ++ entries.take as.length }
  (((s.emits (as.map (fun a => Output.rdCurr a 128))).flush c).scanRing c).tryStart c

/-- PRODUCER_LINE_READ. -/
def execProducerLineRead (c : CtxIdx) (line : HostRead (BitVec 64 × BitVec 64)) (entries : List (List Byte)) (s : State) :
    Host.Outcome State Fault Refusal :=
  .next (
    let x := s.ctx c
    if !s.serves || !x.lineRead then s
    else
      let s := (s.setCtx c { x with lineRead := false }).hostDone c
      match line with
      | .data (producer, head) => if x.watches then s.takeLine c producer head entries else s
      | _ => s)

/-! ## LOAD (R321) -/

/-- What an entry's host or module range costs it (Table 15-8), with the causes of every op. -/
def State.bufferCauses (s : State) (c : CtxIdx) (e : FeedEntry) : List Nat :=
  s.entryCauses c e ++ s.rangeCause c (feSpace e) (feArg e 0) (feArg e 1)

/-- Starts the read of an entry's buffer: host memory is asked, module memory is read when the operation ends. -/
def State.askBuffer (s : State) (c : CtxIdx) (e : FeedEntry) : State :=
  if feSpace e then s else s.hostAsk c (.rdCurr (feArg e 0) (feArg e 1))

/-- LOAD. -/
def execLoad (c : CtxIdx) (s : State) : Host.Outcome State Fault Refusal :=
  .next (match s.frontEntry c 1 with
    | none => s
    | some e =>
      match lowest (s.bufferCauses c e) with
      | some k => (s.refuseEntry c e k).scanRing c
      | none =>
        let s := s.consume c
        (s.setCtx c { s.ctx c with op := .load e }).askBuffer c e)

/-- The bytes of an entry's buffer: the operand for host memory, module memory itself for SPACE = 1. None: an error or
poison (READ). -/
def State.bufferBytes (s : State) (c : CtxIdx) (e : FeedEntry) (r : HostRead (List Byte)) : Option (List Byte) × State :=
  if feSpace e then
    let (b, s, _) := s.readBytes 5 (s.modAddr (feArg e 0)) (feArg e 1)
    (b, s)
  else
    let s := s.hostDone c
    match r with
    | .data b => (some (b.take (feArg e 1)), s)
    | _ => (none, s)

/-- A Wihorn image under check, or one that waits for the module's next switchover, holds a load back (Table 02-10). -/
def State.loadWaits (s : State) : Bool :=
  s.img.stage == .checking || (s.img.stage == .pending && s.img.pending.effStep == 0)

/-- The context as a good LOAD leaves it: step 0 committed, every per-run state at its start. -/
def Context.loaded (x : Context) (im : Sched) (epoch : Byte) : Context :=
  { x.freshStep with
    op := .none, image := some im, epoch := epoch, state := 2, swb := [], swbWork := [], ceilings := [], live := [], pointer := 0,
    committed := 0, step := 1, feedPos := 0, recordSeq := 0, stormRun := 0, stormRaised := false, factor := 0x3F800000, clipTotal := 0,
    restored := false, undefinedState := false, unseen := [], planeValid := [], tokens := [], tokenPend := [], tokenGot := [], standIn := [],
    tokenOverflow := false, handed := [], mbFailed := 0, copied := [], copyDone := false, copyFrom := none, divergence := [], endStep := 0,
    stepEntries := [], scheds := [], rows := [] }

/-- A switched-in spare starts from the step and N it has followed (Table 13-2). -/
def State.loadCatchUp (s : State) (c : CtxIdx) : State :=
  if s.crn.ownState ≠ 1 then s
  else
    let (m, n) := mapGet (0, 0) s.crn.follow c.toNat
    let x := s.ctx c
    let g := match x.image with | some im => im.gMax | none => 0
    let x := { (x.advanceTo (s.pilot c) (m + 1)) with
      pointer := m, committed := BitVec.ofNat 64 m, step := BitVec.ofNat 64 (m + 1), clipTotal := n, factor := clipFactor (s.pilot c) g n }
    { s.setCtx c x with crn := { s.crn with catchState := 2 } }

/-- A single-module system whose module left its position takes it again once new images are loaded (R272). -/
def State.retake (s : State) : State :=
  if s.singleModule ∧ s.crn.ownState = 3 then
    let p := 32 * s.ownRange + s.planSlot
    { s with crn := { s.crn with ownState := 0, ownPos := BitVec.ofNat 14 p, members := [(p, (s.planSlot, true))] } }
  else s

/-- A good image takes its place (R321). -/
def State.finishLoad (s : State) (c : CtxIdx) (e : FeedEntry) (im : Sched) : State :=
  let s := s.retake
  let s := (s.setCtx c ((s.ctx c).loaded im (BitVec.ofNat 8 (feArg e 2)))).initRecords im
  let s := s.setCtx c ((s.ctx c).advanceTo (s.pilot c) 1)
  let s := (s.loadCatchUp c).storeSwb c
  let x := s.ctx c
  let s := { s with ni := { s.ni with step := x.step, schedCtx := c, normSq := clipNorm (s.pilot c) x.clipTotal, factor := x.factor } }
  (((s.prepareStep c).reportToSubjects c im).endEntry c e 1 0 0).scanRing c

/-- A LOAD is refused: the context stays EMPTY. -/
def State.failLoad (s : State) (c : CtxIdx) (e : FeedEntry) (cause : Nat) (detail : Word) : State :=
  ((s.setCtx c { s.ctx c with op := .none }).endEntry c e 3 cause detail).scanRing c

/-- LOAD_COMPLETE (R321). A module out of service refuses every image (R285); no rule gives that refusal's DETAIL. -/
def execLoadComplete (c : CtxIdx) (image : HostRead (List Byte)) (s : State) : Host.Outcome State Fault Refusal :=
  .next (
    if !s.serves then s
    else match (s.ctx c).op with
      | .load e =>
        if s.loadWaits then s
        else
          let (b, s) := s.bufferBytes c e image
          let retired := BitVec.ofNat 8 (feArg e 2) == (s.ctx c).retired
          if s.err.containState = 1 then s
          else if s.err.containState = 2 then
            let (d, s) := s.takeFree 64
            s.failLoad c e 0x05 d
          else match b with
            | none => s.failLoad c e (if retired then 0x06 else 0x0C) 0
            | some bs =>
              match s.checkSched c bs with
                | .error (k, f) => (s.reportRefusal k f).failLoad c e 0x05 (BitVec.ofNat 64 k)
                | .ok im => if retired then s.failLoad c e 0x06 0 else s.finishLoad c e im
      | _ => s.hostDone c)

/-! ## RESTORE (R322) -/

/-- RESTORE. -/
def execRestore (c : CtxIdx) (s : State) : Host.Outcome State Fault Refusal :=
  .next (match s.frontEntry c 2 with
    | none => s
    | some e =>
      match lowest (s.bufferCauses c e) with
      | some k => (s.refuseEntry c e k).scanRing c
      | none =>
        let s := s.consume c
        (s.setCtx c { s.ctx c with op := .restore e }).askBuffer c e)

/-- RESTORE_COMPLETE: NONFINITE and AUTH leave the restored state undefined. -/
def execRestoreComplete (c : CtxIdx) (buffer : HostRead (List Byte)) (s : State) : Host.Outcome State Fault Refusal :=
  .next (
    if !s.serves then s
    else match (s.ctx c).op, (s.ctx c).image with
      | .restore e, some im =>
        let (b, s) := s.bufferBytes c e buffer
        if s.err.containState = 1 then s
        else
          let s := s.setCtx c { s.ctx c with op := .none }
          (match b with
            | none => s.endEntry c e 3 0x0C 0
            | some bs =>
              match s.ckptFault (s.ctx c) im bs with
              | .error k => (if k = 0x0A ∨ k = 0x0D then s.scrambleState c im else s).endEntry c e 3 k 0
              | .ok body => ((s.applyCkpt c im (bs.take headBytes) body).prepareStep c).endEntry c e 1 0 0).scanRing c
      | _, _ => s.hostDone c)

/-! ## START and STEP (R322, R319) -/

/-- START finds state to run from: a completed RESTORE, a stopped run, or a position that catches up (R322). -/
def State.startAllowed (s : State) (c : CtxIdx) : Bool :=
  let x := s.ctx c
  s.crn.ownState == 1 || (!x.undefinedState && (x.state == 5 || x.restored))

/-- START. -/
def execStart (c : CtxIdx) (s : State) : Host.Outcome State Fault Refusal :=
  .next (match s.frontEntry c 3 with
    | none => s
    | some e =>
      match lowest (s.entryCauses c e ++ (if s.startAllowed c then [] else [2])) with
      | some k => (s.refuseEntry c e k).scanRing c
      | none =>
        let s := s.consume c
        let s := s.setCtx c { s.ctx c with state := 3, hold := 0, endStep := BitVec.ofNat 64 (feArg e 0), startTag := feTag e, abortAt := none }
        let s := s.crn.declared.foldl (fun s p => s.declareIn p c) (s.prepareStep c)
        (s.scanRing c).tryStart c)

/-- A descriptor of an input list: address, length, SPACE (R319). -/
def inAddr (d : BitVec 128) : Nat := field d 0 64
def inLen (d : BitVec 128) : Nat := field d 64 32
def inSpace (d : BitVec 128) : Bool := bit d 96

/-- The buffer of an ordinal for a FEED_SEQ: base and size. -/
def Sched.inBuffer (im : Sched) (k seq : Nat) : Nat × Nat :=
  match im.inputs[k]? with
  | some (b0, n0, b1, n1) => if seq % 2 = 0 then (b0, n0) else (b1, n1)
  | none => (0, 0)

/-- The STEP entry at the front, where the context may take it: one step ahead at most, none past END_STEP, none while
it catches up. -/
def State.frontStep (s : State) (c : CtxIdx) : Option FeedEntry :=
  let x := s.ctx c
  match x.feedQ with
  | e :: _ =>
    if s.live && x.watches && x.opFree && x.stepEntries.isEmpty && feOp e == 4 && s.crn.ownState != 1
        && !(x.inStep && x.endStep != 0 && decide (x.endStep.toNat ≤ x.step.toNat)) then some e else none
  | [] => none

/-- The input list: the operand from host memory, or module memory itself. -/
def State.stepList (s : State) (e : FeedEntry) (im : Sched) (r : HostRead (List (BitVec 128))) : Option (List (BitVec 128)) × State :=
  if feSpace e then
    let (b, s, _) := s.readBytes 5 (s.modAddr (feArg e 1)) (16 * im.mbCount)
    (b.map (fun bs => (List.range im.mbCount).map (fun k => ofLe 128 ((bs.drop (16 * k)).take 16))), s)
  else match r with
    | .data l => (some ((List.range im.mbCount).map (fun k => nth 0 l k)), s)
    | _ => (none, s)

/-- Asks for the inputs that the entry's step reads (R319, R247). -/
def State.askInputs (s : State) (c : CtxIdx) (im : Sched) (q : StepEntry) : State :=
  let x := s.ctx c
  let n := x.step.toNat + boolNat x.inStep
  (ordinalsRead im (s.ownBelays im s.img.active n)).foldl (fun (s : State) k =>
    let d := nth 0 q.inputs k
    if inSpace d then s else s.hostAsk c (.rdCurr (inAddr d) (inLen d))) s

/-- STEP (R319). -/
def execStep (c : CtxIdx) (inputs : HostRead (List (BitVec 128))) (s : State) : Host.Outcome State Fault Refusal :=
  .next (match s.frontStep c, (s.ctx c).image with
    | some e, some im =>
      let x := s.ctx c
      let range := s.rangeCause c (feSpace e) (feArg e 1) (16 * im.mbCount)
      let early := s.entryCauses c e ++ range ++ (if feArg e 0 = x.feedPos.toNat then [] else [7])
      let (l, s) := if range.isEmpty then s.stepList e im inputs else (some [], s)
      let listCauses := match l with
        | none => [0x0C]
        | some ds => ds.zipIdx.flatMap (fun (d : BitVec 128 × Nat) =>
            s.rangeCause c (inSpace d.1) (inAddr d.1) (inLen d.1) ++ (if (im.inBuffer d.2 (feArg e 0)).2 < inLen d.1 then [8] else []))
      if s.err.containState = 1 then s
      else match lowest (early ++ listCauses) with
        | some k => (s.refuseEntry c e k).scanRing c
        | none =>
          let s := s.consume c
          let q : StepEntry := { tag := feTag e, seq := BitVec.ofNat 64 (feArg e 0), mask := BitVec.ofNat 16 (feArg e 2), inputs := l.getD [] }
          let x := s.ctx c
          let s := s.setCtx c { x with stepEntries := x.stepEntries ++ [q], feedPos := x.feedPos + 1 }
          ((s.askInputs c im q).writeConsumer c).tryStart c
    | some e, none => match lowest (s.entryCauses c e) with
      | some k => (s.refuseEntry c e k).scanRing c
      | none => s
    | none, _ => s)

/-- The input bytes of an ordinal: the operand from host memory, or module memory itself. -/
def State.inputBytes (s : State) (c : CtxIdx) (d : BitVec 128) (r : HostRead (List Byte)) : Option (List Byte) × State :=
  if inSpace d then
    let (b, s, _) := s.readBytes 5 (s.modAddr (inAddr d)) (inLen d)
    (b, s)
  else
    let s := s.hostDone c
    match r with
    | .data b => (some (b.take (inLen d)), s)
    | _ => (none, s)

/-- A STEP entry whose input read failed is refused with READ; the step waits for a replacement (R330). -/
def State.dropStep (s : State) (c : CtxIdx) (q : StepEntry) : State :=
  let x := s.ctx c
  let s := s.setCtx c { x with stepEntries := x.stepEntries.drop 1, feedPos := x.feedPos - 1 }
  let s := s.writeConsumer c
  let x := s.ctx c
  ((s.post c { tag := q.tag, op := 4, status := 3, cause := 0x0C, step := x.committed, feedPos := x.cairnFeed }).scanRing c).tryStart c

/-- STEP_INPUT_READ (R319). -/
def execStepInputRead (c : CtxIdx) (ordinal : BitVec 4) (input : HostRead (List Byte)) (s : State) : Host.Outcome State Fault Refusal :=
  .next (
    let x := s.ctx c
    if !s.serves then s
    else match x.stepEntries, x.image with
      | q :: rest, some im =>
        let k := ordinal.toNat
        if im.mbCount ≤ k ∨ bit q.read k then s
        else
          let (b, s) := s.inputBytes c (nth 0 q.inputs k) input
          if s.err.containState = 1 then s
          else match b with
            | none => s.dropStep c q
            | some bs =>
              let s := s.writeBytes (im.inBuffer k q.seq.toNat).1 bs
              (s.setCtx c { s.ctx c with stepEntries := { q with read := q.read ||| BitVec.ofNat 16 (2 ^ k) } :: rest }).tryStart c
      | _, _ => s.hostDone c)

/-! ## CHECKPOINT (R323) -/

/-- The write of a checkpoint: the committed state is read now, and the write ends with CHECKPOINT_COMPLETE. -/
def State.beginCkpt (s : State) (c : CtxIdx) (im : Sched) (e : FeedEntry) : State :=
  match s.snapshot c im with
  | (.error n, s) =>
    if s.mem.contained then s
    else (s.statePoison).endEntry c e 3 0x0C (BitVec.ofNat 64 n)
  | (.ok bs, s) =>
    let s := s.setCtx c { s.ctx c with op := .checkpoint e }
    if feSpace e then s.writeBytes (s.modAddr (feArg e 0)) bs else s.hostAsk c (.itoMWr (feArg e 0) bs)

/-- CHECKPOINT: one that finds another still writing waits for it (R330). -/
def execCheckpoint (c : CtxIdx) (s : State) : Host.Outcome State Fault Refusal :=
  .next (match s.frontEntry c 5, (s.ctx c).image with
    | some e, some im =>
      let small := decide (feArg e 1 < s.ckptSize im (s.ctx c).key.isSome)
      (match lowest (s.bufferCauses c e ++ (if small then [8] else [])) with
        | some k => (s.refuseEntry c e k).scanRing c
        | none =>
          let s := s.consume c
          let x := s.ctx c
          let s := (match x.op with
            | .checkpoint _ => s.setCtx c { x with ckptQ := x.ckptQ ++ [e] }
            | _ => s.beginCkpt c im e)
          s.scanRing c)
    | some e, none => (match lowest (s.entryCauses c e) with
      | some k => (s.refuseEntry c e k).scanRing c
      | none => s)
    | none, _ => s)

/-- Starts the next checkpoint that waits; one that fails makes room for the one after. -/
def State.nextCkpt (s : State) (c : CtxIdx) (im : Sched) : List FeedEntry → State
  | [] => s
  | e :: rest =>
    let s := (s.setCtx c { s.ctx c with ckptQ := rest }).beginCkpt c im e
    match (s.ctx c).op with
    | .checkpoint _ => s
    | _ => s.nextCkpt c im rest

/-- CHECKPOINT_COMPLETE. -/
def execCheckpointComplete (c : CtxIdx) (s : State) : Host.Outcome State Fault Refusal :=
  .next (
    let x := s.ctx c
    if !s.serves then s
    else match x.op, x.image with
      | .checkpoint e, some im =>
        let s := if feSpace e then s else s.hostDone c
        let n := s.ckptSize im x.key.isSome
        let s := (s.setCtx c { s.ctx c with op := .none }).endEntry c e 1 0 (BitVec.ofNat 64 n)
        s.nextCkpt c im (s.ctx c).ckptQ
      | _, _ => s.hostDone c)

/-! ## PAUSE and RESUME (R325) -/

/-- PAUSE. -/
def execPause (c : CtxIdx) (s : State) : Host.Outcome State Fault Refusal :=
  .next (match s.frontEntry c 6 with
    | none => s
    | some e =>
      match lowest (s.entryCauses c e) with
      | some k => (s.refuseEntry c e k).scanRing c
      | none => (((s.consume c).holdCtx c 0).endEntry c e 1 0 0).scanRing c)

/-- RESUME: holds 2 and 3 refuse it. -/
def execResume (c : CtxIdx) (s : State) : Host.Outcome State Fault Refusal :=
  .next (match s.frontEntry c 7 with
    | none => s
    | some e =>
      let hard := bit (s.ctx c).hold 2 || bit (s.ctx c).hold 3
      match lowest (s.entryCauses c e ++ (if hard then [0x0B] else [])) with
      | some k => (s.refuseEntry c e k).scanRing c
      | none =>
        let s := s.consume c
        (((s.setCtx c { s.ctx c with state := 3, hold := 0 }).endEntry c e 1 0 0).scanRing c).tryStart c)

/-! ## ABORT (R326, R327) -/

/-- The record of an ABORT request: 5 ACCEPTED, 4 LATE. -/
def State.postAbort (s : State) (c : CtxIdx) (status : Nat) : State :=
  let x := s.ctx c
  s.post c { tag := x.abortTag, op := 8, status := BitVec.ofNat 8 status, step := x.committed, feedPos := x.cairnFeed }

/-- ABORT of the run, or of the operation in progress. -/
def State.abortReq (s : State) (c : CtxIdx) : State :=
  let x := s.ctx c
  if x.state = 3 ∨ x.state = 4 then
    if x.abortAt.isSome then s.postAbort c 4
    else if x.abortNow then (s.postAbort c 5).abortRun c
    else
      let t := max x.abortStep.toNat x.step.toNat
      if x.endStep.toNat ≠ 0 ∧ x.endStep.toNat ≤ t then s.postAbort c 4
      else (s.setCtx c { x with abortAt := some (BitVec.ofNat 64 t, x.abortTag) }).postAbort c 5
  else match x.op, x.image with
    | .none, _ => s.postAbort c 4
    | .checkpoint _, some im =>
      let s := (s.postAbort c 5).abortOp c
      s.nextCkpt c im (s.ctx c).ckptQ
    | _, _ => ((s.postAbort c 5).abortOp c).scanRing c

/-- ABORT: the write of CTX_CONTROL_c that requests it; its ABORT_NOW and ABORT_TAG fields are the operands. -/
def execAbort (c : CtxIdx) (now : Bool) (tag : BitVec 32) (s : State) : Host.Outcome State Fault Refusal :=
  .next (
    if !s.barAnswers || !s.live then s
    else
      let s := s.setCtx c { s.ctx c with abortNow := now, abortTag := tag }
      if (s.ctx c).state = 0 then s else s.abortReq c)

/-! ## Teardown (R328) -/

/-- TEARDOWN, orders 1 to 3. -/
def execTeardown (c : CtxIdx) (s : State) : Host.Outcome State Fault Refusal :=
  .next (if s.barAnswers && s.live then (s.teardownStart c).onIdle else s)

/-- TEARDOWN_DRAINED, order 5: the outstanding counters are 0. -/
def execTeardownDrained (c : CtxIdx) (s : State) : Host.Outcome State Fault Refusal :=
  .next (
    let x := s.ctx c
    if s.live && x.state == 6 && x.undrained && x.outHost == 0 && s.outMem c == 0 && s.outLink c == 0 then
      (s.teardownScrub c).resetFlows c
    else s)

/-- TEARDOWN_SCRUB_DONE, order 6. -/
def execTeardownScrubDone (c : CtxIdx) (s : State) : Host.Outcome State Fault Refusal :=
  .next (
    let x := s.ctx c
    if s.live && x.state == 6 && !x.undrained then s.teardownEnd c else s)

/-! ## The CXL port (R298, R307, R308, R312) -/

/-- CXL_COMPLETION_TIMEOUT (R276): the context's oldest request ends in error, as its own completion would. -/
def execCxlCompletionTimeout (c : CtxIdx) (s : State) : Host.Outcome State Fault Refusal :=
  let x := s.ctx c
  if x.outHost = 0 then .next s
  else if x.lineRead then execProducerLineRead c .error [] s
  else match x.op, x.stepEntries with
    | .load e, _ => if feSpace e then .next (s.hostDone c) else execLoadComplete c .error s
    | .restore e, _ => if feSpace e then .next (s.hostDone c) else execRestoreComplete c .error s
    | _, q :: _ =>
      (match (List.range q.inputs.length).find? (fun k => !bit q.read k && !inSpace (nth 0 q.inputs k)) with
        | some k => execStepInputRead c (BitVec.ofNat 4 k) .error s
        | none => .next (s.hostDone c))
    | _, [] => .next (s.hostDone c)

/-- The port's part of a reset (R312): decoder, snoop filter, held lines, outstanding requests. -/
def State.resetCxl (s : State) : State :=
  let s := { s with
    host := { s.host with decoderBase := 0, committed := false, snoop := [], waiting := [], ideKeys := [], ideOn := [], rate := 0,
                          narrow := false, msixPending := 0, reissue := true },
    boot := { s.boot with cxlUp := false } }
  allCtx.foldl (fun (s : State) c =>
    let x := s.ctx c
    s.setCtx c { x with lineHeld := false, outHost := 0 }) s

/-- CXL_RESET: only the port. -/
def execCxlReset (s : State) : Host.Outcome State Fault Refusal :=
  .next (if s.powered then s.resetCxl else s)

/-- What a context asked before the reset is asked again; records and the consumer line follow (R312). -/
def State.reissueCtx (s : State) (c : CtxIdx) : State :=
  let x := s.ctx c
  let s := if x.lineRead then (s.setCtx c { x with lineRead := false }).readLine c else s
  let s := match x.op with
    | .load e => s.askBuffer c e
    | .restore e => s.askBuffer c e
    | .checkpoint e => if feSpace e then s
      else match x.image with
        | some im => (match s.snapshot c im with
          | (.ok bs, s) => s.hostAsk c (.itoMWr (feArg e 0) bs)
          | (.error _, s) => s)
        | none => s
    | .none => s
  x.stepEntries.foldl (fun (s : State) q =>
    (q.inputs.zipIdx.filter (fun (d : BitVec 128 × Nat) => !bit q.read d.2 && !inSpace d.1)).foldl (fun (s : State) d =>
      s.hostAsk c (.rdCurr (inAddr d.1) (inLen d.1))) s) s

/-- CXL_LINK_TRAINED (R298, R307): within the rate and width limits of CXL_LINK. In bivouac mode the configuration space
offers no CXL.cache. -/
def execCxlLinkTrained (rate : BitVec 2) (narrow : Bool) (s : State) : Host.Outcome State Fault Refusal :=
  .next (
    let o := s.boot.opts.cxlLink
    if !s.powered || decide (s.boot.step.toNat < 2) || decide (rate.toNat < field o 0 2) || (bit o 2 && !narrow) then s
    else
      let again := s.host.reissue
      let s := { s with boot := { s.boot with cxlUp := true }, host := { s.host with rate := rate, narrow := narrow, reissue := false } }
      if !s.live then s
      else allCtx.foldl (fun (s : State) c =>
        let s := if again then s.reissueCtx c else s
        let s := if (s.ctx c).lineDirty then s.writeConsumer c else s
        ((s.flush c).readLine c).tryStart c) s)

/-- HDM_DECODER_COMMIT (R308): a multiple of 256 MiB; a committed decoder keeps its base. -/
def execHdmDecoderCommit (base : BitVec 64) (s : State) : Host.Outcome State Fault Refusal :=
  .next (
    if s.barAnswers && s.boot.cxlUp && !s.host.committed && base.toNat % 2 ^ 28 == 0 then
      { s with host := { s.host with decoderBase := base, committed := true } }
    else s)

end Sys2Proof.Machine
end

