-- ==== Sys2Proof/Machine/Boot.lean ====
section
/-! DEFINITION. Power, reset, thermal trip and governor (R287 to R292, R336, R337, R364 to R370), bring-up (R294 to
R302), hangs and the containment log (R275 to R277, R284, R285), block resets (R303). -/

namespace Sys2Proof.Machine
open Sys2Proof

/-! ## Reset (R287 to R292) -/

/-- A recognised reset or a lost rail: every register at its reset value, queues and memory gone; fuses and flash stay
(R289, R304). A containment-log write under way is abandoned: its entry is damaged, or was not begun. -/
def State.enterReset (s : State) : State :=
  let (begun, s) := if s.err.logPending then (let f := s.takeFree 1; (f.1 == 1, f.2)) else (false, s)
  let log := if begun then s.flash.containLog ++ [{ serviceS := 0, cause := 0, chainEnd := false, pending := true, step := 0, damaged := true }]
    else s.flash.containLog
  { pending := s.pending, free := s.free, fuses := s.fuses, flash := { s.flash with containLog := log }, out := s.out,
    pwr := { railsValid := s.pwr.railsValid, boardPwrgd := s.pwr.boardPwrgd, resetPin := s.pwr.resetPin, tripped := s.pwr.tripped,
             thermtripLow := s.pwr.thermtripLow, sensed := s.pwr.sensed,
             gpio := if s.pwr.sensed then s.fuses.pinCode.drop 3 else [0, 0, 0, 0] } }

/-- A reset that ends in a power-up: the fuse map is to be sensed again (R292). Which resets these are is the model's reading:
all but RESET_L, those whose RST_STATUS.SOURCE reads power-on (DEDUCED; notes/assumptions/149.md). -/
def State.losePower (s : State) : State := { s with pwr := { s.pwr with sensed := false } }.enterReset

/-- The fuse map is sensed: each fuse-controlled pin takes its reset state (R292). -/
def State.sensePins (s : State) : State := { s with pwr := { s.pwr with sensed := true, gpio := s.fuses.pinCode.drop 3 } }

/-- The state code of a fuse-controlled pin (R292, Tables 14-2 and 18-7), in the fuse map's order: EXTEST's, FAULT_L driven
low, or what the pin has kept since the fuse map was sensed; high-impedance before that. -/
def State.pinState (s : State) (k : Nat) : BitVec 3 :=
  match s.pwr.extestPins.find? (fun e => e.1 == k) with
  | some e => e.2
  | none =>
    if !s.pwr.sensed then 0
    else if k = 0 && s.pwr.faultLow then 3
    else if 3 ≤ k then nth 0 s.pwr.gpio (k - 3)
    else nth 0 s.fuses.pinCode k

/-- The glitch filter of Table 14-1: below 48 µs ignored, above 52 µs taken, either between. -/
def State.filtered (s : State) (us : BitVec 16) : Bool × State :=
  if us.toNat < 48 then (false, s)
  else if 52 < us.toNat then (true, s)
  else let f := s.takeFree 1; (f.1 == 1, f.2)

/-- Bring-up starts once rails, board power good and RESET_L all allow it; `source` names what came last (R290). -/
def State.tryBringUp (s : State) (source : BitVec 2) : State :=
  if s.pwr.held && s.pwr.railsValid && s.pwr.boardPwrgd && s.pwr.resetPin && !s.pwr.tripped then
    { s with pwr := { s.pwr with held := false, ticks := 0 }, boot := { s.boot with step := 1, source := source } }
  else s

/-- RESET_RECOGNISED (R288, R289). -/
def execResetRecognised (us : BitVec 16) (s : State) : Host.Outcome State Fault Refusal :=
  .next (
    if !s.pwr.resetPin then s
    else
      let (taken, s) := s.filtered us
      if taken then { s with pwr := { s.pwr with resetPin := false } }.enterReset else s)

/-- RESET_L_RELEASE (R288, R290). -/
def execResetLRelease (us : BitVec 16) (s : State) : Host.Outcome State Fault Refusal :=
  .next (
    if s.pwr.resetPin then s
    else
      let (taken, s) := s.filtered us
      if taken then { s with pwr := { s.pwr with resetPin := true } }.tryBringUp 1 else s)

/-- RAILS_VALID (R290). A latched trip keeps every rail off (R370). -/
def execRailsValid (s : State) : Host.Outcome State Fault Refusal :=
  .next (if s.pwr.tripped then s else { s with pwr := { s.pwr with railsValid := true } }.tryBringUp 0)

/-- RAIL_OUT_OF_LIMITS (R290, R366). -/
def execRailOutOfLimits (_rail : Rail) (s : State) : Host.Outcome State Fault Refusal :=
  .next ({ s with pwr := { s.pwr with railsValid := false } }.losePower)

/-- INPUT_INVALID: the input has been at `mv` for `us` (R365); below 5 V for 1 s is a removal, which clears a trip (R364,
R370). -/
def execInputInvalid (mv : BitVec 17) (us : BitVec 32) (s : State) : Host.Outcome State Fault Refusal :=
  .next (
    let v := mv.toNat
    let t := us.toNat
    let fast := (decide (v < 38500) || decide (60500 < v)) && decide (20 < t)
    let slow := (decide (v < 40000) || decide (59500 < v)) && decide (10000 < t)
    let s := if fast || slow then { s with pwr := { s.pwr with railsValid := false } }.losePower else s
    if v < 5000 ∧ 1000000 ≤ t then { s with pwr := { s.pwr with tripped := false, thermtripLow := false } } else s)

/-- BOARD_PWRGD: held low or high through the glitch filter (Table 18-6). -/
def execBoardPwrgd (level : Bool) (us : BitVec 16) (s : State) : Host.Outcome State Fault Refusal :=
  .next (
    if s.pwr.boardPwrgd = level then s
    else
      let (taken, s) := s.filtered us
      if !taken then s
      else
        let s := { s with pwr := { s.pwr with boardPwrgd := level } }
        if level then s.tryBringUp 0 else s.losePower)

/-- REFCLK_LOSS (R15): TICKS freezes. -/
def execRefclkLoss (s : State) : Host.Outcome State Fault Refusal :=
  .next (if !s.powered || s.pwr.refclkLost then s else { s with pwr := { s.pwr with refclkLost := true } }.moduleCause 0x41 6 0 0x2)

/-! ## Thermal trip and governor (R336, R337, R370) -/

/-- THERMAL_SENSOR_READ (R370). -/
def execThermalSensorRead (dies packages : List (BitVec 8)) (s : State) : Host.Outcome State Fault Refusal :=
  .next (
    if s.pwr.tripped then s
    else if dies.any (fun t => decide (115 < t.toNat)) || packages.any (fun t => decide (105 < t.toNat)) then
      { s with pwr := { s.pwr with tripped := true, thermtripLow := true, railsValid := false } }.losePower
    else if s.pwr.held then s
    else { s with pwr := { s.pwr with dieTemps := dies, pkgTemps := packages,
                                      tjMax := BitVec.ofNat 8 ((dies.map BitVec.toNat).foldl max 0) } })

/-- The effective cap (R336). -/
def State.effectiveCap (s : State) : Nat := min (min s.pwr.capW.toNat s.pwr.capCeiling.toNat) 2800

/-- INPUT_W: the mean of 100 consecutive windows; a remainder may round either way. -/
def State.meanPower (s : State) (ws : List (BitVec 16)) : BitVec 16 × State :=
  if ws.length < 100 then (s.pwr.inputW, s)
  else
    let sum := (ws.map BitVec.toNat).foldl (· + ·) 0
    if sum % 100 = 0 then (BitVec.ofNat 16 (sum / 100), s)
    else let f := s.takeFree 1; (BitVec.ofNat 16 (sum / 100 + f.1.toNat), f.2)

/-- The supply before the governor's first move: in 0.70 … 0.85 V, otherwise open. -/
def State.supply (s : State) : Nat × State :=
  if s.pwr.coreMv = 0 then (let f := s.takeFree 8; (700 + 5 * (f.1.toNat % 31), f.2)) else (s.pwr.coreMv.toNat, s)

/-- The governor's setpoint and flags after one window. -/
def State.govern (s : State) (past : Bool) : State :=
  let (v, s) := s.supply
  let (v', s) :=
    if past then (if 600 < v then v - 5 else v, s)
    else if v < 850 then (let f := s.takeFree 1; (if f.1 = 1 then v + 5 else v, f.2))
    else (v, s)
  let below := decide (v' < 700)
  let unmet := past && v == 600
  let p := s.pwr
  let s := { s with pwr := { p with coreMv := BitVec.ofNat 10 v', limiting := decide (v' < 850), belowRange := below, capUnmet := unmet } }
  let s := if below && !p.belowRange then s.raise 0x29 0 else s
  if unmet && !p.capUnmet then s.raise 0x1A 0 else s

/-- GOVERNOR_WINDOW: 1,000 ticks have passed, with the power and the hottest junction they showed. -/
def execGovernorWindow (watts : BitVec 16) (tj : BitVec 8) (s : State) : Host.Outcome State Fault Refusal :=
  .next (
    if !s.powered || decide (s.boot.step.toNat < 3) then s
    else
      let ws := (watts :: s.pwr.windows).take 100
      let (m, s) := s.meanPower ws
      let s := { s with pwr := { s.pwr with windows := ws, inputW := m, tjMax := tj } }
      s.govern (decide (s.effectiveCap < watts.toNat) || decide (105 < tj.toNat)))

/-- POWER_CAP_EFFECTER (R332, R336): 500 … 2,800 W; what a value outside stores is open within the range. -/
def execPowerCapEffecter (watts : BitVec 16) (s : State) : Host.Outcome State Fault Refusal :=
  .next (
    if !s.powered || !s.mgt.ready then s
    else if 500 ≤ watts.toNat ∧ watts.toNat ≤ 2800 then { s with pwr := { s.pwr with capW := watts } }
    else let f := s.takeFree 16
      { f.2 with pwr := { f.2.pwr with capW := BitVec.ofNat 16 (500 + f.1.toNat % 2301) } })

/-- The bytes of the direct target's registers (Table 16-1), as a read finds them. -/
def State.directByte (s : State) (a : Nat) : Byte :=
  let state := 32 * boolNat s.fuses.debugOpened + 16 * boolNat s.pwr.faultLow + 4 * s.err.containState.toNat + s.boot.mode.toNat
  nth 0 (le 2 0x4B04 ++ leBytes 2 s.pwr.capCeiling ++ le 1 state) a

/-- CAP_CEILING_WRITE on the direct target (Table 16-1). -/
def execCapCeilingWrite (watts : BitVec 16) (s : State) : Host.Outcome State Fault Refusal :=
  .next (
    if !s.powered || !s.mgt.ready || s.mgt.directAddr == 0 then s
    else { s with pwr := { s.pwr with capCeiling := BitVec.ofNat 16 (clampNat watts.toNat 500 2800) } })

/-! ## Start-attempt record and containment log (R284, R285, R300) -/

/-- The start-attempt counter. -/
def startCounter (l : List StartEntry) : Nat :=
  l.foldl (fun n e => match e with | .increment => min 15 (n + 1) | .damaged => min 15 (n + 1) | .clear => 0 | .base m => min 15 m) 0

/-- Appends an entry; a full sector gives way to a BASE with the count. -/
def appendStart (l : List StartEntry) (e : StartEntry) : List StartEntry :=
  let l := l ++ [e]
  if 256 ≤ l.length then [.base (startCounter l)] else l

def State.noteStart (s : State) (e : StartEntry) : State := { s with flash := { s.flash with startLog := appendStart s.flash.startLog e } }

/-- SERVICE_S and PENDING as the entries read: a damaged one is PENDING with the SERVICE_S before it (Table 14-4). -/
def readContainLog (l : List LogEntry) : List LogEntry :=
  (l.foldl (fun (a : List LogEntry × Nat) e =>
    if e.damaged then (a.1 ++ [{ e with serviceS := a.2, cause := 0, chainEnd := false, pending := true }], a.2)
    else (a.1 ++ [e], e.serviceS)) ([], 0)).1

/-- The entries of the current chain, as they read. -/
def currentChain (l : List LogEntry) : List LogEntry :=
  (readContainLog l).foldl (fun a e => if e.chainEnd then [] else a ++ [e]) []

/-- The count of R285. -/
def containCountOf (l : List LogEntry) (window : Nat) : Nat :=
  let ch := currentChain l
  match ch.getLast? with
  | none => 0
  | some n => (ch.filter (fun e => decide (n.serviceS < e.serviceS + 60 * window))).length

/-- The containment log at bring-up (R284): a PENDING newest entry is cleared, otherwise the chain ends; but the chain that
took the module out of service stays until a management clear (R285; DEDUCED, notes/assumptions/14.md). A sector about to
wrap keeps the current chain only. -/
def checkContainLog (l : List LogEntry) (window limit : Nat) : List LogEntry :=
  let l := if 1024 ≤ l.length then currentChain l else l
  match (readContainLog l).getLast? with
  | none => l
  | some e =>
    if e.chainEnd then l
    else if e.pending then l.dropLast ++ (match l.getLast? with | some x => [{ x with pending := false }] | none => [])
    else if limit ≤ containCountOf l window then l
    else l ++ [{ serviceS := 0, cause := 0, chainEnd := true, pending := false, step := 0 }]

/-- CONTAIN_LOG_WRITE: the write of order 4 of Table 13-8 ends (R278, R284). -/
def execContainLogWrite (ok : Bool) (s : State) : Host.Outcome State Fault Refusal :=
  .next (
    if s.err.containState != 1 || !s.err.logPending then s
    else
      let s := { s with err := { s.err with logPending := false } }
      if !ok then s.raise 0x10 0
      else
        let prev := match (currentChain s.flash.containLog).getLast? with | some e => e.serviceS | none => 0
        { s with flash := { s.flash with containLog := s.flash.containLog ++ [
            { serviceS := prev + s.dmp.t0.toNat / 100000000, cause := s.err.containCause, chainEnd := false, pending := true,
              step := s.runStep }] } })

/-! ## Option bytes (R294) -/

/-- The fields of a copy. -/
def readOptions (b : List Byte) : Options :=
  { generation := BitVec.ofNat 64 (leNat b 0x08 8), wihornPref := leNat b 0x10 1 == 1, fwPref := leNat b 0x11 1 == 1,
    containLimit := BitVec.ofNat 4 (leNat b 0x12 1), cxlLink := BitVec.ofNat 3 (leNat b 0x13 1),
    containWindow := BitVec.ofNat 11 (leNat b 0x14 2), pwrCap := BitVec.ofNat 16 (leNat b 0x16 2),
    i3cAddr := BitVec.ofNat 7 (leNat b 0x18 1), portDark := BitVec.ofNat 96 (leNat b 0x20 12) }

/-- A copy's cause, as OPT_STATUS codes it: 0 valid. -/
def optionCause (b : List Byte) : Nat :=
  if b.all (· == 0xFF) then 5
  else if leNat b 0 4 ≠ 0x4B474F42 then 1
  else if leNat b 4 2 ≠ 1 then 2
  else if b.length ≠ 4096 ∨ leNat b 0xFF8 8 ≠ (crc64 (b.take 0xFF8)).toNat then 3
  else if leNat b 0x10 1 ≤ 1 ∧ leNat b 0x11 1 ≤ 1 ∧ inRange 2 15 (leNat b 0x12 1) ∧ leNat b 0x13 1 < 8 ∧ inRange 1 1440 (leNat b 0x14 2)
      ∧ inRange 500 2800 (leNat b 0x16 2) ∧ inRange 0x08 0x77 (leNat b 0x18 1)
      ∧ restZero b [(0, 6), (8, 17), (0x20, 12), (0xFF8, 8)] then 0
  else 4

/-- The option bytes are selected (R294). -/
def State.selectOptions (s : State) : State :=
  let a := optionCause s.flash.optA
  let b := optionCause s.flash.optB
  let oa := readOptions s.flash.optA
  let ob := readOptions s.flash.optB
  let useA := a == 0 && (b != 0 || decide (ob.generation.toNat ≤ oa.generation.toNat))
  let src : BitVec 2 := if useA then 1 else if b = 0 then 2 else 0
  { s with boot := { s.boot with
      aCause := BitVec.ofNat 8 a, bCause := BitVec.ofNat 8 b, optSource := src, optDefaulted := src == 0,
      opts := if useA then oa else if b = 0 then ob else {},
      optCopy := if useA then s.flash.optA else if b = 0 then s.flash.optB else [] } }

/-! ## Bring-up (R296 to R302) -/

/-- The fuse map is sound (R292, R338). -/
def fusesOk (f : Fuses) : Bool :=
  (f.pinCode.zip f.pinMask).all (fun p => decide (p.1.toNat ≤ 4) && p.2.getLsbD p.1.toNat)
  && (match f.pinCode.head? with | some c => decide (c.toNat ≤ 1) | none => true)

/-- The fuse map's repairs apply (R107). -/
def State.applyFuseRepairs (s : State) : State :=
  s.fuses.repair.foldl (fun (s : State) e => match e.2 with
    | .row m => s.mapOutRow (BitVec.ofNat 13 e.1) m.toNat 1
    | .tor => s.mapOutTor (BitVec.ofNat 13 e.1)) s

/-- Step 2 (R284, R294, R300, R301): then step 3, or bivouac mode. The counter comes first. -/
def State.bootStep2 (s : State) : State :=
  let n := startCounter s.flash.startLog
  let biv := decide (4 ≤ n)
  let s := if biv then s else s.noteStart .increment
  let s := s.selectOptions
  let o := s.boot.opts
  let s := { s with flash := { s.flash with
    containLog := checkContainLog s.flash.containLog o.containWindow.toNat o.containLimit.toNat } }
  let s := { s with
    boot := { s.boot with step := 2, startCount := BitVec.ofNat 4 (if biv then n else n + 1) },
    err := { s.err with containCount := BitVec.ofNat 4 (min 15 (containCountOf s.flash.containLog o.containWindow.toNat)) },
    mgt := { s.mgt with ready := true, mctpAddr := o.i3cAddr },
    pwr := { s.pwr with capW := o.pwrCap } }
  if biv then { s with boot := { s.boot with mode := 3 } }.raise 0x6 0
  else { s with boot := { s.boot with step := 3 } }

/-- A slot's firmware verifies (R342). -/
def fwVerifies (f : Fuses) (img : List Byte) : Bool :=
  !img.isEmpty && Config.fwSigned img && decide (f.svn.toNat ≤ (Config.fwSvn img).toNat) && decide ((Config.fwSvn img).toNat ≤ 64)

/-- Step 3: the preferred slot, the other, the factory firmware. -/
def State.bootStep3 (s : State) : State :=
  let a := fwVerifies s.fuses s.flash.fwA
  let b := fwVerifies s.fuses s.flash.fwB
  let useB := b && (s.boot.opts.fwPref || !a)
  if a || b then
    let img := if useB then s.flash.fwB else s.flash.fwA
    { s with boot := { s.boot with step := 4, fwSource := if useB then 2 else 1, runSvn := Config.fwSvn img, fwRelease := Config.fwRelease img } }
  else if Config.fwSigned Config.factoryFirmware then
    { s with boot := { s.boot with step := 4, fwSource := 0, runSvn := 0, fwRelease := Config.fwRelease Config.factoryFirmware } }
  else s.failStart 2 0

/-- Step 7 begins: every port trains but those the option bytes force dark; of these a planned one is MISSING (R202). -/
def State.beginLinks (s : State) : State :=
  let dark := s.boot.opts.portDark
  let s := allPorts.foldl (fun (s : State) n =>
    if !dark.getLsbD n then s.setPort n { s.port n with state := 1 }
    else if s.portClass n = 0 then s
    else (s.setPort n { s.port n with outcome := 2 }).raise 0x24 n) { s with boot := { s.boot with links := true } }
  s.linkCheck

/-- An image of step 4 takes effect, and steps 6 and 7 begin. -/
def State.bootWith (s : State) (w : Wihorn) (src : BitVec 2) : State :=
  let s := s.applyWihorn w src
  { s with img := { s.img with defaulted := src == 0 }, boot := { s.boot with step := 6 } }.beginLinks

/-- Step 4 over the images in the order they are tried, each with its ACTIVE_SOURCE (R32, R33): the first that passes takes
effect. One that fails is reported in IMG_STATUS (R3, R27); an empty slot holds no image to refuse. -/
def State.bootImages (s : State) : List (List Byte × BitVec 2) → State
  | [] => s.failStart 3 0
  | (bs, src) :: rest =>
    if bs.isEmpty then s.bootImages rest
    else match checkWihorn s.fuses.keys bs with
      | .ok w => s.bootWith w src
      | .error (c, f) => (s.reportRefusal c f).bootImages rest

/-- Step 4 of bring-up: the preferred slot, the other slot, the factory default structure. -/
def State.bootStep4 (s : State) : State :=
  let a := (s.flash.wihornA, (1 : BitVec 2))
  let b := (s.flash.wihornB, (2 : BitVec 2))
  s.bootImages ((if s.boot.opts.wihornPref then [b, a] else [a, b]) ++ [(factoryImage, 0)])

/-- The rows and tors that the self-check found (R297). Row 4 counts once it is in use. -/
def State.selfCheck (s : State) (fs : List SelfCheckFault) : State :=
  let row4 (f : SelfCheckFault) : Bool := match f with | .row _ r => r == 4 | .store _ => false
  let s := (fs.filter (fun f => !row4 f)).foldl (fun (s : State) f => match f with
    | .row t r => if r.toNat < 4 then s.mapOutRow t r.toNat 3 else s
    | .store t => s.mapOutTor t) s
  (fs.filter row4).foldl (fun (s : State) f => match f with
    | .row t _ => if (s.tor t).rowOut = 7 then s else s.mapOutTor t
    | .store _ => s) s

/-- BRING_UP_STEP_DONE: the step in hand ends (R296, Table 14-7). Steps 2 and 5 follow at once. -/
def execBringUpStepDone (order : BitVec 4) (result : StepResult) (selfCheck : List SelfCheckFault) (s : State) :
    Host.Outcome State Fault Refusal :=
  .next (
    if !s.powered || s.boot.mode != 0 || s.boot.step != order || s.err.containState == 1 || (order == 8 && s.boot.selfChecked) then s
    else match result with
      | .failed d =>
        if order = 1 then s.failStart 1 0
        else if order = 3 then s.failStart 2 0
        else if order = 4 then s.failStart 3 0
        else if order = 6 then s.failStart 4 d.toNat
        else s.failStart 7 d.toNat
      | .done =>
        if order = 1 then (if fusesOk s.fuses then s.sensePins.applyFuseRepairs.bootStep2 else s.failStart 1 0)
        else if order = 3 then s.bootStep3
        else if order = 4 then s.bootStep4
        -- every burst is written with zeros (R165)
        else if order = 6 then { s with mem := { s.mem with cells := [], initDone := true }, boot := { s.boot with step := 8 } }
        else
          let s := s.selfCheck selfCheck
          { s with boot := { s.boot with selfChecked := true } })

/-- READY: step 8 has ended and step 7 has settled; out of service where R285 asks it. -/
def execReady (s : State) : Host.Outcome State Fault Refusal :=
  .next (
    if !s.powered || s.boot.mode != 0 || s.boot.step != 8 || !s.boot.selfChecked || !(s.links.state == 2 || s.links.state == 3) then s
    else
      let s := { s with boot := { s.boot with mode := 1 } }.noteStart .clear
      if s.boot.opts.containLimit.toNat ≤ s.err.containCount.toNat then
        { s with err := { s.err with containState := 2 } }.raise 0x7 0
      else s)

/-- CONFIGURATION_REQUEST (R298, R301): the CXL port trains from the end of step 1. -/
def execConfigurationRequest (s : State) : Host.Outcome State Fault Refusal :=
  .next (
    if !s.powered || !s.boot.cxlUp then s
    else if s.boot.mode != 3 && decide (s.boot.step.toNat ≤ 4) then s.emit .configRetry
    else s.emit .configOk)

/-! ## Hangs (R275 to R277) -/

/-- A block ID of Table 13-10. -/
def blockIdOk (b : BitVec 16) : Bool :=
  decide (field b 0 13 < nth 0 [8192, 128, 128, 96, 4, 5, 5, 0] (field b 13 3))

/-- A tor in a WAIT with REMOTE = 1. -/
def Tor.remoteWait (r : Tor) : Bool := r.state == 2 && (match r.waitToken with | some w => w.2.2 | none => false)

/-- Whether a tor of a context is in a remote wait. -/
def State.someRemoteWait (s : State) (x : Context) : Bool :=
  match x.image with
  | some im => im.tors.any (fun e => (s.tor (BitVec.ofNat 13 e.tor)).remoteWait)
  | none => false

/-- The module waits for the feed: it runs contexts, and every one is in feed wait (R23; DEDUCED,
notes/assumptions/147.md). -/
def State.feedWaiting (s : State) : Bool :=
  let run := allCtx.filter (fun c => (s.ctx c).state == 3)
  !run.isEmpty && run.all (fun c => (s.ctx c).feedWait)

/-- The context of a ridge's port is in feed wait. -/
def State.portWaits (s : State) (g : Nat) : Bool :=
  match s.torCtx (BitVec.ofNat 13 (64 * g)) with
  | some c => (s.ctx c).feedWait
  | none => false

/-- Waits that no monitor counts (R23, R276): a remote WAIT, the CAIRN wait, feed wait, and the waits that are pending only
while their context has neither a remote wait nor a feed wait. -/
def State.unmonitored (s : State) (b : BitVec 16) : Bool :=
  s.feedWaiting || (field b 13 3 == 1 && s.portWaits (field b 0 13)) || field b 13 3 == 0 &&
    (let t := b.extractLsb' 0 13
     let r := s.tor t
     r.state == 4 || r.remoteWait ||
       (match s.torCtx t with
        | some c => (r.state == 0 && (s.ctx c).feedWait) ||
            ((r.state == 2 || r.state == 3 || r.altWait) && ((s.ctx c).feedWait || s.someRemoteWait (s.ctx c)))
        | none => false))

/-- The KIND that R276 fixes for a waiting tor; any other is observed. -/
def State.hangKindOf (s : State) (b : BitVec 16) (kind : BitVec 4) : BitVec 4 :=
  let r := s.tor (b.extractLsb' 0 13)
  if field b 13 3 ≠ 0 then kind
  else if r.state = 2 then 1
  else if r.state = 3 then 2
  else if r.altWait then 5
  else kind

/-- ERR_HANG records an expired monitor (R277). -/
def State.noteHang (s : State) (block : BitVec 16) (kind : BitVec 4) (lastProgress : BitVec 32) : State :=
  { s with err := { s.err with hangBlock := block, hangKind := s.hangKindOf block kind, hangProgress := lastProgress } }

/-- A monitor that expires during containment is counted (Table 13-12). A memory channel's makes memory suspect (R281); one
of the tick that began the containment is recorded where its block ID is the lower (R277). -/
def State.secondHang (s : State) (block : BitVec 16) (kind : BitVec 4) (lastProgress : BitVec 32) : State :=
  let s := s.recordCause 0x42 0 7 0
  let s := if s.dmp.active ∧ field block 13 3 = 2 then { s with dmp := { s.dmp with suspect := true } } else s
  if s.err.containCause = 0x42 ∧ s.pwr.ticks = s.dmp.t0 ∧ block.toNat < s.err.hangBlock.toNat then s.noteHang block kind lastProgress else s

/-- HANG_TIMEOUT: the monitor of a block has expired (R277). -/
def execHangTimeout (block : BitVec 16) (kind : BitVec 4) (lastProgress : BitVec 32) (s : State) : Host.Outcome State Fault Refusal :=
  .next (
    if !s.powered || decide (2 ≤ s.boot.mode.toNat) || !blockIdOk block || s.unmonitored block || s.err.blockRunning == some block then s
    else if s.err.containState = 1 then s.secondHang block kind lastProgress
    else (s.noteHang block kind lastProgress).moduleCause 0x42 5 (field block 13 3) 0x3)

/-- REMOTE_WAIT_LONG (R276). -/
def execRemoteWaitLong (t : TorIdx) (s : State) : Host.Outcome State Fault Refusal :=
  .next (
    let r := s.tor t
    if s.live && r.state == 2 && (match r.waitToken with | some w => w.2.2 | none => false) then s.raise 0x27 t.toNat else s)

/-! ## Block resets (R303) -/

/-- Counts an access that the register file refused (R352, R356). -/
def State.accessError (s : State) (kind : BitVec 2) (offset : BitVec 26) : State :=
  let e := s.err
  { s with err := { e with accCount := satInc e.accCount, accValid := true, accKind := if e.accValid then e.accKind else kind,
                           accOffset := if e.accValid then e.accOffset else offset } }

/-- A tor is idle (Table 14-8). -/
def Tor.resetIdle (r : Tor) : Bool :=
  (r.state == 0 || r.state == 5) && r.passes.isEmpty && r.inArray.isEmpty && r.loads.isEmpty && r.drains.isEmpty

/-- A tor after a block reset: registers, rings and store cleared, repair map and fail counts kept. -/
def Tor.afterReset (r : Tor) : Tor :=
  { ({} : Tor).setDelays r.rowOut with
    rowOut := r.rowOut, source := r.source, mappedOut := r.mappedOut, stagedOut := r.stagedOut, stagedTor := r.stagedTor,
    failedNow := r.failedNow, failCount := r.failCount, cleanSteps := r.cleanSteps, torFail := r.torFail, gen := r.gen, zeroed := true,
    state := if r.mappedOut then 5 else 0 }

def State.resetTor (s : State) (t : TorIdx) : State := s.setTor t (s.tor t).afterReset

/-- Requests outstanding for a requester's unit. -/
def State.outstanding (s : State) (f : Client → Bool) : Bool :=
  s.mem.subs.any (fun e => e.2.queue.any (fun q => f q.client) || e.2.inflight.any (fun q => f q.req.client))

/-- A client of a ridge's port set. -/
def Client.ofRidge (g : Nat) : Client → Bool
  | .tor t | .torPlane t | .torScree t => t.toNat / 64 == g
  | _ => false

/-- The idle condition of Table 14-8. -/
def State.blockIdle (s : State) (b : BitVec 16) : Bool :=
  let i := field b 0 13
  match field b 13 3 with
  | 0 => (s.tor (b.extractLsb' 0 13)).resetIdle
  | 1 =>
    (List.range 64).all (fun k => (s.tor (BitVec.ofNat 13 (64 * i + k))).resetIdle)
    && !s.outstanding (Client.ofRidge i)
    && allCtx.all (fun c =>
        let x := s.ctx c
        x.tokens.all (fun e => e.1 / 1024 != i)
        && (match x.image with | some im => im.descs.all (fun d => !(Desc.movable d && Desc.home d == i)) | none => true))
  | 2 => [2 * i, 2 * i + 1].all (fun u =>
      let u := s.sub u
      u.queue.all (fun q => q.client == .scrub) && u.inflight.all (fun q => q.req.client == .scrub))
  | 3 =>
    let p := s.port i
    p.state == 0 || p.state == 4 || p.state == 5 || (p.rxSlots.isEmpty && p.retry.isEmpty && p.ctlQ.isEmpty && p.dataQ.isEmpty)
  | _ => s.host.waiting.isEmpty && allCtx.all (fun c => (s.ctx c).outHost == 0)

/-- The effect of Table 14-8. -/
def State.blockEffect (s : State) (b : BitVec 16) : State :=
  let i := field b 0 13
  match field b 13 3 with
  | 0 => s.resetTor (b.extractLsb' 0 13)
  | 1 =>
    let s := (List.range 64).foldl (fun (s : State) k => s.resetTor (BitVec.ofNat 13 (64 * i + k))) s
    let s := { s with mem := { s.mem with returnBuf := mapSet [] s.mem.returnBuf i [] } }
    allCtx.foldl (fun (s : State) c =>
      let x := s.ctx c
      match x.image with
      | none => s
      | some im =>
        let here (d : Nat) : Bool := Desc.home (nth 0 im.descs d) == i
        s.setCtx c { x with rotBuf := x.rotBuf.filter (fun e => !here e.1), live := x.live.filter (fun e => !here e.1) }) s
  | 2 => s
  | 3 =>
    let s := s.setPort i { s.port i with uncorrCw := 0, hopLimit := 0, malformed := 0, window := 0, stale := 0, dupDrops := 0,
                                         retries := 0, corrected := 0 }
    if s.boot.opts.portDark.getLsbD i then s else s.retrain i
  | _ => s.resetCxl

/-- GO of RST_BLOCK: test and start in one action. -/
def State.goBlock (s : State) (b : BitVec 16) : State :=
  let k := field b 13 3
  let res (s : State) (r : Byte) : State := { s with err := { s.err with blockResult := r } }
  if s.err.containState = 2 then res s 5
  else if s.err.blockRunning.isSome then res s 3
  else if !blockIdOk b || !(decide (k ≤ 3) || b == 0xA000) then res s 4
  else if !s.blockIdle b then res s 3
  else
    let s := s.blockEffect b
    { s with err := { s.err with blockResult := 1, blockRunning := some b } }

/-- BLOCK_RESET: BLOCK and GO written in one access (R303, R354, R356). -/
def execBlockReset (block : BitVec 16) (s : State) : Host.Outcome State Fault Refusal :=
  .next (
    if !s.barAnswers then s
    else if s.boot.mode != 1 || s.err.containState == 1 then s.accessError 2 0x1010
    else { s with err := { s.err with blockId := block } }.goBlock block)

/-- BLOCK_RESET_DONE. -/
def execBlockResetDone (s : State) : Host.Outcome State Fault Refusal :=
  .next (
    if !s.powered || s.err.blockRunning.isNone then s
    else { s with err := { s.err with blockRunning := none, blockResult := 2 } })

end Sys2Proof.Machine
end

