-- ==== Sys2Proof/Machine/Control.lean ====
section
/-! DEFINITION. The control, scalar and predicate words (R127, R139, R389). -/

namespace Sys2Proof.Machine
open Sys2Proof

/-- NOP: only the program counter moves. -/
def execNop (t : TorIdx) (s : State) : Host.Outcome State Fault Refusal := .next (s.issue t encNop (fun _ r => r))

/-- LOOP (R389): with COUNT = 0 the body runs no time. LEN = 0 is refused at load (R116). -/
def execLoop (t : TorIdx) (len : BitVec 20) (count : BitVec 32) (s : State) : Host.Outcome State Fault Refusal :=
  if len = 0 then .refused (.reservedEncoding "LOOP")
  else .next (s.issueJump t (encLoop len count) (fun _ r =>
    let p := r.pc.toNat + 1
    if count = 0 then r.goto (p + len.toNat)
    else { r with pc := r.pc + 1,
                  loops := { start := p, len := len.toNat, left := count.toNat, depth := r.stack.length } :: r.loops }))

/-- Skips the next words (R139): the range performs its SIGNALs and reports each SETTLE void; its NORM tiles are final
without a jump (R153). -/
def State.skipRange (s : State) (c : CtxIdx) (im : Sched) (t : TorIdx) (skip : Nat) : State :=
  let r := s.tor t
  match im.stream? t.toNat with
  | none => s.setTor t (r.goto (r.pc.toNat + 1 + skip))
  | some st =>
    let ws := (st.words.drop (r.pc.toNat + 1)).take skip
    let tiles := tileWords { st with words := ws }
    let x := tiles.foldl (fun (x : Context) p => if s.leadOf t = t then x.finalTile (s.tileNo im t p.1) else x) (s.ctx c)
    let s := s.setCtx c x
    let s := (skippedOps ws).foldl (fun s op => s.pushLater c t op) s
    let s := if tiles.isEmpty then s else s.dropLoads c im t
    let r := s.tor t
    (s.setTor t (r.goto (r.pc.toNat + 1 + skip))).progress c t

/-- SKIPB (R139): goes on where the branch is used, skips where it is not; a replayed word waits for its subject's
mask (R248). -/
def execSkipb (t : TorIdx) (branch : BitVec 4) (skip : BitVec 20) (s : State) : Host.Outcome State Fault Refusal :=
  .next (s.issueWide t (encSkipb branch skip) (fun c im =>
    let r := s.tor t
    let x := s.ctx c
    if x.replayWaits (im.workOfWord t.toNat r.pc.toNat) then s
    else if bit (s.branchMask x im t r.pc.toNat) branch.toNat then s.pcNext t
    else s.skipRange c im t skip.toNat))

/-- CALL (R389). -/
def execCall (t : TorIdx) (entry : BitVec 32) (s : State) : Host.Outcome State Fault Refusal :=
  .next (s.issueJump t (encCall entry) (fun _ r => r.call entry.toNat (r.pc.toNat + 1) r.rung false))

/-- RET (R115): back to the pushed word; the return of a SETTLE's entry reports again and waits again (R138). -/
def execRet (t : TorIdx) (s : State) : Host.Outcome State Fault Refusal :=
  .next (s.issueWide t encRet (fun c _ =>
    let r := s.tor t
    match r.stack with
    | [] => s
    | f :: fs =>
      let r := { r with stack := fs, loops := r.loops.filter (fun l => decide (l.depth ≤ fs.length)) }
      if f.settle then
        let s := s.setTor t { r with pc := BitVec.ofNat 32 f.addr, state := 3 }
        match r.settleTile with
        | some (tile, desc) => ((s.pushLater c t (.ceilReport tile desc)).settleLater c t).resumeSettle c desc
        | none => s
      else s.setTor t (r.goto f.addr)))

/-! ## Scalar words (R127) -/

/-- A two-source scalar word: IMM in place of S[SB] when MODE[0] = 1. -/
def State.scalar (s : State) (t : TorIdx) (op : Byte) (o : SOp) (f : Word → Word → Word) : State :=
  s.issue t (encScalar op o) (fun _ r => r.writeS o.sd.toNat (f (r.readS t o.sa.toNat) (if o.useImm then o.imm else r.readS t o.sb.toNat)))

def execSmovi (t : TorIdx) (sd : BitVec 4) (imm : BitVec 64) (s : State) : Host.Outcome State Fault Refusal :=
  .next (s.issue t (encSmovi sd imm) (fun _ r => r.writeS sd.toNat imm))
def execSadd (t : TorIdx) (o : SOp) (s : State) : Host.Outcome State Fault Refusal := .next (s.scalar t 0x41 o (· + ·))
def execSsub (t : TorIdx) (o : SOp) (s : State) : Host.Outcome State Fault Refusal := .next (s.scalar t 0x42 o (· - ·))
def execSmul (t : TorIdx) (o : SOp) (s : State) : Host.Outcome State Fault Refusal := .next (s.scalar t 0x43 o (· * ·))
def execSand (t : TorIdx) (o : SOp) (s : State) : Host.Outcome State Fault Refusal := .next (s.scalar t 0x44 o (· &&& ·))
def execSor (t : TorIdx) (o : SOp) (s : State) : Host.Outcome State Fault Refusal := .next (s.scalar t 0x45 o (· ||| ·))
def execSxor (t : TorIdx) (o : SOp) (s : State) : Host.Outcome State Fault Refusal := .next (s.scalar t 0x46 o (· ^^^ ·))
/-- Shifts use the low 6 bits of their count. -/
def execSshl (t : TorIdx) (o : SOp) (s : State) : Host.Outcome State Fault Refusal :=
  .next (s.scalar t 0x47 o (fun a b => a <<< (b.toNat % 64)))
def execSasr (t : TorIdx) (o : SOp) (s : State) : Host.Outcome State Fault Refusal :=
  .next (s.scalar t 0x48 o (fun a b => a.sshiftRight (b.toNat % 64)))

/-! ## Predicate words (R127); P0 as a destination is refused at load (R119) -/

/-- PMOV: P[SD[2:0]] := S[SA][31:0]. -/
def execPmov (t : TorIdx) (sd sa : BitVec 4) (s : State) : Host.Outcome State Fault Refusal :=
  if sd.toNat % 8 = 0 then .refused (.reservedEncoding "PMOV")
  else .next (s.issue t (encPmov sd sa) (fun _ r => r.writeP (sd.toNat % 8) ((r.readS t sa.toNat).setWidth 32)))

def State.predicate (s : State) (t : TorIdx) (op : Byte) (o : POp) (f : BitVec 32 → BitVec 32 → BitVec 32) : State :=
  s.issue t (encPred op o) (fun _ r => r.writeP o.pd.toNat (f (r.readP t o.pa.toNat) (r.readP t o.pb.toNat)))

def execPand (t : TorIdx) (o : POp) (s : State) : Host.Outcome State Fault Refusal :=
  if o.pd = 0 then .refused (.reservedEncoding "PAND") else .next (s.predicate t 0x4A o (· &&& ·))
def execPor (t : TorIdx) (o : POp) (s : State) : Host.Outcome State Fault Refusal :=
  if o.pd = 0 then .refused (.reservedEncoding "POR") else .next (s.predicate t 0x4B o (· ||| ·))
/-- PNOT inverts PA. -/
def execPnot (t : TorIdx) (o : POp) (s : State) : Host.Outcome State Fault Refusal :=
  if o.pd = 0 then .refused (.reservedEncoding "PNOT") else .next (s.predicate t 0x4C o (fun a _ => ~~~a))

end Sys2Proof.Machine
end

