-- ==== Sys2Proof/Machine/Regs.lean ====
section
/-! DEFINITION. What every register of BAR0 reads (R351, R358, Tables 02-13 and 17-2). -/

namespace Sys2Proof.Machine
open Sys2Proof

/-- The context that a module-wide register shows: the lowest-numbered running or held one, else the lowest with an image
(DESIGN CHOICE, notes/assumptions/15.md). -/
def State.shown (s : State) : Context :=
  match allCtx.find? (fun c => (s.ctx c).state == 3 || (s.ctx c).state == 4) with
  | some c => s.ctx c
  | none => match allCtx.find? (fun c => (s.ctx c).image.isSome) with
    | some c => s.ctx c
    | none => {}

def bits1 (b : Bool) (lo : Nat) : Word := put (boolNat b) lo 1

/-! ## Global, reset, option bytes, images -/

def State.accessErr (s : State) : Word :=
  bits1 s.err.accValid 63 ||| put s.err.accCount.toNat 32 16 ||| put s.err.accKind.toNat 30 2 ||| put s.err.accOffset.toNat 0 26

def State.rstContain (s : State) : Word :=
  put s.err.containCause.toNat 32 8 ||| put s.boot.opts.containWindow.toNat 16 11 ||| put s.boot.opts.containLimit.toNat 12 4
  ||| put s.err.containCount.toNat 8 4 ||| put s.err.containState.toNat 0 2

/-- LINKS shows step 7 at work. -/
def State.rstStatus (s : State) : Word :=
  let b := s.boot
  put b.failDetail.toNat 40 8 ||| put b.failCause.toNat 32 8 ||| put b.startCount.toNat 24 4 ||| put b.failedStep.toNat 16 4
  ||| put b.step.toNat 8 4 ||| bits1 (b.links && b.mode == 0 && decide (s.links.state.toNat < 2)) 5 ||| bits1 b.cxlUp 4
  ||| put b.source.toNat 2 2 ||| put b.mode.toNat 0 2

def State.rstBlock (s : State) : Word := put s.err.blockResult.toNat 32 8 ||| put s.err.blockId.toNat 0 16

def State.optStatus (s : State) : Word :=
  put s.boot.bCause.toNat 40 8 ||| put s.boot.aCause.toNat 32 8 ||| put s.boot.optSource.toNat 2 2 ||| bits1 s.boot.optDefaulted 0

def State.imgStatus (s : State) : Word :=
  let i := s.img
  put i.failedSection.toNat 48 16 ||| put i.cause.toNat 32 8 ||| put i.lastOutcome.toNat 16 4
  ||| put (match i.stage with | .empty => 0 | .checking => 1 | .pending => 2) 8 4
  ||| put (if i.stage = .pending then i.pending.effCtx.toNat else 0) 4 3 ||| put i.activeSource.toNat 2 2 ||| bits1 i.defaulted 0

def digestWord (d : Digest) (n : Nat) : Word := d.extractLsb' (64 * n) 64

/-! ## The shape table (Table 02-13) -/

def State.shapeWord (s : State) (o : Nat) : Word :=
  if o = 0x2800 then s.img.shapeGen
  else if o = 0x2808 then 8
  else if 0x2810 ≤ o ∧ o < 0x2830 then BitVec.ofNat 64 (s.memGib ((o - 0x2810) / 8))
  else if o = 0x2830 then s.img.shapeLinks
  else if 0x2900 ≤ o ∧ o < 0x2A00 then
    packLanes 64 16 ((List.range 4).map (fun i => s.ridgeEntry ((o - 0x2900) / 2 + i)))
  else 0

def State.torBytes (s : State) (o : Nat) : Word := packLanes 64 8 ((List.range 8).map (fun i => s.torEntryByte (o - 0x20000 + i)))

/-! ## Tors -/

def Tor.repairReg (r : Tor) : Word :=
  put r.stagedOut.toNat 17 3 ||| bits1 r.stagedTor 16 ||| put r.source.toNat 14 2 ||| bits1 r.mappedOut 13 ||| bits1 (r.rowOut != 7) 12
  ||| put (physRow r.rowOut 3) 9 3 ||| put (physRow r.rowOut 2) 6 3 ||| put (physRow r.rowOut 1) 3 3 ||| put (physRow r.rowOut 0) 0 3

def Tor.rowFailReg (r : Tor) : Word := put r.corrected.toNat 32 8 ||| put r.torFail.toNat 24 4 ||| put r.failCount.toNat 0 20
def Tor.statReg (r : Tor) : Word := put r.freezeWaves.toNat 32 32 ||| put r.outlierProducts.toNat 0 32

/-- AHEAD: passes behind the one in the array, or the next tile word, whose operands the loader still fetches. -/
def Tor.ahead (r : Tor) : Nat :=
  ((r.passes.map (·.uid) ++ [r.tileSeq]).filter (fun u => r.loads.any (fun l => l.ring && l.owner == u))).length

def Tor.progReg (r : Tor) : Word :=
  put r.wordAt 32 32 ||| put r.stack.length 24 4 ||| put r.queued 20 4 ||| put (min 8 r.ahead) 16 4 ||| put r.lastFault.toNat 8 8
  ||| put (if r.mappedOut then 5 else r.state.toNat) 0 3

def State.torReg (s : State) (o : Nat) : Word :=
  let r := s.tor (BitVec.ofNat 13 ((o - 0x1000000) / 0x40))
  match o % 0x40 with
  | 0 => r.repairReg
  | 8 => r.rowFailReg
  | 0x10 => r.statReg
  | 0x18 => r.progReg
  | _ => 0

/-! ## Storms, memory -/

def State.flbStatus (s : State) : Word :=
  let x := s.shown
  put x.stormRun.toNat 40 8 ||| put (x.entryPhase.getD 0xFF) 32 8 ||| put (if x.verdicts.isEmpty then 0xFF else x.verdicts.length - 1) 24 8
  ||| bits1 (allCtx.any (fun c => (s.ctx c).state == 4 && bit (s.ctx c).hold 1)) 3 ||| bits1 s.prefetch 2
  ||| bits1 (s.tors.any (fun t => t.2.altWait)) 1 ||| bits1 (x.verdicts.getLast? == some true) 0

def State.memStatus (s : State) : Word :=
  put s.mem.poisonReads.toNat 32 16 ||| put s.mem.ueSource.toNat 4 4 ||| bits1 s.mem.multiUe 3 ||| bits1 s.mem.ceHigh 2
  ||| bits1 s.mem.initDone 1 ||| bits1 s.mem.contained 0

def State.memUeAddr (s : State) : Word := put s.mem.ueSynd.toNat 48 16 ||| put s.mem.ueAddr.toNat 5 36

/-- The location a subchannel's scrubber has reached: the last one while its read is asked for or out. -/
def Subchannel.scrubReached (q : Subchannel) : Nat :=
  if q.scrubLoc = 0 ∧ (q.queue.any (fun r => r.client == .scrub) || q.inflight.any (fun f => f.req.client == .scrub)) then 201326591
  else q.scrubLoc

/-- LOC: the least location among the subchannels that are in the current pass. -/
def State.scrubLocNow (s : State) : Nat :=
  match (List.range 256).filterMap (fun i => let q := s.sub i; if q.scrubPass ≤ s.mem.scrubPasses then some q.scrubReached else none) with
  | [] => 0
  | l :: ls => ls.foldl min l

def State.subReg (s : State) (o : Nat) : Word :=
  let q := s.sub ((o - 0x5000) / 0x10)
  if o % 0x10 = 0 then put q.lastCeLoc.toNat 32 28 ||| put q.corrected.toNat 0 32 else put q.dynamic.toNat 32 32 ||| put q.scheduled.toNat 0 32

/-! ## Links, NI, schedule engine -/

def State.portReg (s : State) (o : Nat) : Word :=
  let p := s.port ((o - 0x7000) / 0x20)
  match o % 0x20 with
  | 0 => put p.rtt.toNat 48 16 ||| put p.outcome.toNat 32 4 ||| put p.neighAddr.toNat 14 15 ||| put p.neighPort.toNat 7 7 ||| put p.state.toNat 0 4
  | 8 => put p.uncorrCw.toNat 56 8 ||| put p.hopLimit.toNat 48 8 ||| put p.malformed.toNat 40 8 ||| put p.window.toNat 32 8
    ||| put p.stale.toNat 24 8 ||| put p.dupDrops.toNat 16 8 ||| put p.retries.toNat 0 16
  | 0x10 => p.corrected
  | 0x18 => p.digest.setWidth 64
  | _ => 0

/-- OPEN_NODES: node entries at work and not complete. -/
def State.openNodes (s : State) : Nat :=
  (allCtx.map (fun c => ((s.ctx c).nodes.filter (fun e => !e.2.complete)).length)).foldl (· + ·) 0

def State.niStatus (s : State) : Word :=
  put s.ni.failedChunks.toNat 48 16 ||| put s.openNodes 32 16 ||| put s.ni.attempt.toNat 2 2 ||| bits1 s.ni.countOverflow 1 ||| bits1 s.ni.accWait 0

def State.niCounts (s : State) : Word :=
  put s.ni.badSource.toNat 48 16 ||| put s.ni.badAttempt.toNat 32 16 ||| put s.ni.late.toNat 16 16 ||| put s.ni.blockDup.toNat 0 16

/-- BUSY: some context's update engine has work. -/
def State.updBusy (s : State) : Bool :=
  allCtx.any (fun c => match (s.ctx c).image with | some im => (s.ctx c).inStep && (s.ctx c).workLeft im | none => false)

def State.updStatus (s : State) : Word := put s.ni.blocksUpdated.toNat 32 32 ||| bits1 s.ni.nonfinite 1 ||| bits1 s.updBusy 0

def State.schReg (s : State) (o : Nat) : Word :=
  let q : SchedReg := mapGet {} (s.ctx s.ni.schedCtx).scheds ((o - 0x9100) / 0x10)
  if o % 0x10 = 0 then put q.cyc 48 16 ||| put q.eta.toNat 0 32 else put q.len 32 32 ||| put q.q 0 32

/-! ## The cairn, errors, the dump -/

def State.crnStatus (s : State) : Word :=
  let x := s.shown
  put (if x.planIdx = 0 then 0xFFFF else x.planIdx - 1) 48 16 ||| put x.excluded.length 40 8 ||| put s.crn.skipCause.toNat 36 4
  ||| put s.crn.lastOutcome.toNat 32 4 ||| put x.attempt.toNat 6 2 ||| bits1 (x.inStep && x.belays.any (fun b => b.role == 2)) 5
  ||| bits1 s.crn.watch 4 ||| bits1 s.crn.timeout 3 ||| put x.phase.toNat 0 3

def State.crnMembership (s : State) : Word :=
  put s.crn.epoch.toNat 32 32 ||| put s.crn.ownState.toNat 22 2 ||| put s.crn.ownSlot.toNat 16 6 ||| put s.crn.ownPos.toNat 0 14

def State.crnCatchup (s : State) : Word :=
  let k := s.crn
  let cs := allCtx.filter (fun c => (nth {} s.img.active.contexts c.toNat).valid)
  let on := k.catchState != 0
  put k.catchSubject.toNat 34 14 ||| put k.catchSteps.toNat 16 16 ||| put k.catchBelay.toNat 6 2
  ||| bits1 (on && cs.all (fun c => (s.ctx c).copyDone)) 5 ||| bits1 (on && cs.all (fun c => (s.ctx c).image.isSome)) 4
  ||| put k.catchState.toNat 0 2

def State.errCause (s : State) : Word :=
  let e := s.err
  bits1 e.causeValid 63 ||| put e.secondary.toNat 48 8 ||| put e.ordinal.toNat 44 4 ||| put e.row.toNat 40 3 ||| put e.tor.toNat 16 13
  ||| put e.cause.toNat 0 8

def State.errCounts (s : State) : Word := put s.err.tileFailures.toNat 32 32 ||| put s.err.niFaults.toNat 16 16 ||| put s.err.skips.toNat 0 16
def State.errHang (s : State) : Word := put s.err.hangBlock.toNat 48 16 ||| put s.err.hangKind.toNat 36 4 ||| put s.err.hangProgress.toNat 0 32

def State.dmpStatus (s : State) : Word :=
  let d := s.dmp
  put d.noAnswer.toNat 48 16 ||| put d.answered.toNat 32 16 ||| bits1 d.deadline 4 ||| bits1 d.fullValid 3 ||| bits1 d.compactValid 2
  ||| bits1 d.suspect 1 ||| bits1 d.active 0

/-! ## Contexts, power, security, management -/

def State.ctxReg (s : State) (o : Nat) : Word :=
  let c : CtxIdx := BitVec.ofNat 3 ((o - 0xD000) / 0x100)
  let x := s.ctx c
  match o % 0x100 with
  | 0 => put x.epoch.toNat 56 8 ||| put x.retired.toNat 48 8 ||| put x.lastCause.toNat 40 8 ||| put x.hold.toNat 8 4 ||| bits1 x.cplFull 5
    ||| bits1 x.feedWait 4 ||| put x.state.toNat 0 4
  | 8 => put x.abortTag.toNat 32 32 ||| bits1 x.cplIrq 3 ||| bits1 x.abortNow 2
  | 0x10 => x.abortStep
  | 0x18 => put x.ringBase.toNat 12 52 ||| put x.ringOrder.toNat 0 5
  | 0x20 => put x.cplBase.toNat 12 52 ||| put x.cplOrder.toNat 0 5
  | 0x28 => put x.winBase.toNat 12 52
  | 0x30 => put x.winSize.toNat 12 52
  | 0x38 => x.feedPos
  | 0x40 => put (s.outLink c) 32 16 ||| put (s.outMem c) 16 16 ||| put x.outHost 0 16
  | 0x48 => x.endStep
  | _ => 0

def State.pwrCap (s : State) : Word := put s.effectiveCap 16 16 ||| put s.pwr.capW.toNat 0 16

def State.pwrStatus (s : State) : Word :=
  let p := s.pwr
  bits1 p.capUnmet 42 ||| bits1 p.belowRange 41 ||| bits1 p.limiting 40 ||| put p.tjMax.toNat 32 8 ||| put p.coreMv.toNat 16 10
    ||| put p.inputW.toNat 0 16

/-- One bit per key slot. -/
def slotBits (ks : List KeySlot) (f : KeySlot → Bool) : Nat := (ks.zipIdx.map (fun k => if f k.1 then 2 ^ k.2 else 0)).foldl (· + ·) 0

def State.secStatus (s : State) : Word :=
  put s.fuses.svn.toNat 48 8 ||| put s.boot.runSvn.toNat 40 8 ||| put (slotBits s.fuses.keys (·.revoked)) 28 4
  ||| put (slotBits s.fuses.keys (·.enrolled)) 24 4 ||| put s.boot.fwSource.toNat 6 2 ||| bits1 s.sec.debugOpen 1 ||| bits1 s.fuses.debugOpened 0

def State.secBlocked (s : State) : Word :=
  put s.mgt.blockedFuse.toNat 48 16 ||| put s.mgt.blockedPin.toNat 32 16 ||| put s.mgt.blockedHost.toNat 16 16 ||| put s.mgt.blockedLink.toNat 0 16

def State.mgtEvents (s : State) : Word :=
  put s.mgt.seq.toNat 32 32 ||| bits1 s.mgt.lost 17 ||| bits1 s.mgt.receiver.isSome 16 ||| put s.mgt.queue.length 0 16

def State.mgtHostEvent (s : State) : Word :=
  put s.mgt.hostSeq.toNat 32 32 ||| put s.mgt.hostCls.toNat 24 2 ||| bits1 s.mgt.hostNew 16 ||| put s.mgt.hostCode.toNat 0 16

def State.mgtI3c (s : State) : Word := bits1 s.mgt.ready 16 ||| put s.mgt.directAddr.toNat 8 7 ||| put s.mgt.mctpAddr.toNat 0 7

/-! ## The map -/

/-- The registers of the first 64 KiB that stand alone. -/
def State.singleReg (s : State) (o : Nat) : Option Word :=
  match o with
  | 0x0000 => some 0x0000004000014B04
  | 0x0008 => some 0x0000001111111111
  | 0x0010 => some s.boot.fwRelease
  | 0x0018 => some (if s.boot.step = 0 then 0 else s.fuses.serial)
  | 0x0040 => some s.pwr.ticks
  | 0x0048 => some s.accessErr
  | 0x1000 => some s.rstContain
  | 0x1008 => some s.rstStatus
  | 0x1010 => some s.rstBlock
  | 0x1800 => some s.optStatus
  | 0x1808 => some s.boot.opts.generation
  | 0x2008 => some (put s.img.stageAddr.toNat 5 36)
  | 0x2010 => some (put s.img.stageLen.toNat 5 20)
  | 0x2018 => some s.imgStatus
  | 0x2020 => some (if s.img.stage = .pending ∧ s.img.pending.effStep ≠ 0 then s.img.pending.effStep - 1 else 0)
  | 0x2028 => some s.img.active.serial
  | 0x3400 => some s.flbStatus
  | 0x3408 => some s.flbCounts
  | 0x3410 => some (put s.shown.counts.planeFetch 32 32 ||| put s.planeFetchTotal.toNat 0 32)
  | 0x4000 => some s.memStatus
  | 0x4008 => some s.memUeAddr
  | 0x4010 => some (put s.mem.interval.toNat 0 16)
  | 0x4018 => some (put s.mem.scrubPasses 32 32 ||| put s.scrubLocNow 0 28)
  | 0x6000 => some s.lnkStatus
  | 0x6008 => some (put s.links.control.toNat 8 7)
  | 0x8000 => some s.niStatus
  | 0x8008 => some s.niCounts
  | 0x8800 => some s.updStatus
  | 0x8808 => some (put s.ni.normSq.toNat 32 32 ||| put s.ni.factor.toNat 0 32)
  | 0x9000 => some s.ni.step
  | 0xA000 => some s.crnStatus
  | 0xA008 => some s.crnMembership
  | 0xA010 => some (put s.crn.reportTimeout.toNat 32 32 ||| put s.crn.hbTimeout.toNat 0 32)
  | 0xA018 => some s.crn.recordSeq
  | 0xA020 => some s.crnCatchup
  | 0xB000 => some s.errCause
  | 0xB008 => some s.errCounts
  | 0xB010 => some s.errHang
  | 0xC000 => some s.dmpStatus
  | 0xC008 => some (bits1 s.dmp.source 8 ||| put s.dmp.window.toNat 0 3)
  | 0xF000 => some s.pwrCap
  | 0xF008 => some s.pwrStatus
  | 0xF400 => some s.secStatus
  | 0xF408 => some s.secBlocked
  | 0xF800 => some s.mgtEvents
  | 0xF808 => some s.mgtHostEvent
  | 0xF810 => some s.mgtI3c
  | _ => none

/-- The 64 bits at an 8-byte offset of the register region; a reserved offset reads 0 (R7). -/
def State.regWord (s : State) (o : Nat) : Word :=
  match s.singleReg o with
  | some v => v
  | none =>
    if 0x2040 ≤ o ∧ o < 0x2080 then digestWord s.img.active.structDigest ((o - 0x2040) / 8)
    else if 0x2080 ≤ o ∧ o < 0x20C0 then digestWord s.img.active.policyDigest ((o - 0x2080) / 8)
    else if 0x2800 ≤ o ∧ o < 0x3000 then s.shapeWord o
    else if 0x5000 ≤ o ∧ o < 0x6000 then s.subReg o
    else if 0x7000 ≤ o ∧ o < 0x7C00 then s.portReg o
    else if 0x9100 ≤ o ∧ o < 0x9200 then s.schReg o
    else if 0xB100 ≤ o ∧ o < 0xB138 then (nth 0 s.err.deadlines ((o - 0xB100) / 8)).setWidth 64
    else if 0xD000 ≤ o ∧ o < 0xD800 then s.ctxReg o
    else if 0x20000 ≤ o ∧ o < 0x22000 then s.torBytes o
    else if 0x1000000 ≤ o ∧ o < 0x1080000 then s.torReg o
    else 0

/-- Bytes of the register region. -/
def State.regBytes (s : State) (o n : Nat) : List Byte :=
  (List.range n).map (fun i => let a := o + i; (s.regWord (8 * (a / 8))).extractLsb' (8 * (a % 8)) 8)

end Sys2Proof.Machine
end

