-- ==== Sys2Proof/Machine/Dump.lean ====
section
/-! DEFINITION. The dump engine and the moraine (R280 to R283, Tables 13-9 to 13-11). -/

namespace Sys2Proof.Machine
open Sys2Proof

/-- Count and record bytes of each block class, class 0 first (Table 13-10). -/
def dumpClasses : List (Nat × Nat) := [(8192, 8192), (128, 65536), (128, 4096), (96, 16384), (4, 65536), (5, 65536), (5, 65536)]

def dumpBlocks : Nat := 8558
/-- Where the records begin in both copies. -/
def recordsStart : Nat := 0x41000
def fullLength : Nat := 0x41000 + 78512128
def compactLength : Nat := 1165312

/-- The bytes of a record that the compact copy keeps. -/
def compactBytes (cls : Nat) : Nat := if cls = 0 then 64 else 1024

/-- A block of the dump: its ID, record size, and the offsets of its record in the full and the compact copy. -/
structure DumpBlock where
  id : Nat
  size : Nat
  full : Nat
  compact : Nat
  deriving DecidableEq, Repr

/-- The i-th block in ascending block ID. -/
def dumpBlockFrom : List (Nat × Nat) → Nat → Nat → Nat → Nat → DumpBlock
  | [], _, _, full, compact => { id := 0xFFFF, size := 0, full := full, compact := compact }
  | (n, sz) :: rest, cls, i, full, compact =>
    if i < n then { id := 8192 * cls + i, size := sz, full := full + i * sz, compact := compact + i * compactBytes cls }
    else dumpBlockFrom rest (cls + 1) (i - n) (full + n * sz) (compact + n * compactBytes cls)

def dumpBlockAt (i : Nat) : DumpBlock := dumpBlockFrom dumpClasses 0 i recordsStart recordsStart

/-- A directory entry (Table 13-11): 0 ANSWERED, 1 NO_ANSWER, 2 SKIPPED. -/
def dirEntry (offset len status id : Nat) : BitVec 128 :=
  BitVec.ofNat 128 (offset * 2 ^ 64 + len * 2 ^ 32 + status * 2 ^ 16 + id)

/-! ## Bytes of module memory -/

/-- A list in pieces of 32. -/
def chunks32 : Nat → List Byte → List (List Byte)
  | 0, _ => []
  | n + 1, bs => bs.take 32 :: chunks32 n (bs.drop 32)

/-- The cells of whole bursts that hold some bytes, from burst b on: E = FLAGS = 0. -/
def burstCells (b : Nat) (bs : List Byte) : Memory :=
  (chunks32 ((bs.length + 31) / 32) bs).zipIdx.flatMap (fun c =>
    let raw := leBytes 36 (encodeBurst (mkBurst 0 0 (ofLe 256 c.1)))
    (raw.zipIdx.map (fun r => (36 * (b + c.2) + r.2, r.1))).filter (fun e => decide (e.2 ≠ 0)))

/-- Reads of a burst range that are out become stale (R169). -/
def State.staleRange (s : State) (b n : Nat) : State :=
  let hit (f : InFlight) : Bool := decide (b ≤ f.req.addr.toNat) && decide (f.req.addr.toNat < b + n)
  { s with mem := { s.mem with subs := s.mem.subs.map (fun p =>
      (p.1, { p.2 with inflight := p.2.inflight.map (fun f => if hit f then { f with stale := true } else f) })) } }

/-- Writes whole bursts, in one piece (R281): dynamic traffic (Table 09-4). A burst for which requests wait is written
behind them (R164). -/
def State.writeDump (s : State) (a : Nat) (bs : List Byte) : State :=
  let b := a / 32
  let n := (bs.length + 31) / 32
  let hi := 36 * (b + n)
  let busy := ((s.mem.subs.flatMap (fun p => p.2.queue.map (fun r => r.addr.toNat))).filter (fun x =>
    decide (b ≤ x) && decide (x < b + n))).eraseDups
  let old := s.cells
  let s := s.setCells (old.filter (fun e => decide (e.1 < 36 * b)) ++ burstCells b bs ++ old.filter (fun e => decide (hi ≤ e.1)))
  let s := busy.foldl (fun s x => (s.setCells (memSetBytes s.cells (36 * x) (memBytes old (36 * x) 36))).queueRequest
    { client := .dump, addr := BitVec.ofNat 36 x, write := some (mkBurst 0 0 (ofLe 256 ((bs.drop (32 * (x - b))).take 32))) }) s
  ((List.range n).foldl (fun s i => if busy.contains (b + i) then s else s.countServed (b + i) true) s).staleRange b n

/-- The payload byte at a module address. -/
def State.payloadByte (s : State) (a : Nat) : Byte := memByte s.cells (36 * (a / 32) + a % 32)

/-! ## The header (Table 13-9) -/

def State.moraineHeader (s : State) (full : Bool) (digest : Digest) : List Byte :=
  let d := s.dmp
  let w (n v : Nat) : List Byte := le n v
  let flags := boolNat d.suspect + 2 * boolNat full + 4 * boolNat d.deadline + 8 * boolNat s.pwr.refclkLost
  let pos := if s.crn.ownState.toNat ≤ 1 then s.crn.ownPos.toNat else 0xFFFF
  pad 0xFC0 (
    w 4 0x4B474D52 ++ w 2 1 ++ w 2 flags ++ pad 8 [s.err.containCause] ++ leBytes 8 d.t0 ++ leBytes 8 s.pwr.ticks ++ leBytes 8 s.runStep
    ++ leBytes 4 s.crn.epoch ++ w 2 pos ++ w 1 s.crn.ownSlot.toNat ++ w 1 s.ni.attempt.toNat ++ leBytes 2 s.err.hangBlock
    ++ leBytes 2 d.noAnswer ++ pad 4 (w 2 dumpBlocks) ++ leBytes 8 s.boot.fwRelease ++ leBytes 8 s.errCause ++ leBytes 8 s.memStatus
    ++ leBytes 8 s.memUeAddr ++ List.replicate 0x28 0 ++ leBytes 64 s.img.active.structDigest ++ leBytes 64 s.img.active.policyDigest)
  ++ leBytes 64 digest

/-- The compact copy's directory: the same entries with its own offsets. -/
def compactDir (dir : List (BitVec 128)) : List Byte :=
  pad 0x40000 (dir.zipIdx.flatMap (fun e => leBytes 8 (e.1.setWidth 64) ++ le 8 (dumpBlockAt e.2).compact))

/-! ## The engine -/

/-- Memory has become suspect (R281). -/
def State.dumpSuspect (s : State) : State :=
  { s with dmp := { s.dmp with suspect := s.dmp.suspect || s.mem.contained || !s.mem.initDone } }

/-- The dump ends: both headers, MORAINE_READY, FAULT_L (Table 13-8, order 6). -/
def State.dumpFinish (s : State) : State :=
  let s := s.dumpSuspect
  let tail := compactDir s.dmp.dir ++ pad (compactLength - recordsStart) s.dmp.compact
  let head := s.moraineHeader false 0
  let h := s.moraineHeader false (Config.shake256 (head.take 0xFC0 ++ tail))
  let s := { s with dmp := { s.dmp with active := false, compactValid := true, header := h } }
  let s := if s.dmp.suspect then s
    else
      let base := s.img.active.moraineBase
      let s := s.writeDump (base + 0x1000) (pad 0x40000 (s.dmp.dir.flatMap (leBytes 16)))
      let body := (s.cells.filter (fun e =>
          decide (36 * (base / 32) ≤ e.1) && decide (e.1 < 36 * ((base + fullLength) / 32)) && decide (e.1 % 36 < 32))).map
        (fun e => (32 * (e.1 / 36) + e.1 % 36 - base, e.2))
      let hd := ((s.moraineHeader true 0).take 0xFC0).zipIdx.map (fun e => (e.2, e.1))
      let s := s.writeDump base (s.moraineHeader true (Config.shakeImage fullLength (hd ++ body)))
      { s with dmp := { s.dmp with fullValid := true } }
  (s.raise 0x4 0).driveFault

/-- Records the outcome of the block in turn. -/
def State.dumpNote (s : State) (status len : Nat) : State :=
  let b := dumpBlockAt s.dmp.asked
  let d := s.dmp
  let s := { s with dmp := { d with
    asked := d.asked + 1, dir := d.dir ++ [dirEntry b.full len status b.id],
    answered := if status = 0 then satInc d.answered else d.answered, noAnswer := if status = 1 then satInc d.noAnswer else d.noAnswer } }
  if s.dmp.asked = dumpBlocks then s.dumpFinish else s

/-- The hung block is never asked (R280). -/
def State.dumpPassHung (s : State) : State :=
  if s.dmp.active && s.err.hangBlock != 0xFFFF && s.err.containCause == 0x42
      && (dumpBlockAt s.dmp.asked).id == s.err.hangBlock.toNat then s.dumpNote 1 0
  else s

/-- DUMP_BLOCK_ANSWER: the block in turn delivered its whole record in time. -/
def execDumpBlockAnswer (record : List Byte) (s : State) : Host.Outcome State Fault Refusal :=
  .next (
    let s := s.dumpPassHung
    let b := dumpBlockAt s.dmp.asked
    if !s.dmp.active || record.length != b.size then s
    else
      let s := s.dumpSuspect
      let cb := compactBytes (b.id / 8192)
      let s := { s with dmp := { s.dmp with compact := pad (b.compact - recordsStart) s.dmp.compact ++ record.take cb } }
      let s := if s.dmp.suspect then s else s.writeDump (s.img.active.moraineBase + b.full) record
      (s.dumpNote 0 b.size).dumpPassHung)

/-- DUMP_BLOCK_LIMIT: the block in turn missed its 5,000 ticks. -/
def execDumpBlockLimit (s : State) : Host.Outcome State Fault Refusal :=
  .next (
    let s := s.dumpPassHung
    if s.dmp.active then (s.dumpNote 1 0).dumpPassHung else s)

/-- DUMP_DEADLINE: t0 + 50,000,000 is reached; the blocks not yet asked are SKIPPED. -/
def execDumpDeadline (s : State) : Host.Outcome State Fault Refusal :=
  .next (
    let s := s.dumpPassHung
    if !s.dmp.active then s
    else
      let d := s.dmp
      let rest := (List.range (dumpBlocks - d.asked)).map (fun i => let b := dumpBlockAt (d.asked + i); dirEntry b.full 0 2 b.id)
      ({ s with dmp := { d with deadline := true, asked := dumpBlocks, dir := d.dir ++ rest } }).dumpFinish)

/-- DUMP_WRITE_TIMEOUT: a write was not granted within 5,000 ticks; memory is suspect from now on (R281). -/
def execDumpWriteTimeout (s : State) : Host.Outcome State Fault Refusal :=
  .next (if s.dmp.active && !s.dmp.suspect then { s with dmp := { s.dmp with suspect := true } } else s)

/-! ## Reading a copy (R283) -/

/-- Bytes of a copy: what has been written while the dump runs (Table 17-3); 0 in an invalid copy and beyond its end. -/
def State.moraineBytes (s : State) (full : Bool) (o n : Nat) : List Byte :=
  if full then
    (List.range n).map (fun i => if (s.dmp.active && !s.dmp.suspect || s.dmp.fullValid) && decide (o + i < fullLength) then
      s.payloadByte (s.img.active.moraineBase + o + i) else 0)
  else if s.dmp.active || s.dmp.compactValid then
    let body := pad 0x1000 s.dmp.header ++ compactDir s.dmp.dir ++ s.dmp.compact
    let got := (body.drop o).take n
    got ++ List.replicate (n - got.length) 0
  else List.replicate n 0

end Sys2Proof.Machine
end

