-- ==== Sys2Proof/Machine/RegRows.lean ====
section
/-! DEFINITION. Reads and writes of BAR0 by the host and by the firmware (R351 to R357, R359). -/

namespace Sys2Proof.Machine
open Sys2Proof

/-! ## Regions -/

/-- The moraine aperture. -/
def inAperture (o : Nat) : Bool := decide (0x3000000 ≤ o)

/-- The CXL component registers and the MSI-X structures, whose layouts CXL 3.1 and PCIe give (R352): the table's 9 entries
and the pending-bit array; what lies between and behind them is reserved (R7, Table 17-1). -/
def inStandard (o : Nat) : Bool :=
  (decide (0x10000 ≤ o) && decide (o < 0x20000)) || (decide (0xE000 ≤ o) && decide (o < 0xE090)) || (decide (0xE800 ≤ o) && decide (o < 0xE808))

/-- The CTX_ registers: only host requests write them (R355). -/
def inCtx (o : Nat) : Bool := decide (0xD000 ≤ o) && decide (o < 0xE000)

/-! ## Writes (R354) -/

/-- The bits of a register that a written 1 clears. -/
def w1cMask (o : Nat) : Word :=
  match o with
  | 0x0048 => put 1 63 1
  | 0x4000 => put 1 2 1
  | 0x8000 => put 1 1 1
  | 0xB000 => put 1 63 1
  | 0xF800 => put 1 17 1
  | 0xF808 => put 1 16 1
  | _ => 0

/-- What a write of 1 clears where events hit W1C bits in the same cycle (R9, Table 17-3): those bits stay set. The event
itself is a command of its own that stands before the write. -/
def clearing (v coincident : Word) : Word := v &&& ~~~coincident

/-- Clears a register's W1C fields where the written bit is 1. -/
def State.writeW1c (s : State) (o : Nat) (v : Word) : State :=
  if v &&& w1cMask o = 0 then s
  else match o with
    | 0x0048 => { s with err := { s.err with accValid := false } }
    | 0x4000 => { s with mem := { s.mem with ceHigh := false } }
    | 0x8000 => { s with ni := { s.ni with countOverflow := false } }
    | 0xB000 => { s with err := { s.err with causeValid := false } }
    | 0xF800 => { s with mgt := { s.mgt with lost := false } }
    | 0xF808 => { s with mgt := { s.mgt with hostNew := false } }
    | _ => s

/-- A value held in a range: a write outside stores the nearer limit. -/
def heldIn (v : Word) (at' len lo hi : Nat) (w : Nat) : BitVec w := BitVec.ofNat w (clampNat (field v at' len) lo hi)

/-- The held range of ERR_DEADLINE_k (Table 13-7). -/
def deadlineRange (k : Nat) : Nat × Nat :=
  if k = 2 then (10000, 10000000) else if k = 6 then (10000000, 1000000000) else (100000, 100000000)

/-- A write of DMP_WINDOW. -/
def State.writeWindow (s : State) (v : Word) : State := { s with dmp := { s.dmp with source := bit v 8, window := v.extractLsb' 0 3 } }

/-- A write of a CTX_ register: RW fields, then ABORT, then TEARDOWN (R315, R326, R328, R354). -/
def State.writeCtx (s : State) (o : Nat) (v : Word) : State :=
  let c : CtxIdx := BitVec.ofNat 3 ((o - 0xD000) / 0x100)
  let x := s.ctx c
  if 0xD800 ≤ o then s
  else match o % 0x100 with
    | 0x08 =>
      let s := s.setCtx c { x with abortTag := v.extractLsb' 32 32, cplIrq := bit v 3, abortNow := bit v 2 }
      let s := if bit v 1 && x.state != 0 then s.abortReq c else s
      if bit v 0 then (s.teardownStart c).onIdle else s
    | 0x10 => s.setCtx c { x with abortStep := v }
    | 0x18 => s.ringWrite c v
    | 0x20 =>
      if x.ringWritable then
        (s.setCtx c { x with cplBase := v.extractLsb' 12 52, cplOrder := ringOrderOf v, cplCount := 0, cplHead := 0 }).flush c
      else s
    | 0x28 => if x.ringWritable then s.setCtx c { x with winBase := v.extractLsb' 12 52 } else s
    | 0x30 => if x.ringWritable then s.setCtx c { x with winSize := v.extractLsb' 12 52 } else s
    | _ => s

/-- The RW and W1S fields of a register that is not a CTX_ register, in that order. -/
def State.writeFields (s : State) (o : Nat) (v : Word) : State :=
  if 0xB100 ≤ o ∧ o < 0xB138 then
    let k := (o - 0xB100) / 8
    let r := deadlineRange k
    { s with err := { s.err with deadlines := s.err.deadlines.set k (heldIn v 0 32 r.1 r.2 32) } }
  else match o with
    | 0x1010 =>
      let b : BitVec 16 := v.extractLsb' 0 16
      let s := { s with err := { s.err with blockId := b } }
      if bit v 16 then s.goBlock b else s
    | 0x2000 =>
      let s := if bit v 0 then s.stageImage else s
      if bit v 1 then s.discardImage else s
    | 0x2008 => { s with img := { s.img with stageAddr := v.extractLsb' 5 36 } }
    | 0x2010 => { s with img := { s.img with stageLen := v.extractLsb' 5 20 } }
    | 0x4010 => { s with mem := { s.mem with interval := heldIn v 0 16 1000 42915 16 } }
    | 0x6008 =>
      let s := { s with links := { s.links with control := v.extractLsb' 8 7 } }
      if bit v 0 then s.rediscover (field v 8 7) else s
    | 0xA010 =>
      { s with crn := { s.crn with reportTimeout := heldIn v 32 32 1000000 1000000000 32, hbTimeout := heldIn v 0 32 200000 100000000 32 } }
    | 0xC008 => s.writeWindow v
    | _ => s

/-- R356: writes are ignored while bring-up runs, after a failed start, and while the module is contained. -/
def State.writesBarred (s : State) : Bool := s.boot.mode == 0 || s.boot.mode == 2 || s.err.containState == 1

/-- Who can reach the register file: the host once BAR0 answers, the firmware once step 3 has released it. -/
def State.reaches (s : State) (who : Requester) : Bool :=
  match who with
  | .host => s.barAnswers
  | .firmware => s.powered && decide (4 ≤ s.boot.step.toNat) && s.boot.mode != 3

/-- Counts a host access only (GLB_ACCESS_ERR). -/
def State.countAccess (s : State) (who : Requester) (kind : BitVec 2) (o : BitVec 26) : State :=
  match who with
  | .host => s.accessError kind o
  | .firmware => s

/-- REGISTER_WRITE, with the W1C bits whose event falls in the write's cycle (R9). A write to the aperture
is ignored (R283); what CXL 3.1 and PCIe registers do with one is not this spec's; the firmware's path has no strobe for
CTX_ registers. -/
def execRegisterWrite (who : Requester) (offset : BitVec 26) (size : BitVec 13) (value : RegWrite) (s : State) :
    Host.Outcome State Fault Refusal :=
  .next (
    let o := offset.toNat
    let v := value.value
    let clear := clearing v value.coincident
    if !s.reaches who || inAperture o || inStandard o then s
    else if size != 8 || o % 8 != 0 then s.countAccess who 1 offset
    else if who == .firmware && inCtx o then s
    else if s.writesBarred then
      (if v &&& w1cMask o ≠ 0 then s.writeW1c o clear
      else if o = 0xC008 then s.writeWindow v
      else s.countAccess who 2 offset)
    else if inCtx o then s.writeCtx o v
    else (s.writeFields o v).writeW1c o clear)

/-! ## Reads (R352, R353) -/

/-- Bytes that the spec leaves to CXL 3.1 and PCIe; the pending-bit array holds one bit a vector (PRESUMED,
notes/assumptions/16.md). -/
def State.standardRead (s : State) (o n : Nat) : State :=
  if 0xE800 ≤ o ∧ o < 0xE808 then s.emit (.readData (((leBytes 8 (s.host.msixPending.setWidth 64)).drop (o - 0xE800)).take n))
  else let f := s.takeFree (8 * n)
    f.2.emit (.readData (leBytes n f.1))

/-- REGISTER_READ. -/
def execRegisterRead (offset : BitVec 26) (size : BitVec 13) (s : State) : Host.Outcome State Fault Refusal :=
  .next (
    let o := offset.toNat
    let n := size.toNat
    if !s.barAnswers then s
    else if inAperture o then
      (if 4 ≤ n ∧ n ≤ 4096 ∧ o % 4096 + n ≤ 4096 then
        s.emit (.readData (s.moraineBytes s.dmp.source (2 ^ 24 * s.dmp.window.toNat + (o - 0x3000000)) n))
      else s.emit .completerAbort)
    else if inStandard o then s.standardRead o n
    else if (n == 4 || n == 8) && o % n == 0 then s.emit (.readData (s.regBytes o n))
    else (s.accessError 1 offset).emit .completerAbort)

end Sys2Proof.Machine
end

