-- ==== Sys2Proof/Machine/Mgmt.lean ====
section
/-! DEFINITION. The management port: I3C and MCTP (R331, R332), events (R333), the Lombiex commands (R335, R295, R302,
R285), keys (R340), and firmware update (R342 to R344). -/

namespace Sys2Proof.Machine
open Sys2Proof

/-- The I3C targets respond (R331): from bring-up step 2, also in bivouac mode and while contained. -/
def State.mgmtOn (s : State) : Bool := s.powered && s.mgt.ready

def State.say (s : State) (what : String) (data : List Byte) : State := s.emit (.answer what data)
def State.refuseCmd (s : State) (why : String) : State := s.emit (.refusedCommand why)

/-! ## I3C, MCTP control, PLDM types (R331, R332) -/

/-- SETDASA_ENTDAA: the MCTP target takes both, the direct target ENTDAA alone. -/
def execSetdasaEntdaa (target : I3cTarget) (kind : I3cAssign) (addr : BitVec 7) (s : State) : Host.Outcome State Fault Refusal :=
  .next (
    if !s.mgmtOn then s
    else match target, kind with
      | .mctp, _ => { s with mgt := { s.mgt with mctpAddr := addr } }
      | .direct, .entdaa => { s with mgt := { s.mgt with directAddr := addr } }
      | .direct, .setdasa => s)

/-- MCTP_CONTROL. The message types are those of Table 16-2; their MCTP numbers and the versions are the DMTF's
(PRESUMED, notes/assumptions/17.md). -/
def execMctpControl (m : MctpCtl) (s : State) : Host.Outcome State Fault Refusal :=
  .next (
    if !s.mgmtOn then s
    else match m with
      | .setEndpointId e => ({ s with mgt := { s.mgt with eid := e } }).say "Set Endpoint ID" [e]
      | .getEndpointId => s.say "Get Endpoint ID" [s.mgt.eid]
      | .getVersionSupport => let f := s.takeFree 32; f.2.say "Get MCTP Version Support" (leBytes 4 f.1)
      | .getMessageTypeSupport => s.say "Get Message Type Support" [0x00, 0x01, 0x05, 0x06])

/-- PLDM_DISCOVERY: Types 0, 2, 5 and 63. -/
def execPldmDiscovery (s : State) : Host.Outcome State Fault Refusal :=
  .next (if s.mgmtOn then s.say "GetPLDMTypes" [0, 2, 5, 63] else s)

/-- The reading of a sensor (R332); optical engines have no reading that the spec's state holds. -/
def State.sensor (s : State) (id : Sensor) : BitVec 16 × State :=
  match id with
  | .inputPower => (s.pwr.inputW, s)
  | .coreVoltage => (s.pwr.coreMv.setWidth 16, s)
  | .dieTemp d => ((nth 0 s.pwr.dieTemps d.toNat).setWidth 16, s)
  | .memTemp m => (BitVec.ofNat 16 ((((s.pwr.pkgTemps.drop (8 * m.toNat)).take 8).map BitVec.toNat).foldl max 0), s)
  | .engineTemp _ => s.takeFree 16

/-- GET_SENSOR_READING. -/
def execGetSensorReading (id : Sensor) (s : State) : Host.Outcome State Fault Refusal :=
  .next (if !s.mgmtOn then s else let r := s.sensor id; r.2.say "GetSensorReading" (leBytes 2 r.1))

/-! ## Events (R333) -/

/-- SET_EVENT_RECEIVER: the oldest record goes out. -/
def execSetEventReceiver (eid : Byte) (s : State) : Host.Outcome State Fault Refusal :=
  .next (if s.mgmtOn then ({ s with mgt := { s.mgt with receiver := some eid } }).sendHead else s)

/-- POLL_FOR_PLATFORM_EVENT_MESSAGE: takes the next queued record; a receiver is sent the one after it. -/
def execPollForPlatformEventMessage (s : State) : Host.Outcome State Fault Refusal :=
  .next (
    if !s.mgmtOn then s
    else match s.mgt.queue with
      | [] => s.emit .noEvent
      | e :: q => (({ s with mgt := { s.mgt with queue := q } }).emit (.eventMessage e)).sendHead)

/-- EVENT_ACKNOWLEDGE: of the record being sent; the next one follows, in SEQ order. -/
def execEventAcknowledge (seq : BitVec 32) (s : State) : Host.Outcome State Fault Refusal :=
  .next (
    if !s.mgmtOn then s
    else match s.mgt.queue with
      | e :: q => if e.seq = seq then ({ s with mgt := { s.mgt with queue := q } }).sendHead else s
      | [] => s)

/-! ## Reads (Table 16-5) -/

/-- READ_MORAINE: at most 4,096 bytes, in any mode. -/
def execReadMoraine (full : Bool) (offset : BitVec 32) (length : BitVec 16) (s : State) : Host.Outcome State Fault Refusal :=
  .next (
    if !s.mgmtOn then s
    else if 4096 < length.toNat then s.refuseCmd "ReadMoraine: length"
    else s.say "ReadMoraine" (s.moraineBytes full offset.toNat length.toNat))

/-- Bytes of the shape table at its offsets of Table 02-13; 0 outside it. -/
def State.shapeBytes (s : State) (o n : Nat) : List Byte :=
  (List.range n).map (fun i =>
    let a := o + i
    if (0x2800 ≤ a ∧ a < 0x3000) ∨ (0x20000 ≤ a ∧ a < 0x22000) then (s.regWord (8 * (a / 8))).extractLsb' (8 * (a % 8)) 8 else 0)

/-- READ_SHAPE_TABLE: in ready mode. -/
def execReadShapeTable (offset : BitVec 26) (length : BitVec 16) (s : State) : Host.Outcome State Fault Refusal :=
  .next (
    if !s.mgmtOn then s
    else if s.boot.mode ≠ 1 then s.refuseCmd "ReadShapeTable: not ready"
    else s.say "ReadShapeTable" (s.shapeBytes offset.toNat length.toNat))

/-- READ_STEP_RECORD: an entry that the context's ring still holds (R261), read from module memory. -/
def execReadStepRecord (c : CtxIdx) (seq : BitVec 64) (s : State) : Host.Outcome State Fault Refusal :=
  .next (
    if !s.mgmtOn then s
    else if s.boot.mode ≠ 1 then s.refuseCmd "ReadStepRecord: not ready"
    else
      let x := s.ctx c
      match x.image with
      | none => s.refuseCmd "ReadStepRecord: no image"
      | some im =>
        if seq = 0 ∨ x.recordSeq.toNat < seq.toNat ∨ seq.toNat + 256 ≤ x.recordSeq.toNat then s.refuseCmd "ReadStepRecord: no such record"
        else
          let b := (im.recordBase + 1024 * (seq.toNat % 256)) / 32
          match s.readBursts 8 ((List.range 32).map (b + ·)) with
          | (some ds, s, _) => s.say "ReadStepRecord" (ds.flatMap (fun d => leBytes 32 (payload d)))
          | (none, s, _) => s.refuseCmd "ReadStepRecord: memory")

/-! ## Option bytes and clears (R295, R302, R285, R271) -/

/-- A copy with a GENERATION and its check word. -/
def stampOptions (b : List Byte) (g : Word) : List Byte :=
  let c := b.take 8 ++ leBytes 8 g ++ (b.drop 16).take (0xFF8 - 16)
  c ++ leBytes 8 (crc64 c)

/-- WRITE_OPTION_BYTES (R295): never to the selected copy. -/
def execWriteOptionBytes (copy : List Byte) (s : State) : Host.Outcome State Fault Refusal :=
  .next (
    if !s.mgmtOn then s
    else if optionCause copy ≠ 0 then s.refuseCmd "WriteOptionBytes: invalid copy"
    else
      let g := if s.boot.optSource = 0 then 1 else s.boot.opts.generation + 1
      let c := stampOptions copy g
      let s := if s.boot.optSource = 1 then { s with flash := { s.flash with optB := c } } else { s with flash := { s.flash with optA := c } }
      s.say "WriteOptionBytes" [])

/-- MANAGEMENT_CLEAR: [0] start counter (in bivouac mode its exit), [1] containment log (back to service), [2] the
RESTORE_FAILED hold. -/
def execManagementClear (scope : BitVec 3) (s : State) : Host.Outcome State Fault Refusal :=
  .next (
    if !s.mgmtOn then s
    else
      let s := if bit scope 0 then (let s := s.noteStart .clear; if s.boot.mode = 3 then s.raise 0x33 0 else s) else s
      let s := if bit scope 1 then
          { s with flash := { s.flash with containLog := [] },
                   err := { s.err with containState := if s.err.containState = 2 then 0 else s.err.containState } }
        else s
      let s := if bit scope 2 then { s with crn := { s.crn with restoreHold := false } } else s
      s.say "ManagementClear" [])

/-! ## Keys (R335, R339, R340) -/

/-- The hash that an authorised command signs: serial number, code, arguments (R335). -/
def State.authHash (s : State) (code : Byte) (args : List Byte) : Digest := Config.shake256 (leBytes 8 s.fuses.serial ++ [code] ++ args)

/-- EnrolKey and RevokeKey act in ready and bivouac mode. -/
def State.keyMode (s : State) : Bool := s.boot.mode == 1 || s.boot.mode == 3

def State.setKey (s : State) (slot : Nat) (k : KeySlot) : State :=
  ({ s with fuses := { s.fuses with keys := s.fuses.keys.set slot k } }).raise 0x35 slot

/-- ENROL_KEY: an empty owner slot. -/
def execEnrolKey (slot : BitVec 2) (key : List Byte) (debug : Bool) (signer : BitVec 2) (sig : List Byte) (s : State) :
    Host.Outcome State Fault Refusal :=
  .next (
    if !s.mgmtOn then s
    else if !s.keyMode then s.refuseCmd "EnrolKey: mode"
    else if !sigOk s.fuses.keys signer.toNat (s.authHash 0x06 ([slot.setWidth 8] ++ key ++ [BitVec.ofNat 8 (boolNat debug)])) sig then
      s.refuseCmd "ERROR_UNAUTHORISED"
    else
      let k := nth {} s.fuses.keys slot.toNat
      if slot = 0 ∨ k.enrolled ∨ k.revoked then s.refuseCmd "EnrolKey: slot"
      else (s.setKey slot.toNat { key := key, enrolled := true, revoked := false, debug := debug }).say "EnrolKey" [])

/-- REVOKE_KEY: an owner slot. -/
def execRevokeKey (slot : BitVec 2) (signer : BitVec 2) (sig : List Byte) (s : State) : Host.Outcome State Fault Refusal :=
  .next (
    if !s.mgmtOn then s
    else if !s.keyMode then s.refuseCmd "RevokeKey: mode"
    else if !sigOk s.fuses.keys signer.toNat (s.authHash 0x07 [slot.setWidth 8]) sig then s.refuseCmd "ERROR_UNAUTHORISED"
    else if slot = 0 then s.refuseCmd "RevokeKey: slot"
    else (s.setKey slot.toNat { nth {} s.fuses.keys slot.toNat with revoked := true }).say "RevokeKey" [])

/-! ## Firmware (R342 to R344) -/

/-- COMMIT_SVN. -/
def execCommitSvn (s : State) : Host.Outcome State Fault Refusal :=
  .next (
    if !s.mgmtOn then s
    else if s.boot.mode != 1 || s.boot.fwSource == 0 || decide (s.boot.runSvn.toNat ≤ s.fuses.svn.toNat) then s.refuseCmd "CommitSVN"
    else (({ s with fuses := { s.fuses with svn := s.boot.runSvn } }).raise 0x36 s.boot.runSvn.toNat).say "CommitSVN" [])

/-- REQUEST_UPDATE. -/
def execRequestUpdate (s : State) : Host.Outcome State Fault Refusal :=
  .next (
    if !s.mgmtOn then s
    else if s.mgt.updating then s.refuseCmd "ALREADY_IN_UPDATE_MODE"
    else ({ s with mgt := { s.mgt with updating := true } }).say "RequestUpdate" [])

/-- The slot a component goes to (R343): true for slot B. -/
def State.targetB (s : State) (c : Component) : Bool :=
  match c with
  | .firmware => if s.boot.fwSource = 0 then !s.boot.opts.fwPref else s.boot.fwSource == 1
  | .wihorn => if s.img.activeSource = 1 then true else if s.img.activeSource = 2 then false else !s.boot.opts.wihornPref

/-- Sets the content of a component's target slot. -/
def State.writeSlot (s : State) (c : Component) (b : Bool) (bs : List Byte) : State :=
  let f := s.flash
  { s with flash := match c, b with
    | .firmware, false => { f with fwA := bs }
    | .firmware, true => { f with fwB := bs }
    | .wihorn, false => { f with wihornA := bs }
    | .wihorn, true => { f with wihornB := bs } }

def State.slotBytes (s : State) (c : Component) (b : Bool) : List Byte :=
  match c, b with
  | .firmware, false => s.flash.fwA
  | .firmware, true => s.flash.fwB
  | .wihorn, false => s.flash.wihornA
  | .wihorn, true => s.flash.wihornB

/-- COMPONENT_WRITE: a slot holds 16 MiB (Table 14-3). -/
def execComponentWrite (c : Component) (bytes : List Byte) (s : State) : Host.Outcome State Fault Refusal :=
  .next (
    if !s.mgmtOn then s
    else if !s.mgt.updating then s.refuseCmd "component: no update"
    else if 2 ^ 24 < bytes.length then s.refuseCmd "component: length"
    else
      let b := s.targetB c
      let s := match c with
        | .firmware => { s with mgt := { s.mgt with targetFw := some b } }
        | .wihorn => { s with mgt := { s.mgt with targetWihorn := some b } }
      s.writeSlot c b bytes)

/-- Whether a component's content verifies (R342, R32). -/
def State.componentOk (s : State) (c : Component) (bs : List Byte) : Bool :=
  match c with
  | .firmware => fwVerifies s.fuses bs
  | .wihorn => match checkWihorn s.fuses.keys bs with | .ok _ => true | .error _ => false

/-- VERIFY_COMPLETE: a component that fails leaves its slot invalid; firmware that verifies is an exit of bivouac mode
(R302). -/
def execVerifyComplete (c : Component) (s : State) : Host.Outcome State Fault Refusal :=
  .next (
    if !s.mgmtOn then s
    else match (match c with | .firmware => s.mgt.targetFw | .wihorn => s.mgt.targetWihorn) with
      | none => s.refuseCmd "VerifyComplete: nothing written"
      | some b =>
        if s.componentOk c (s.slotBytes c b) then
          let s := if s.boot.mode = 3 ∧ c = .firmware then (s.noteStart .clear).raise 0x33 0 else s
          s.say "VERIFY_SUCCESS" []
        else (s.writeSlot c b []).say "VERIFY_FAILED" [])

/-- ACTIVATE_FIRMWARE: the update ends; only a RESET_L runs what was written. -/
def execActivateFirmware (s : State) : Host.Outcome State Fault Refusal :=
  .next (
    if !s.mgmtOn then s
    else if !s.mgt.updating then s.refuseCmd "ActivateFirmware: no update"
    else ({ s with mgt := { s.mgt with updating := false, targetFw := none, targetWihorn := none } }).say "RESET_L needed" [])

end Sys2Proof.Machine
end

