-- ==== Sys2Proof/Machine/Sec.lean ====
section
/-! DEFINITION. Attestation and sessions (R345 to R347), CXL IDE keys (R310), JTAG and debug opening (R348, R349). -/

namespace Sys2Proof.Machine
open Sys2Proof

/-! ## SPDM (R345, R346)

The order of GET_VERSION, GET_CAPABILITIES and NEGOTIATE_ALGORITHMS is SPDM's (PRESUMED, notes/assumptions/18.md). -/

/-- GET_VERSION: 1.2 and 1.3; a negotiation starts anew. -/
def execGetVersion (s : State) : Host.Outcome State Fault Refusal :=
  .next (
    if !s.mgmtOn then s
    else ({ s with sec := { s.sec with versioned := true, capabilities := false, negotiated := false } }).say "VERSION" [0x12, 0x13])

/-- GET_CAPABILITIES. -/
def execGetCapabilities (s : State) : Host.Outcome State Fault Refusal :=
  .next (
    if !s.mgmtOn then s
    else if !s.sec.versioned then s.refuseCmd "SPDM UnexpectedRequest"
    else ({ s with sec := { s.sec with capabilities := true } }).say "CERT CHAL MEAS_SIG KEY_EX ENCRYPT MAC HBEAT KEY_UPD" [])

/-- NEGOTIATE_ALGORITHMS: fails unless the requester offers Falcon-1024 and SHAKE256. -/
def execNegotiateAlgorithms (falcon shake : Bool) (s : State) : Host.Outcome State Fault Refusal :=
  .next (
    if !s.mgmtOn then s
    else if !s.sec.capabilities || !falcon || !shake then s.refuseCmd "SPDM negotiation"
    else ({ s with sec := { s.sec with negotiated := true } }).say "Falcon-1024 SHAKE256 secp384r1 AES-256-GCM" [])

/-- GET_CERTIFICATE: slot 0 alone is provisioned. -/
def execGetCertificate (slot : BitVec 3) (s : State) : Host.Outcome State Fault Refusal :=
  .next (
    if !s.mgmtOn then s
    else if !s.sec.negotiated || slot != 0 then s.refuseCmd "SPDM GET_CERTIFICATE"
    else s.say "CERTIFICATE" Config.certificateChain)

/-- A nonce of the module's, and a signature over what precedes it. -/
def State.signed (s : State) (what : String) (nonce body : List Byte) : State :=
  let f := s.takeFree 256
  let m := body ++ leBytes 32 f.1
  f.2.say what (m ++ Config.identitySign (nonce ++ m))

/-- CHALLENGE. -/
def execChallenge (slot : BitVec 3) (nonce : BitVec 256) (s : State) : Host.Outcome State Fault Refusal :=
  .next (
    if !s.mgmtOn then s
    else if !s.sec.negotiated || slot != 0 then s.refuseCmd "SPDM CHALLENGE"
    else s.signed "CHALLENGE_AUTH" (leBytes 32 nonce) [])

/-- The option-byte copy that spells the factory defaults (Table 14-5). -/
def defaultOptionCopy : List Byte :=
  stampOptions (pad 4096 (le 4 0x4B474F42 ++ pad 12 (le 2 1) ++ [0, 0, 3, 0] ++ le 2 60 ++ le 2 2800 ++ [0x2C])) 0

/-- The image of the running firmware. -/
def State.runningFirmware (s : State) : List Byte :=
  if s.boot.fwSource = 1 then s.flash.fwA else if s.boot.fwSource = 2 then s.flash.fwB else Config.factoryFirmware

/-- The measurement blocks 1 … 15 (Table 16-7), as they stand. -/
def State.measurements (s : State) : List (List Byte) :=
  let ks := s.fuses.keys
  let hash (bs : List Byte) : List Byte := leBytes 64 (Config.shake256 bs)
  [[BitVec.ofNat 8 (boolNat s.fuses.debugOpened), s.fuses.svn, BitVec.ofNat 8 (slotBits ks (·.enrolled)),
    BitVec.ofNat 8 (slotBits ks (·.revoked)), BitVec.ofNat 8 (slotBits ks (·.debug))],
   hash (s.runningFirmware ++ [s.boot.fwSource.setWidth 8]),
   hash (ks.flatMap (fun k => pad 1793 (if k.enrolled then k.key else []))),
   leBytes 64 s.img.active.structDigest, leBytes 64 s.img.active.policyDigest,
   hash (if s.boot.optSource = 0 then defaultOptionCopy else s.boot.optCopy)]
  ++ allCtx.map (fun c => match (s.ctx c).image with
    | some im => hash (leBytes 64 im.modelDigest ++ leBytes 64 im.placementDigest)
    | none => List.replicate 64 0)
  ++ [[BitVec.ofNat 8 (boolNat s.sec.debugOpen)]]

/-- GET_MEASUREMENTS. -/
def execGetMeasurements (nonce : BitVec 256) (s : State) : Host.Outcome State Fault Refusal :=
  .next (
    if !s.mgmtOn then s
    else if !s.sec.negotiated then s.refuseCmd "SPDM GET_MEASUREMENTS"
    else s.signed "MEASUREMENTS" (leBytes 32 nonce) s.measurements.flatten)

/-! ## Sessions -/

/-- The session of an identifier, set up. -/
def State.session (s : State) (id : BitVec 16) : Bool := s.sec.sessions.any (fun (e : Session) => e.id == id && e.up)

/-- KEY_EXCHANGE: a session in its handshake. -/
def execKeyExchange (pub : List Byte) (s : State) : Host.Outcome State Fault Refusal :=
  .next (
    if !s.mgmtOn then s
    else if !s.sec.negotiated then s.refuseCmd "SPDM KEY_EXCHANGE"
    else
      let id := s.sec.nextSession
      ({ s with sec := { s.sec with sessions := { id := id } :: s.sec.sessions.filter (fun (e : Session) => e.id != id),
                                    nextSession := id + 1 } }).signed
        "KEY_EXCHANGE_RSP" pub (leBytes 2 id))

/-- FINISH: the handshake verified, or the session is dropped. -/
def execFinish (session : BitVec 16) (verified : Bool) (s : State) : Host.Outcome State Fault Refusal :=
  .next (
    if !s.mgmtOn then s
    else if !s.sec.sessions.any (fun (e : Session) => e.id == session && !e.up) then s.refuseCmd "SPDM FINISH"
    else if verified then
      ({ s with sec := { s.sec with sessions := s.sec.sessions.map (fun (e : Session) =>
          if e.id = session then { e with up := true } else e) } }).say "FINISH_RSP" []
    else ({ s with sec := { s.sec with sessions := s.sec.sessions.filter (fun (e : Session) => e.id != session) } }).refuseCmd "SPDM FINISH")

/-- HEARTBEAT of a session. -/
def execHeartbeatSpdm (session : BitVec 16) (s : State) : Host.Outcome State Fault Refusal :=
  .next (
    if !s.mgmtOn then s
    else if s.session session then s.say "HEARTBEAT_ACK" [] else s.refuseCmd "SPDM HEARTBEAT")

/-- KEY_UPDATE. -/
def execKeyUpdate (session : BitVec 16) (s : State) : Host.Outcome State Fault Refusal :=
  .next (
    if !s.mgmtOn then s
    else if !s.session session then s.refuseCmd "SPDM KEY_UPDATE"
    else
      ({ s with sec := { s.sec with sessions := s.sec.sessions.map (fun (e : Session) =>
          if e.id = session then { e with generation := e.generation + 1 } else e) } }).say "KEY_UPDATE_ACK" [])

/-- END_SESSION. -/
def execEndSession (session : BitVec 16) (s : State) : Host.Outcome State Fault Refusal :=
  .next (
    if !s.mgmtOn then s
    else if !s.session session then s.refuseCmd "SPDM END_SESSION"
    else ({ s with sec := { s.sec with sessions := s.sec.sessions.filter (fun (e : Session) => e.id != session) } }).say "END_SESSION_ACK" [])

/-- The request came inside a session. -/
def State.inSession (s : State) (id : Option (BitVec 16)) : Bool := match id with | some k => s.session k | none => false

/-- CONTEXT_KEY_REQUEST (R347). -/
def execContextKeyRequest (session : Option (BitVec 16)) (c : CtxIdx) (key : Option (BitVec 256)) (s : State) :
    Host.Outcome State Fault Refusal :=
  .next (
    if !s.mgmtOn then s
    else
      let x := s.ctx c
      let free := match x.op with | .restore _ => false | .checkpoint _ => false | _ => true
      if s.inSession session && (x.state == 1 || x.state == 2 || x.state == 5) && free then
        (s.setCtx c { x with key := key }).say "context key" []
      else s.refuseCmd "context key")

/-- CXL_IDE_KM (R310): inside a session only. -/
def execCxlIdeKm (session : Option (BitVec 16)) (op : IdeOp) (s : State) : Host.Outcome State Fault Refusal :=
  .next (
    if !s.mgmtOn then s
    else if !s.inSession session then s.refuseCmd "CXL_IDE_KM"
    else
      let h := s.host
      match op with
      | .keyProg st k => ({ s with host := { h with ideKeys := (st.toNat, k) :: h.ideKeys.filter (fun e => e.1 != st.toNat) } }).say "KP_ACK" []
      | .keyGo st =>
        if h.ideKeys.any (fun e => e.1 == st.toNat) then
          ({ s with host := { h with ideOn := st.toNat :: h.ideOn.filter (· != st.toNat) } }).say "K_GOSTOP_ACK" []
        else s.refuseCmd "CXL_IDE_KM"
      | .keyStop st => ({ s with host := { h with ideOn := h.ideOn.filter (· != st.toNat) } }).say "K_GOSTOP_ACK" [])

/-! ## JTAG (R348)

Any instruction but EXTEST ends EXTEST's hold on the pins (PRESUMED: IEEE 1149.1; notes/assumptions/19.md). -/

/-- The test access port has its supply. -/
def State.tapOn (s : State) : Bool := s.pwr.railsValid && !s.pwr.tripped

def State.endExtest (s : State) : State := { s with pwr := { s.pwr with extest := false, extestPins := [] } }

/-- BYPASS. -/
def execBypass (s : State) : Host.Outcome State Fault Refusal := .next (if s.tapOn then s.endExtest.say "BYPASS" [] else s)

/-- IDCODE: the low nibble of the saddle's revision, the part number, the manufacturer, 1. -/
def idcodeWord : BitVec 32 := (1 : BitVec 4) ++ (0x4B04 : BitVec 16) ++ Config.manufacturerId ++ (1 : BitVec 1)

/-- IDCODE. -/
def execIdcode (s : State) : Host.Outcome State Fault Refusal :=
  .next (if s.tapOn then s.endExtest.say "IDCODE" (leBytes 4 idcodeWord) else s)

/-- SAMPLE_PRELOAD: which cell holds which pin is not in the spec, so the sample is open. -/
def execSamplePreload (bits : BitVec 64) (s : State) : Host.Outcome State Fault Refusal :=
  .next (
    if !s.tapOn then s
    else
      let f := s.endExtest.takeFree 64
      ({ f.2 with sec := { f.2.sec with boundary := bits } }).say "SAMPLE" (leBytes 8 f.1))

/-- The number of a fuse-controlled pin in the fuse map (Table 18-7). -/
def pinNumber : FusePin → Nat
  | .faultL => 0
  | .i3cSda => 1
  | .jtagTdo => 2
  | .gpio n => 3 + n.toNat

/-- EXTEST: while debug is open, and within the pin's fuse mask (R338). The links carry nothing while it lasts. -/
def execExtest (pin : FusePin) (code : BitVec 3) (s : State) : Host.Outcome State Fault Refusal :=
  .next (
    if !s.tapOn then s
    else if !s.sec.debugOpen then s.refuseCmd "EXTEST"
    else
      let k := pinNumber pin
      let s := { s with pwr := { s.pwr with extest := true } }
      if code.toNat ≤ 4 ∧ (nth 0 s.fuses.pinMask k).getLsbD code.toNat then
        { s with pwr := { s.pwr with extestPins := (k, code) :: s.pwr.extestPins.filter (fun e => e.1 != k) } }
      else ({ s with mgt := { s.mgt with blockedPin := satInc s.mgt.blockedPin } }).raiseBlocked)

/-! ## Debug (R348, R349) -/

/-- DEBUG_CHALLENGE_READ: a fresh challenge at each read. -/
def execDebugChallengeRead (s : State) : Host.Outcome State Fault Refusal :=
  .next (
    if !s.powered then s
    else
      let f := s.endExtest.takeFree 128
      ({ f.2 with sec := { f.2.sec with challenge := some f.1 } }).say "challenge" (leBytes 16 f.1))

/-- Table 16-8, orders 2 to 5. -/
def State.openDebug (s : State) : State :=
  let s := allCtx.foldl (fun (s : State) c => s.setCtx c { s.ctx c with key := none }) s
  let s := s.tors.foldl (fun (s : State) e => let t : TorIdx := BitVec.ofNat 13 e.1; s.setTor t { s.tor t with store := [] }) s
  ({ s with host := { s.host with ideKeys := [], ideOn := [] }, fuses := { s.fuses with debugOpened := true },
            sec := { s.sec with sessions := [], debugOpen := true } }).raise 0x34 0

/-- DEBUG_OPENING (Table 16-8): the signature first, then whether the module is busy. -/
def execDebugOpening (slot : BitVec 2) (sig : List Byte) (s : State) : Host.Outcome State Fault Refusal :=
  .next (
    if !s.powered then s
    else
      let s := s.endExtest
      let k := nth {} s.fuses.keys slot.toNat
      let ok := match s.sec.challenge with
        | some ch => k.enrolled && k.debug && !k.revoked
            && Config.falconVerify k.key (Config.shake256 (leBytes 8 s.fuses.serial ++ leBytes 16 ch)) sig
        | none => false
      if !ok then s.refuseCmd "BAD_TOKEN"
      else if s.err.containState != 0 || allCtx.any (fun c => (s.ctx c).state == 3 || (s.ctx c).state == 4 || (s.ctx c).state == 6) then
        s.refuseCmd "BUSY"
      else s.openDebug)

/-- DEBUG_ACCESS: while DEBUG_OPEN is set. What a scan or a processor answers is open; key store, crypto engine and fuse
engine are out of reach. -/
def execDebugAccess (target : DebugTarget) (s : State) : Host.Outcome State Fault Refusal :=
  if !s.tapOn then .next s
  else if !s.sec.debugOpen then .next (s.refuseCmd "debug closed")
  else
    let s := s.endExtest
    match target with
    | .scan _ => let f := s.takeFree 512; .next (f.2.say "scan" (leBytes 64 f.1))
    | .processor _ => let f := s.takeFree 64; .next (f.2.say "processor" (leBytes 8 f.1))
    | .memRead a =>
      if memTop / 32 ≤ a.toNat then .fault (.unpopulated a.toNat)
      else
        let r := s.moduleRead a.toNat 8
        (match r.1 with
        | .clean d => .next (r.2.say "memory" (leBytes 34 d))
        | .corrected d => .next (r.2.say "memory" (leBytes 34 d))
        | _ => .next (r.2.say "memory: no data" []))
    | .memWrite a d =>
      if memTop / 32 ≤ a.toNat then .fault (.unpopulated a.toNat)
      -- a reserved region is out of reach (R183)
      else if s.inReserved (32 * a.toNat) 32 then .next (s.refuseCmd "reserved region")
      else .next (s.writeBurst a.toNat d)
    | .keyStore => .next (s.refuseCmd "unreachable")
    | .cryptoEngine => .next (s.refuseCmd "unreachable")
    -- a fuse request that no defined action makes (Table 16-6)
    | .fuseEngine => .next (({ s with mgt := { s.mgt with blockedFuse := satInc s.mgt.blockedFuse } }.raiseBlocked).refuseCmd "unreachable")

end Sys2Proof.Machine
end

