-- ==== Sys2Proof/Machine/Dispatch.lean ====
section
/-! DEFINITION. The meaning of each command: one arm per constructor of `Instr`. -/

namespace Sys2Proof.Machine
open Sys2Proof

/-- A command's effect on everything but the queue. -/
def exec (i : Instr) (s : State) : Host.Outcome State Fault Refusal :=
  match i with
  | .railsValid => Sys2Proof.Machine.execRailsValid s
  | .railOutOfLimits rail => Sys2Proof.Machine.execRailOutOfLimits rail s
  | .inputInvalid mv us => Sys2Proof.Machine.execInputInvalid mv us s
  | .boardPwrgd level us => Sys2Proof.Machine.execBoardPwrgd level us s
  | .resetRecognised us => Sys2Proof.Machine.execResetRecognised us s
  | .resetLRelease us => Sys2Proof.Machine.execResetLRelease us s
  | .ready => Sys2Proof.Machine.execReady s
  | .refclkLoss => Sys2Proof.Machine.execRefclkLoss s
  | .thermalSensorRead dies packages => Sys2Proof.Machine.execThermalSensorRead dies packages s
  | .governorWindow watts tj => Sys2Proof.Machine.execGovernorWindow watts tj s
  | .powerCapEffecter watts => Sys2Proof.Machine.execPowerCapEffecter watts s
  | .capCeilingWrite watts => Sys2Proof.Machine.execCapCeilingWrite watts s
  | .setdasaEntdaa target kind addr => Sys2Proof.Machine.execSetdasaEntdaa target kind addr s
  | .registerWrite who offset size value => Sys2Proof.Machine.execRegisterWrite who offset size value s
  | .stage => Sys2Proof.Machine.execStage s
  | .discard => Sys2Proof.Machine.execDiscard s
  | .imageCheckDone => Sys2Proof.Machine.execImageCheckDone s
  | .nop t => Sys2Proof.Machine.execNop t s
  | .loop t len count => Sys2Proof.Machine.execLoop t len count s
  | .skipb t branch skip => Sys2Proof.Machine.execSkipb t branch skip s
  | .call t entry => Sys2Proof.Machine.execCall t entry s
  | .ret t => Sys2Proof.Machine.execRet t s
  | .tmm t o => Sys2Proof.Machine.execTmm t o s
  | .tconv t o => Sys2Proof.Machine.execTconv t o s
  | .tilePassStart t bufDelays cubeDelays => Sys2Proof.Machine.execTilePassStart t bufDelays cubeDelays s
  | .tilePassEnd t upsets ecc => Sys2Proof.Machine.execTilePassEnd t upsets ecc s
  | .drainRelease t => Sys2Proof.Machine.execDrainRelease t s
  | .vadd t o => Sys2Proof.Machine.execVadd t o s
  | .vsub t o => Sys2Proof.Machine.execVsub t o s
  | .vmul t o => Sys2Proof.Machine.execVmul t o s
  | .vfma t o => Sys2Proof.Machine.execVfma t o s
  | .vmin t o => Sys2Proof.Machine.execVmin t o s
  | .vmax t o => Sys2Proof.Machine.execVmax t o s
  | .vcmp t o => Sys2Proof.Machine.execVcmp t o s
  | .vdiv t o => Sys2Proof.Machine.execVdiv t o s
  | .vsqrt t o => Sys2Proof.Machine.execVsqrt t o s
  | .vrcp t o => Sys2Proof.Machine.execVrcp t o s
  | .vrsq t o => Sys2Proof.Machine.execVrsq t o s
  | .vcvt t o => Sys2Proof.Machine.execVcvt t o s
  | .vred t o => Sys2Proof.Machine.execVred t o s
  | .vdrop t o => Sys2Proof.Machine.execVdrop t o s
  | .vrand t o => Sys2Proof.Machine.execVrand t o s
  | .vfpf t sd clear => Sys2Proof.Machine.execVfpf t sd clear s
  | .vld t o ecc => Sys2Proof.Machine.execVld t o ecc s
  | .vst t o ecc => Sys2Proof.Machine.execVst t o ecc s
  | .vbcast t pred pneg vd sa => Sys2Proof.Machine.execVbcast t pred pneg vd sa s
  | .smovi t sd imm => Sys2Proof.Machine.execSmovi t sd imm s
  | .sadd t o => Sys2Proof.Machine.execSadd t o s
  | .ssub t o => Sys2Proof.Machine.execSsub t o s
  | .smul t o => Sys2Proof.Machine.execSmul t o s
  | .sand t o => Sys2Proof.Machine.execSand t o s
  | .sor t o => Sys2Proof.Machine.execSor t o s
  | .sxor t o => Sys2Proof.Machine.execSxor t o s
  | .sshl t o => Sys2Proof.Machine.execSshl t o s
  | .sasr t o => Sys2Proof.Machine.execSasr t o s
  | .pmov t sd sa => Sys2Proof.Machine.execPmov t sd sa s
  | .pand t o => Sys2Proof.Machine.execPand t o s
  | .por t o => Sys2Proof.Machine.execPor t o s
  | .pnot t o => Sys2Proof.Machine.execPnot t o s
  | .qnt t o ecc => Sys2Proof.Machine.execQnt t o ecc s
  | .deq t o => Sys2Proof.Machine.execDeq t o s
  | .rotq t o ecc => Sys2Proof.Machine.execRotq t o ecc s
  | .wait t token count remote => Sys2Proof.Machine.execWait t token count remote s
  | .signal t token sysaddr remote inc => Sys2Proof.Machine.execSignal t token sysaddr remote inc s
  | .ldq t stream => Sys2Proof.Machine.execLdq t stream s
  | .drq t o => Sys2Proof.Machine.execDrq t o s
  | .hand t desc tile chunk slot => Sys2Proof.Machine.execHand t desc tile chunk slot s
  | .nchk t tile => Sys2Proof.Machine.execNchk t tile s
  | .alt t tile pos skip => Sys2Proof.Machine.execAlt t tile pos skip s
  | .settle t tile desc => Sys2Proof.Machine.execSettle t tile desc s
  | .cairn t pre => Sys2Proof.Machine.execCairn t pre s
  | .ceilingReport home => Sys2Proof.Machine.execCeilingReport home s
  | .stormVerdict c => Sys2Proof.Machine.execStormVerdict c s
  | .memoryRequest r => Sys2Proof.Machine.execMemoryRequest r s
  | .subchannelGrant sub => Sys2Proof.Machine.execSubchannelGrant sub s
  | .memoryReadDone sub flip => Sys2Proof.Machine.execMemoryReadDone sub flip s
  | .slotMerge addr first words client => Sys2Proof.Machine.execSlotMerge addr first words client s
  | .scrubRequest sub => Sys2Proof.Machine.execScrubRequest sub s
  | .hostMemRead hpa => Sys2Proof.Machine.execHostMemRead hpa s
  | .hostMemWrite hpa data => Sys2Proof.Machine.execHostMemWrite hpa data s
  | .hostMemPartialWrite hpa data mask => Sys2Proof.Machine.execHostMemPartialWrite hpa data mask s
  | .hostMemPoisonWrite hpa data => Sys2Proof.Machine.execHostMemPoisonWrite hpa data s
  | .bisnpResponse hpa => Sys2Proof.Machine.execBisnpResponse hpa s
  | .snpinv hpa => Sys2Proof.Machine.execSnpinv hpa s
  | .snpdata hpa => Sys2Proof.Machine.execSnpdata hpa s
  | .snpcur hpa => Sys2Proof.Machine.execSnpcur hpa s
  | .producerLineRead c line entries => Sys2Proof.Machine.execProducerLineRead c line entries s
  | .linkTrainingDone port trained rtt => Sys2Proof.Machine.execLinkTrainingDone port trained rtt s
  | .packetReceive port p overlapsUncorrectable corrected => Sys2Proof.Machine.execPacketReceive port p overlapsUncorrectable corrected s
  | .controlFrame port check ack nak ctlCredits dataCredits sharedCredits => Sys2Proof.Machine.execControlFrame port check ack nak ctlCredits dataCredits sharedCredits s
  | .controlFrameSend port => Sys2Proof.Machine.execControlFrameSend port s
  | .retryTimeout port => Sys2Proof.Machine.execRetryTimeout port s
  | .laneLockLoss port => Sys2Proof.Machine.execLaneLockLoss port s
  | .controlFrameTimeout port => Sys2Proof.Machine.execControlFrameTimeout port s
  | .portRetrain port => Sys2Proof.Machine.execPortRetrain port s
  | .claimSend port => Sys2Proof.Machine.execClaimSend port s
  | .claim port c => Sys2Proof.Machine.execClaim port c s
  | .discoveryTimeout port => Sys2Proof.Machine.execDiscoveryTimeout port s
  | .rangeMap slot counts => Sys2Proof.Machine.execRangeMap slot counts s
  | .rediscover port => Sys2Proof.Machine.execRediscover port s
  | .flowAck slotFlow flow base => Sys2Proof.Machine.execFlowAck slotFlow flow base s
  | .flowAckSend slotFlow flow => Sys2Proof.Machine.execFlowAckSend slotFlow flow s
  | .coll m => Sys2Proof.Machine.execColl m s
  | .updateBlock c param seq => Sys2Proof.Machine.execUpdateBlock c param seq s
  | .requantise c param group => Sys2Proof.Machine.execRequantise c param group s
  | .gather m => Sys2Proof.Machine.execGather m s
  | .token m => Sys2Proof.Machine.execToken m s
  | .fetchReq c srcPos addr plane => Sys2Proof.Machine.execFetchReq c srcPos addr plane s
  | .fetchData c addr plane bursts => Sys2Proof.Machine.execFetchData c addr plane bursts s
  | .failedChunk c srcPos chunk => Sys2Proof.Machine.execFailedChunk c srcPos chunk s
  | .stateCopy c k => Sys2Proof.Machine.execStateCopy c k s
  | .belay c m => Sys2Proof.Machine.execBelay c m s
  | .heartbeatSend => Sys2Proof.Machine.execHeartbeatSend s
  | .heartbeat slot => Sys2Proof.Machine.execHeartbeat slot s
  | .hbTimeout slot => Sys2Proof.Machine.execHbTimeout slot s
  | .reportTimeout slot => Sys2Proof.Machine.execReportTimeout slot s
  | .propose sender slot => Sys2Proof.Machine.execPropose sender slot s
  | .withdraw slot => Sys2Proof.Machine.execWithdraw slot s
  | .joinSend => Sys2Proof.Machine.execJoinSend s
  | .join slot digest => Sys2Proof.Machine.execJoin slot digest s
  | .cairnReportOpen c => Sys2Proof.Machine.execCairnReportOpen c s
  | .cairnPacket m => Sys2Proof.Machine.execCairnPacket m s
  | .cairnTimeout range => Sys2Proof.Machine.execCairnTimeout range s
  | .cairnInstant c => Sys2Proof.Machine.execCairnInstant c s
  | .hangTimeout block kind lastProgress => Sys2Proof.Machine.execHangTimeout block kind lastProgress s
  | .remoteWaitLong t => Sys2Proof.Machine.execRemoteWaitLong t s
  | .containLogWrite ok => Sys2Proof.Machine.execContainLogWrite ok s
  | .dumpBlockAnswer record => Sys2Proof.Machine.execDumpBlockAnswer record s
  | .dumpBlockLimit => Sys2Proof.Machine.execDumpBlockLimit s
  | .dumpDeadline => Sys2Proof.Machine.execDumpDeadline s
  | .dumpWriteTimeout => Sys2Proof.Machine.execDumpWriteTimeout s
  | .blockReset block => Sys2Proof.Machine.execBlockReset block s
  | .blockResetDone => Sys2Proof.Machine.execBlockResetDone s
  | .cxlReset => Sys2Proof.Machine.execCxlReset s
  | .hdmDecoderCommit base => Sys2Proof.Machine.execHdmDecoderCommit base s
  | .ctxRingWrite c value => Sys2Proof.Machine.execCtxRingWrite c value s
  | .load c => Sys2Proof.Machine.execLoad c s
  | .loadComplete c image => Sys2Proof.Machine.execLoadComplete c image s
  | .restore c => Sys2Proof.Machine.execRestore c s
  | .restoreComplete c buffer => Sys2Proof.Machine.execRestoreComplete c buffer s
  | .start c => Sys2Proof.Machine.execStart c s
  | .step c inputs => Sys2Proof.Machine.execStep c inputs s
  | .stepInputRead c ordinal input => Sys2Proof.Machine.execStepInputRead c ordinal input s
  | .checkpoint c => Sys2Proof.Machine.execCheckpoint c s
  | .checkpointComplete c => Sys2Proof.Machine.execCheckpointComplete c s
  | .pause c => Sys2Proof.Machine.execPause c s
  | .resume c => Sys2Proof.Machine.execResume c s
  | .abort c now tag => Sys2Proof.Machine.execAbort c now tag s
  | .teardown c => Sys2Proof.Machine.execTeardown c s
  | .teardownDrained c => Sys2Proof.Machine.execTeardownDrained c s
  | .teardownScrubDone c => Sys2Proof.Machine.execTeardownScrubDone c s
  | .mctpControl m => Sys2Proof.Machine.execMctpControl m s
  | .getSensorReading id => Sys2Proof.Machine.execGetSensorReading id s
  | .setEventReceiver eid => Sys2Proof.Machine.execSetEventReceiver eid s
  | .pollForPlatformEventMessage => Sys2Proof.Machine.execPollForPlatformEventMessage s
  | .eventAcknowledge seq => Sys2Proof.Machine.execEventAcknowledge seq s
  | .readMoraine full offset length => Sys2Proof.Machine.execReadMoraine full offset length s
  | .readShapeTable offset length => Sys2Proof.Machine.execReadShapeTable offset length s
  | .readStepRecord c seq => Sys2Proof.Machine.execReadStepRecord c seq s
  | .writeOptionBytes copy => Sys2Proof.Machine.execWriteOptionBytes copy s
  | .managementClear scope => Sys2Proof.Machine.execManagementClear scope s
  | .enrolKey slot key debug signer sig => Sys2Proof.Machine.execEnrolKey slot key debug signer sig s
  | .revokeKey slot signer sig => Sys2Proof.Machine.execRevokeKey slot signer sig s
  | .commitSvn => Sys2Proof.Machine.execCommitSvn s
  | .requestUpdate => Sys2Proof.Machine.execRequestUpdate s
  | .componentWrite c bytes => Sys2Proof.Machine.execComponentWrite c bytes s
  | .verifyComplete c => Sys2Proof.Machine.execVerifyComplete c s
  | .activateFirmware => Sys2Proof.Machine.execActivateFirmware s
  | .getVersion => Sys2Proof.Machine.execGetVersion s
  | .getCapabilities => Sys2Proof.Machine.execGetCapabilities s
  | .negotiateAlgorithms falcon shake => Sys2Proof.Machine.execNegotiateAlgorithms falcon shake s
  | .getCertificate slot => Sys2Proof.Machine.execGetCertificate slot s
  | .challenge slot nonce => Sys2Proof.Machine.execChallenge slot nonce s
  | .getMeasurements nonce => Sys2Proof.Machine.execGetMeasurements nonce s
  | .keyExchange pub => Sys2Proof.Machine.execKeyExchange pub s
  | .finish session verified => Sys2Proof.Machine.execFinish session verified s
  | .heartbeatSpdm session => Sys2Proof.Machine.execHeartbeatSpdm session s
  | .keyUpdate session => Sys2Proof.Machine.execKeyUpdate session s
  | .endSession session => Sys2Proof.Machine.execEndSession session s
  | .contextKeyRequest session c key => Sys2Proof.Machine.execContextKeyRequest session c key s
  | .cxlIdeKm session op => Sys2Proof.Machine.execCxlIdeKm session op s
  | .bypass => Sys2Proof.Machine.execBypass s
  | .idcode => Sys2Proof.Machine.execIdcode s
  | .samplePreload bits => Sys2Proof.Machine.execSamplePreload bits s
  | .extest pin code => Sys2Proof.Machine.execExtest pin code s
  | .debugChallengeRead => Sys2Proof.Machine.execDebugChallengeRead s
  | .debugOpening slot sig => Sys2Proof.Machine.execDebugOpening slot sig s
  | .wave t os => Sys2Proof.Machine.execWave t os s
  | .uncorrectableCodeword port => Sys2Proof.Machine.execUncorrectableCodeword port s
  | .cxlLinkTrained rate narrow => Sys2Proof.Machine.execCxlLinkTrained rate narrow s
  | .configurationRequest => Sys2Proof.Machine.execConfigurationRequest s
  | .registerRead offset size => Sys2Proof.Machine.execRegisterRead offset size s
  | .cxlCompletionTimeout c => Sys2Proof.Machine.execCxlCompletionTimeout c s
  | .bringUpStepDone order result selfCheck => Sys2Proof.Machine.execBringUpStepDone order result selfCheck s
  | .pldmDiscovery => Sys2Proof.Machine.execPldmDiscovery s
  | .debugAccess target => Sys2Proof.Machine.execDebugAccess target s

end Sys2Proof.Machine
end

