-- ==== Sys2Proof/Safety.lean ====
section
/-! DEFINITION. What a state of the module must satisfy whatever commands arrive, in the terms the statements use. -/

namespace Sys2Proof.Machine
open Sys2Proof

/-- ERR_DEADLINE_k lies in its held range (Table 13-7). -/
def deadlinesHeld (l : List (BitVec 32)) : Bool :=
  l.length == 7 && (List.range 7).all (fun k =>
    decide ((deadlineRange k).1 ≤ (nth 0 l k).toNat) && decide ((nth 0 l k).toNat ≤ (deadlineRange k).2))

/-- Every register that the spec holds in a range lies in it: deadlines (R275), timeouts (chapter 12), the scrub interval
(R181), the power cap ceiling (Table 16-1). -/
def State.rangesHeld (s : State) : Bool :=
  deadlinesHeld s.err.deadlines
  && decide (1000000 ≤ s.crn.reportTimeout.toNat) && decide (s.crn.reportTimeout.toNat ≤ 1000000000)
  && decide (200000 ≤ s.crn.hbTimeout.toNat) && decide (s.crn.hbTimeout.toNat ≤ 100000000)
  && decide (1000 ≤ s.mem.interval.toNat) && decide (s.mem.interval.toNat ≤ 42915)
  && decide (500 ≤ s.pwr.capCeiling.toNat) && decide (s.pwr.capCeiling.toNat ≤ 2800)

/-- The key store's fixed part (R339): slot 0 holds Lombiex's key, enrolled, with DEBUG, never revoked. -/
def State.slot0Kept (s : State) : Bool :=
  match s.fuses.keys with
  | k :: _ => k.enrolled && k.debug && !k.revoked
  | [] => false

/-- Module memory and every tor store are in canonical form. -/
def State.memoriesWf (s : State) : Bool := memWf s.mem.cells && s.tors.all (fun e => memWf e.2.store)

/-- What a key slot never gives back (R339, R340): its enrolment, with its DEBUG bit, and its revocation. -/
def keyKeeps (p : KeySlot × KeySlot) : Bool :=
  (!p.1.enrolled || p.2.enrolled) && (!p.1.revoked || p.2.revoked) && (!(p.1.enrolled && p.1.debug) || p.2.debug)

/-- What no step gives back (R339, R342, R349): a burned fuse. -/
def Fuses.keeps (f g : Fuses) : Bool :=
  (!f.debugOpened || g.debugOpened) && decide (f.svn.toNat ≤ g.svn.toNat) && (f.keys.zip g.keys).all keyKeeps
  && f.keys.length == g.keys.length

end Sys2Proof.Machine
end

