-- ==== Sys2Proof/Certificates/Slice0/Obligations.lean ====
section
/-! DEFINITION. The statements for the provers: what each command does where it completes, what it leaves unchanged, and
what every step keeps. -/

namespace Sys2Proof.Machine
open Sys2Proof

/-- Tor t is about to issue a word for context c: every block works, the context runs, and nothing holds the tor. -/
def State.issuing (s : State) (t : TorIdx) (c : CtxIdx) : Prop :=
  s.runner t = some c ∧ (s.tor t).state = 1 ∧ (s.tor t).stopped = false ∧ (s.tor t).altWait = false ∧ (s.tor t).deqWait = false

/-- The same, with the schedule image that the context has loaded. -/
def State.issuingOf (s : State) (t : TorIdx) (c : CtxIdx) (im : Sched) : Prop := s.issuing t c ∧ (s.ctx c).image = some im

/-- The command i spells the word that its tor's stream holds next (R115, R117). -/
def State.nextWord (s : State) (c : CtxIdx) (i : Instr) : Prop := ∃ t w, i.torWord = some (t, w) ∧ s.asks c t w = true

/-- The command i completes with the state u where it is its tor's next word. -/
def State.runsTo (s : State) (c : CtxIdx) (i : Instr) (u : State) : Prop := s.nextWord c i → exec i s = .next u

/-- The word i of tor t completes with `f` on the tor and nothing else changed. -/
def TorWord (i : Instr) (t : TorIdx) (f : State → CtxIdx → Tor → Tor) : Prop :=
  ∀ s c, s.issuing t c → s.nextWord c i → exec i s = .next (s.setTor t (f s c (s.tor t)))

/-- The command i is refused by name in every state. -/
def RefusedAs (i : Instr) (name : String) : Prop := ∀ s, exec i s = .refused (.reservedEncoding name)

end Sys2Proof.Machine

open Sys2Proof Sys2Proof.Machine

/-! ## Tor words: control, scalar, predicate (R115, R127, R389)

A tor word completes where it is the word that the tor's stream holds next: `runsTo` says so. -/

/-- R119: what a word writes into a register is what the next word reads there; every other register keeps its value, and P0
reads all ones. R119, R125: a vector word writes the active lanes of VD, lane by lane; the inactive lanes keep their values;
the flags of the active lanes are added to FPF; no other register of the tor changes. -/
def Obligations.TorRegistersHold : Prop :=
  ((∀ (r : Tor) (t : TorIdx) (i j : Nat) (v : Word), (r.writeS i v).readS t j = if j = i then v else r.readS t j) ∧
  (∀ (r : Tor) (t : TorIdx) (i j : Nat) (v : BitVec 1024), (r.writeV i v).readV t j = if j = i then v else r.readV t j) ∧
  (∀ (r : Tor) (t : TorIdx) (i j : Nat) (v : BitVec 32),
    (r.writeP i v).readP t j = if j = 0 then BitVec.allOnes 32 else if j = i then v else r.readP t j) ∧
  (∀ (r : Tor) (t : TorIdx) (i j : Nat) (v : Word), (r.writeS i v).readV t j = r.readV t j ∧ (r.writeS i v).readP t j = r.readP t j) ∧
  (∀ (r : Tor) (t : TorIdx) (i j : Nat) (v : BitVec 1024), (r.writeV i v).readS t j = r.readS t j ∧ (r.writeV i v).readP t j = r.readP t j) ∧
  (∀ (r : Tor) (t : TorIdx) (i j : Nat) (v : BitVec 32), (r.writeP i v).readS t j = r.readS t j ∧ (r.writeP i v).readV t j = r.readV t j)) ∧
  (∀ (r : Tor) (t : TorIdx) (act : BitVec 32) (vd : Nat) (f : Nat → FpRes),
    (∀ j, j < 32 → vlane ((r.vlanes t act vd f).readV t vd) j = if bit act j then (f j).val else vlane (r.readV t vd) j) ∧
    (∀ k, k < 5 → bit (r.vlanes t act vd f).fpf k = (bit r.fpf k || (List.range 32).any (fun j => bit act j && bit (f j).flags k))) ∧
    (∀ j, j ≠ vd → (r.vlanes t act vd f).readV t j = r.readV t j) ∧
    (∀ j, (r.vlanes t act vd f).readS t j = r.readS t j ∧ (r.vlanes t act vd f).readP t j = r.readP t j) ∧
    (r.vlanes t act vd f).store = r.store ∧ (r.vlanes t act vd f).pc = r.pc)

/-- R127: the scalar words complete on every issuing tor: one S register and the program counter change, nothing else of the
machine. MODE[0] takes IMM in place of S[SB]; shifts use the low six bits of their count. R127: the predicate words complete
on every issuing tor where PD is not 0: one P register and the program counter change; PMOV takes bits 31 to 0 of S[SA], and
PNOT inverts PA. A word that names P0 as its destination is refused. -/
def Obligations.ScalarAndPredicateWordsComplete : Prop :=
  ((∀ t sd imm, TorWord (.smovi t sd imm) t (fun _ _ r => (r.writeS sd.toNat imm).next)) ∧
  (∀ (t : TorIdx) (o : SOp),
    let b (r : Tor) : Word := if o.useImm then o.imm else r.readS t o.sb.toNat
    let a (r : Tor) : Word := r.readS t o.sa.toNat
    let d := o.sd.toNat
    TorWord (.sadd t o) t (fun _ _ r => (r.writeS d (a r + b r)).next) ∧
    TorWord (.ssub t o) t (fun _ _ r => (r.writeS d (a r - b r)).next) ∧
    TorWord (.smul t o) t (fun _ _ r => (r.writeS d (a r * b r)).next) ∧
    TorWord (.sand t o) t (fun _ _ r => (r.writeS d (a r &&& b r)).next) ∧
    TorWord (.sor t o) t (fun _ _ r => (r.writeS d (a r ||| b r)).next) ∧
    TorWord (.sxor t o) t (fun _ _ r => (r.writeS d (a r ^^^ b r)).next) ∧
    TorWord (.sshl t o) t (fun _ _ r => (r.writeS d (a r <<< ((b r).toNat % 64))).next) ∧
    TorWord (.sasr t o) t (fun _ _ r => (r.writeS d ((a r).sshiftRight ((b r).toNat % 64))).next))) ∧
  ((∀ t sd sa, sd.toNat % 8 ≠ 0 →
    TorWord (.pmov t sd sa) t (fun _ _ r => (r.writeP (sd.toNat % 8) ((r.readS t sa.toNat).setWidth 32)).next)) ∧
  (∀ (t : TorIdx) (o : POp), o.pd ≠ 0 →
    TorWord (.pand t o) t (fun _ _ r => (r.writeP o.pd.toNat (r.readP t o.pa.toNat &&& r.readP t o.pb.toNat)).next) ∧
    TorWord (.por t o) t (fun _ _ r => (r.writeP o.pd.toNat (r.readP t o.pa.toNat ||| r.readP t o.pb.toNat)).next) ∧
    TorWord (.pnot t o) t (fun _ _ r => (r.writeP o.pd.toNat (~~~ r.readP t o.pa.toNat)).next)) ∧
  (∀ t sd sa, sd.toNat % 8 = 0 → RefusedAs (.pmov t sd sa) "PMOV") ∧
  (∀ (t : TorIdx) (o : POp), o.pd = 0 → RefusedAs (.pand t o) "PAND" ∧ RefusedAs (.por t o) "POR" ∧ RefusedAs (.pnot t o) "PNOT"))

/-- R115, R389: the program counter passes to the next word; at the end of the innermost open loop's body it goes back to
the body's first word while runs are left, and leaves the loop after the last. Nothing else of the tor changes. R115, R139,
R389: the control words complete on every issuing tor. NOP moves the program counter; LOOP opens its body, or passes it
where COUNT is 0; CALL pushes the next word's address; RET goes back to it and closes the loops opened inside, and the
return of a SETTLE's entry reports and waits again; SKIPB goes on where the mask's bit is 1 and skips where it is 0. R115,
R117, R118: a tor word other than the one that its tor's stream holds next changes nothing. -/
def Obligations.ControlWordsComplete : Prop :=
  ((∀ r : Tor, r.loops = [] → r.next = { r with pc := BitVec.ofNat 32 (r.pc.toNat + 1) }) ∧
  (∀ (r : Tor) (l : LoopFrame) (ls : List LoopFrame), r.loops = l :: ls → l.depth = r.stack.length →
    r.pc.toNat + 1 < l.start + l.len → r.next = { r with pc := BitVec.ofNat 32 (r.pc.toNat + 1) }) ∧
  (∀ (r : Tor) (l : LoopFrame) (ls : List LoopFrame), r.loops = l :: ls → l.depth = r.stack.length →
    r.pc.toNat + 1 = l.start + l.len → 1 < l.left →
    r.next = { r with pc := BitVec.ofNat 32 l.start, loops := { l with left := l.left - 1 } :: ls }) ∧
  (∀ (r : Tor) (l : LoopFrame), r.loops = [l] → l.depth = r.stack.length →
    r.pc.toNat + 1 = l.start + l.len → l.left ≤ 1 →
    r.next = { r with pc := BitVec.ofNat 32 (r.pc.toNat + 1), loops := [] })) ∧
  ((∀ t, TorWord (.nop t) t (fun _ _ r => r.next)) ∧
  (∀ t len count, len ≠ 0 → count ≠ 0 → TorWord (.loop t len count) t (fun _ _ r =>
    { r with pc := r.pc + 1,
             loops := { start := r.pc.toNat + 1, len := len.toNat, left := count.toNat, depth := r.stack.length } :: r.loops })) ∧
  (∀ t len, len ≠ 0 → TorWord (.loop t len 0) t (fun _ _ r => r.goto (r.pc.toNat + 1 + len.toNat))) ∧
  (∀ t count, RefusedAs (.loop t 0 count) "LOOP") ∧
  (∀ t entry, TorWord (.call t entry) t (fun _ _ r =>
    { r with pc := BitVec.ofNat 32 entry.toNat, stack := { addr := r.pc.toNat + 1, rung := r.rung, settle := false } :: r.stack })) ∧
  (∀ (s : State) (t : TorIdx) (c : CtxIdx) (im : Sched) (f : RetFrame) (fs : List RetFrame), s.issuingOf t c im →
    (s.tor t).stack = f :: fs → f.settle = false →
    s.runsTo c (.ret t) (s.setTor t
      (Tor.goto { s.tor t with stack := fs, loops := (s.tor t).loops.filter (fun l => decide (l.depth ≤ fs.length)) } f.addr))) ∧
  (∀ (s : State) (t : TorIdx) (c : CtxIdx) (im : Sched) (f : RetFrame) (fs : List RetFrame) (tile desc : Nat),
    s.issuingOf t c im → (s.tor t).stack = f :: fs → f.settle = true → (s.tor t).settleTile = some (tile, desc) →
    let back := s.setTor t { s.tor t with stack := fs, loops := (s.tor t).loops.filter (fun l => decide (l.depth ≤ fs.length)),
                                          pc := BitVec.ofNat 32 f.addr, state := 3 }
    s.runsTo c (.ret t) (((back.pushLater c t (.ceilReport tile desc)).settleLater c t).resumeSettle c desc)) ∧
  (∀ (s : State) (t : TorIdx) (c : CtxIdx) (im : Sched) (branch : BitVec 4) (skip : BitVec 20), s.issuingOf t c im →
    (s.ctx c).replayWaits (im.workOfWord t.toNat (s.tor t).pc.toNat) = false →
    s.runsTo c (.skipb t branch skip)
      (if bit (s.branchMask (s.ctx c) im t (s.tor t).pc.toNat) branch.toNat then s.setTor t (s.tor t).next
       else s.skipRange c im t skip.toNat))) ∧
  (∀ (s : State) (i : Instr) (t : TorIdx) (w : BitVec 128), i.torWord = some (t, w) → (∀ c, s.asks c t w = false) →
    exec i s = .next s ∨ ∃ name, exec i s = .refused (.reservedEncoding name))

/-! ## Tor words: vectors (R91 to R95, R125, R126) -/

/-- R91 to R95, R125: VADD to VSQRT and VCVT complete on every issuing tor where SUB and MODE are not reserved, in fast and
in strict mode: the active lanes of VD take the lane's result, and the program counter moves on. R125, R126: VRED, VDROP,
VRAND, VFPF and VBCAST complete on every issuing tor, in every mode that is not reserved. R125: VCMP completes on every
issuing tor where PD is not 0 and MODE is not reserved. In PD each active lane's bit is the comparison's outcome and each
inactive lane's bit keeps its value; in fast mode the flags stay, in strict mode at most the invalid flag is added; besides
the tor only the count of free values changes. -/
def Obligations.VectorWordsComplete : Prop :=
  (∀ (s : State) (t : TorIdx) (c : CtxIdx) (o : VOp) (md : FpMode), s.issuing t c → vmode (s.pilot c) o.mode = some md →
    let r := s.tor t
    let done (f : F32 → F32 → F32 → FpRes) : State := s.setTor t (r.vlanes t (r.lanes t o.pred o.pneg) o.vd.toNat (fun j =>
      f (vlane (r.readV t o.va.toNat) j) (vlane (r.readV t o.vb.toNat) j) (vlane (r.readV t o.vc.toNat) j))).next
    (o.sub = 0 →
      s.runsTo c (.vadd t o) (done (fun a b _ => fpAdd md a b)) ∧
      s.runsTo c (.vsub t o) (done (fun a b _ => fpSub md a b)) ∧
      s.runsTo c (.vmul t o) (done (fun a b _ => fpMul md a b)) ∧
      s.runsTo c (.vfma t o) (done (fun a b d => fpFma md a b d)) ∧
      s.runsTo c (.vmin t o) (done (fun a b _ => fpMinMax md false a b)) ∧
      s.runsTo c (.vmax t o) (done (fun a b _ => fpMinMax md true a b)) ∧
      s.runsTo c (.vdiv t o) (done (fun a b _ => fpDiv md a b)) ∧
      s.runsTo c (.vsqrt t o) (done (fun a _ _ => fpSqrt md a)) ∧
      s.runsTo c (.vcvt t o) (done (fun a _ _ => fpToInt md a))) ∧
    (o.sub = 1 → s.runsTo c (.vcvt t o) (done (fun a _ _ => intToFp md a.toInt))) ∧
    (o.sub = 0 → bit o.mode 3 = false →
      s.runsTo c (.vrcp t o) (done (fun a _ _ => { val := recipFast (md == .fast true) a })) ∧
      s.runsTo c (.vrsq t o) (done (fun a _ _ => { val := rsqrtFast (md == .fast true) a })))) ∧
  ((∀ (s : State) (t : TorIdx) (c : CtxIdx) (o : VRedOp) (md : FpMode), s.issuing t c → vmode (s.pilot c) o.mode = some md →
    let r := s.tor t
    let act := r.lanes t o.pred o.pneg
    let q := redTree md 5 ((List.range 32).map (fun j => if bit act j then vlane (r.readV t o.va.toNat) j else 0)) 0
    s.runsTo c (.vred t o) (s.setTor t
      (Tor.writeV { r with fpf := r.fpf ||| q.2 } o.vd.toNat (setLane 32 (r.readV t o.vd.toNat) 0 q.1)).next)) ∧
  (∀ (s : State) (t : TorIdx) (c : CtxIdx) (o : VDropOp) (md : FpMode), s.issuing t c → vmode (s.pilot c) o.mode = some md →
    let r := s.tor t
    s.runsTo c (.vdrop t o) (s.setTor t (r.vlanes t (r.lanes t o.pred o.pneg) o.vd.toNat (fun j =>
      if ((r.readS t o.sthr.toNat).setWidth 32 : BitVec 32).toNat ≤ (s.draw c r t o.desc.toNat o.sidx.toNat o.dlane.toNat j).toNat
      then fpMul md (vlane (r.readV t o.va.toNat) j) o.factor else { val := 0 })).next)) ∧
  (∀ t o, TorWord (.vrand t o) t (fun s c r => (r.vlanes t (r.lanes t (VRandOp.pred o) o.pneg) o.vd.toNat (fun j =>
    { val := uniformOf (s.draw c r t o.desc.toNat o.sidx.toNat o.dlane.toNat j) })).next)) ∧
  (∀ t sd clear, TorWord (.vfpf t sd clear) t (fun _ _ r =>
    (Tor.writeS { r with fpf := if clear then 0 else r.fpf } sd.toNat (r.fpf.setWidth 64)).next)) ∧
  (∀ t pred pneg vd sa, TorWord (.vbcast t pred pneg vd sa) t (fun _ _ r =>
    (r.vlanes t (r.lanes t pred pneg) vd.toNat (fun _ => { val := (r.readS t sa.toNat).setWidth 32 })).next))) ∧
  (∀ (s : State) (t : TorIdx) (c : CtxIdx) (o : VCmpOp) (md : FpMode), s.issuing t c → vmode (s.pilot c) o.mode = some md →
    o.pd ≠ 0 → s.nextWord c (.vcmp t o) →
    let r := s.tor t
    let act := r.lanes t o.pred o.pneg
    ∃ (fl : BitVec 5) (n : Nat) (bits : BitVec 32),
      exec (.vcmp t o) s = .next ({ s with free := n }.setTor t (Tor.writeP { r with fpf := r.fpf ||| fl } o.pd.toNat bits).next) ∧
      (fl = 0 ∨ fl = flInvalid) ∧ (md.isFast = true → fl = 0 ∧ n = s.free) ∧ s.free ≤ n ∧
      ∀ j, j < 32 → bit bits j =
        if bit act j then (fpCompare md o.cmp.toNat (vlane (r.readV t o.va.toNat) j) (vlane (r.readV t o.vb.toNat) j)).1
        else bit (r.readP t o.pd.toNat) j)

/-- R116, R93, R125: the vector words that no image may hold are refused by name: a reserved SUB or MODE, and VRCP or VRSQ
in strict mode. -/
def Obligations.ReservedVectorWordsRefused : Prop :=
  (∀ (t : TorIdx) (o : VOp), (o.sub ≠ 0 ∨ vmodeOk o.mode = false) →
    RefusedAs (.vadd t o) "VADD" ∧ RefusedAs (.vsub t o) "VSUB" ∧ RefusedAs (.vmul t o) "VMUL" ∧ RefusedAs (.vfma t o) "VFMA" ∧
    RefusedAs (.vmin t o) "VMIN" ∧ RefusedAs (.vmax t o) "VMAX" ∧ RefusedAs (.vdiv t o) "VDIV" ∧ RefusedAs (.vsqrt t o) "VSQRT" ∧
    RefusedAs (.vrcp t o) "VRCP" ∧ RefusedAs (.vrsq t o) "VRSQ") ∧
  (∀ (t : TorIdx) (o : VOp), (2 ≤ o.sub.toNat ∨ vmodeOk o.mode = false) → RefusedAs (.vcvt t o) "VCVT") ∧
  (∀ (t : TorIdx) (o : VOp), bit o.mode 3 = true → RefusedAs (.vrcp t o) "VRCP" ∧ RefusedAs (.vrsq t o) "VRSQ") ∧
  (∀ (t : TorIdx) (o : VCmpOp), (o.pd = 0 ∨ vmodeOk o.mode = false) → RefusedAs (.vcmp t o) "VCMP") ∧
  (∀ (t : TorIdx) (o : VRedOp), vmodeOk o.mode = false → RefusedAs (.vred t o) "VRED") ∧
  (∀ (t : TorIdx) (o : VDropOp), vmodeOk o.mode = false → RefusedAs (.vdrop t o) "VDROP") ∧
  (∀ mode : BitVec 4, vmodeOk mode = decide (mode.toNat = 0 ∨ (8 ≤ mode.toNat ∧ mode.toNat ≤ 12)))

/-- R126, R129, R131, R100: VLD and VST on an issuing tor. A bad address stops the tor; a queued tor-store load of the range,
or an earlier pass's drain to it (the model's reading, log entry 132), makes the word wait; else VLD loads the active lanes,
VST stores them, and the program counter moves on. The words corrected are counted, by a VST only those it reads because
it writes them in part. An uncorrectable word fails the work: VLD then leaves VD, and VST leaves such a word as it was and
stores the rest. R126: VST stores exactly the active lanes: byte b of the tor store within the 128 bytes of the access takes
lane j's byte where lane j is active and its word is not a bad one, and every other byte reads as before. -/
def Obligations.StoreAccessWordsComplete : Prop :=
  (∀ (s : State) (t : TorIdx) (c : CtxIdx) (im : Sched) (o : VMemOp) (ecc : EccObs), s.issuingOf t c im →
    let r := s.tor t
    let act := r.lanes t o.pred o.pneg
    (vaddr r t o = none → s.runsTo c (.vld t o ecc) (s.stopTor c im t) ∧ s.runsTo c (.vst t o ecc) (s.stopTor c im t)) ∧
    (∀ a, vaddr r t o = some a → s.rangePending c t a (a + 128) = true →
      s.runsTo c (.vld t o ecc) s ∧ s.runsTo c (.vst t o ecc) s) ∧
    (∀ a, vaddr r t o = some a → s.rangePending c t a (a + 128) = false →
      (ecc.bad = [] → s.runsTo c (.vld t o ecc) (s.setTor t
        (Tor.writeV (r.noteEcc ecc) o.v.toNat (packLanes 1024 32 ((List.range 32).map (fun j =>
          if bit act j then vlane (ofLe 1024 (memBytes r.store a 128)) j else vlane (r.readV t o.v.toNat) j)))).next)) ∧
      (ecc.bad ≠ [] → s.runsTo c (.vld t o ecc) (((s.setTor t (r.noteEcc ecc)).failEcc c im t).pcNext t)) ∧
      (let bad := (partWords act).filter ecc.bad.contains
       let r' : Tor := { (if (partWords act).isEmpty then r else r.noteEcc ecc) with
         store := storeLanes r.store a (r.readV t o.v.toNat) act bad }
       (bad = [] → s.runsTo c (.vst t o ecc) ((s.setTor t r').pcNext t)) ∧
       (bad ≠ [] → s.runsTo c (.vst t o ecc) (((s.setTor t r').failEcc c im t).pcNext t))))) ∧
  (∀ (m : Memory) (a : Nat) (v : BitVec 1024) (act : BitVec 32) (bad : List Nat) (b : Nat),
    memByte (storeLanes m a v act bad) b =
      if a ≤ b ∧ b < a + 128 ∧ bit act ((b - a) / 4) = true ∧ bad.contains ((b - a) / 8) = false
      then (v.extractLsb' (8 * (b - a)) 8) else memByte m b)

/-! ## Tor words: conversion, tokens, streams, hand-over (R128, R130 to R141) -/

/-- R128, R129, R131, R68: QNT and ROTQ on an issuing tor. A bad address stops the tor, a queued tor-store load of the range,
or an earlier pass's drain to it (the model's reading, log entry 132), makes the word wait; else the blocks are converted,
counted, and written, a ROTQ's through the port of the tensor's HOME, and the program counter moves on; the words corrected
are counted; an uncorrectable word or a bad input fails the work and writes nothing. R128, R151: DEQ on an issuing tor whose
planes are all valid decodes its blocks into the tor store and moves on, or fails the word with the first cause met; with
planes missing it asks for them once and waits; a zero block needs none (R48). PL = 3 is refused. -/
def Obligations.ConversionWordsComplete : Prop :=
  (∀ (s : State) (t : TorIdx) (c : CtxIdx) (im : Sched) (o : ConvOp) (ecc : EccObs), s.issuingOf t c im →
    let d := im.desc o.desc.toNat
    let range := o.tsaddr.toNat + convExtent d o
    (convAddrOk d o = false → s.runsTo c (.qnt t o ecc) (s.stopTor c im t) ∧ s.runsTo c (.rotq t o ecc) (s.stopTor c im t)) ∧
    (convAddrOk d o = true → s.rangePending c t o.tsaddr.toNat range = true →
      s.runsTo c (.qnt t o ecc) s ∧ s.runsTo c (.rotq t o ecc) s) ∧
    (convAddrOk d o = true → s.rangePending c t o.tsaddr.toNat range = false →
      let s' := s.setTor t ((s.tor t).noteEcc ecc)
      (ecc.bad ≠ [] → s.runsTo c (.qnt t o ecc) ((s'.failEcc c im t).pcNext t) ∧
        s.runsTo c (.rotq t o ecc) ((s'.failEcc c im t).pcNext t)) ∧
      (ecc.bad = [] →
        (∀ qs, s'.qntBlocks c im t o = some qs → s.runsTo c (.qnt t o ecc) (s'.storeConverted c im t t d qs)) ∧
        (s'.qntBlocks c im t o = none → s.runsTo c (.qnt t o ecc) ((s'.failWord c im t 0x07).pcNext t)) ∧
        (∀ qs, s'.rotqBlocks c im t o = some qs → s.runsTo c (.rotq t o ecc) (s'.storeConverted c im t d.homePort d qs)) ∧
        (s'.rotqBlocks c im t o = none → s.runsTo c (.rotq t o ecc) ((s'.failWord c im t 0x07).pcNext t))))) ∧
  ((∀ (t : TorIdx) (o : ConvOp), o.pl = 3 → RefusedAs (.deq t o) "DEQ") ∧
  ∀ (s : State) (t : TorIdx) (c : CtxIdx) (im : Sched) (o : ConvOp), s.issuingOf t c im → o.pl ≠ 3 →
    let d := im.desc o.desc.toNat
    let x := s.ctx c
    let missing := ((List.range o.count.toNat).map (o.seq.toNat + ·)).filter
      (fun q => !(s.missingPlanes x im o.desc.toNat q (s.deqPlanes x im o q)).isEmpty)
    (d.cls ≠ 6 ∨ x.replayWaits (im.workOfWord t.toNat (s.tor t).pc.toNat) = false) → convAddrOk d o = true →
    s.rangePending c t o.tsaddr.toNat (o.tsaddr.toNat + convExtent d o) = false →
    (missing = [] →
      (∀ s', (s.setTor t { s.tor t with deqWait := false }).deqBlocks c im t o o.count.toNat 0 = ([], s') →
        s.runsTo c (.deq t o) (s'.pcNext t)) ∧
      (∀ k ks s', (s.setTor t { s.tor t with deqWait := false }).deqBlocks c im t o o.count.toNat 0 = (k :: ks, s') →
        s.runsTo c (.deq t o) ((s'.failItem c (im.workOfWord t.toNat (s'.tor t).pc.toNat) k 7 t.toNat ks.length).pcNext t))) ∧
    (missing ≠ [] →
      s.runsTo c (.deq t o) (missing.foldl (fun s q => s.fetchPlanes c im o.desc.toNat q o.pl.toNat)
        (s.setTor t { s.tor t with deqWait := true }))))

/-- R133, R134: WAIT completes at once where its counter has reached COUNT, and else waits with the program counter where it
is; SIGNAL joins the effects that follow the tor's earlier words, and the program counter moves on. A local SIGNAL with a
SYSADDR is refused. R133: a local SIGNAL of a tor with nothing outstanding raises its counter by INC at once, up to 65,535,
where no tor waits for a token; the program counter moves on, and no byte of memory changes. -/
def Obligations.TokenWordsComplete : Prop :=
  ((∀ (s : State) (t : TorIdx) (c : CtxIdx) (im : Sched) (token : BitVec 17) (count : BitVec 16) (remote : Bool), s.issuingOf t c im →
    (count ≤ mapGet 0 (s.ctx c).tokens token.toNat →
      s.runsTo c (.wait t token count remote) (s.completeWait c im t token.toNat count.toNat remote)) ∧
    (¬ count ≤ mapGet 0 (s.ctx c).tokens token.toNat →
      s.runsTo c (.wait t token count remote)
        (s.setTor t { s.tor t with state := 2, waitToken := some (token.toNat, count.toNat, remote) }))) ∧
  (∀ (s : State) (t : TorIdx) (c : CtxIdx) (im : Sched) (token : BitVec 17) (sys : BitVec 15) (remote : Bool) (inc : BitVec 16),
    s.issuingOf t c im → (remote = true ∨ sys = 0) →
      s.runsTo c (.signal t token sys remote inc) (((s.pushLater c t (.signal token.toNat sys remote inc.toNat)).pcNext t).settleLater c t)) ∧
  (∀ t token sys inc, sys ≠ 0 → RefusedAs (.signal t token sys false inc) "SIGNAL")) ∧
  (∀ (s : State) (t : TorIdx) (c : CtxIdx) (im : Sched) (token : BitVec 17) (inc : BitVec 16), s.issuingOf t c im →
    (s.tor t).later = [] → (s.tor t).openPasses = [] → s.openLoads c t = [] → s.rotOpen (s.ctx c) im t = false →
    (∀ e ∈ im.tors, (s.tor (BitVec.ofNat 13 e.tor)).state ≠ 2) → s.nextWord c (.signal t token 0 false inc) →
    ∃ s', exec (.signal t token 0 false inc) s = .next s' ∧
      (mapGet 0 (s'.ctx c).tokens token.toNat).toNat = min ((mapGet 0 (s.ctx c).tokens token.toNat).toNat + inc.toNat) 65535 ∧
      (∀ k, k ≠ token.toNat → mapGet 0 (s'.ctx c).tokens k = mapGet 0 (s.ctx c).tokens k) ∧
      (s'.tor t).pc = (s.tor t).next.pc ∧ s'.mem = s.mem ∧ s'.links = s.links ∧ s'.pending = s.pending)

/-- R130, R131, R140, R141, R175: LDQ queues its stream behind the tor's other loads where the queue has room, and stalls
where it holds 64; DRQ stores the stream's blocks, or fails where a word of the tor store cannot be corrected; HAND joins the
effects that follow the tor's earlier words; CAIRN queues the step report and leaves the tor waiting at its CAIRN word. An LDQ
that is one of CAIRN's PRE words is queued too, with the program counter at CAIRN, and the last of a released tor takes it to
word 0. -/
def Obligations.StreamWordsComplete : Prop :=
  (∀ (s : State) (t : TorIdx) (stream : BitVec 24), 64 ≤ (s.tor t).loads.length → exec (.ldq t stream) s = .next s) ∧
  (∀ (s : State) (t : TorIdx) (c : CtxIdx) (im : Sched) (stream : BitVec 24), s.issuingOf t c im →
    (s.tor t).loads.length < 64 →
    s.runsTo c (.ldq t stream) ((s.setTor t { (s.tor t).next with
      loads := (s.tor t).loads ++ [{ stream := stream.toNat, owner := (s.tor t).tileSeq, uid := (s.tor t).loadSeq,
                                     word := (s.tor t).pc.toNat, ring := (im.load stream.toNat).target != 0,
                                     dyn := (s.tor t).rung != 0 }],
      loadSeq := (s.tor t).loadSeq + 1 }).progress c t)) ∧
  (∀ (s : State) (t : TorIdx) (c : CtxIdx) (im : Sched) (stream : BitVec 24), s.runner t = some c → (s.ctx c).image = some im →
    s.preIssuer t = true → (s.tor t).loads.length < 64 →
    let r : Tor := { s.tor t with
      loads := (s.tor t).loads ++ [{ stream := stream.toNat, owner := (s.tor t).tileSeq, uid := (s.tor t).loadSeq, pre := true,
                                     word := (s.tor t).pc.toNat + 1 + (s.tor t).preDone, ring := (im.load stream.toNat).target != 0,
                                     dyn := (s.tor t).rung != 0 }],
      loadSeq := (s.tor t).loadSeq + 1, preLeft := (s.tor t).preLeft - 1, preDone := (s.tor t).preDone + 1 }
    s.runsTo c (.ldq t stream) (if (s.tor t).preLeft - 1 = 0 ∧ (s.tor t).released then (s.setTor t r).leaveCairn c t
      else (s.setTor t r).progress c t)) ∧
  (∀ (s : State) (t : TorIdx) (c : CtxIdx) (im : Sched) (stream : BitVec 24) (ecc : EccObs), s.issuingOf t c im →
    let e := im.load stream.toNat
    let d := im.desc e.desc
    let busy := s.rangePending c t e.tsaddr (e.tsaddr + 32 * d.blockBursts * e.count)
    let s' := s.setTor t ((s.tor t).noteEcc ecc)
    (busy = false → ecc.bad = [] → s.runsTo c (.drq t ⟨stream, ecc⟩) ((s'.drqBlocks t d e e.count 0).pcNext t)) ∧
    (busy = false → ecc.bad ≠ [] → s.runsTo c (.drq t ⟨stream, ecc⟩) ((s'.failEcc c im t).pcNext t)) ∧
    (busy = true → s.runsTo c (.drq t ⟨stream, ecc⟩) s)) ∧
  (∀ (s : State) (t : TorIdx) (c : CtxIdx) (im : Sched) (desc : BitVec 16) (tile : BitVec 20) (chunk : BitVec 24) (slot : BitVec 4),
    s.issuingOf t c im → s.runsTo c (.hand t desc tile chunk slot)
      (((s.pushLater c t (.hand desc.toNat tile.toNat chunk.toNat slot.toNat (s.tor t).pc.toNat)).pcNext t).settleLater c t)) ∧
  (∀ (s : State) (t : TorIdx) (c : CtxIdx) (im : Sched) (pre : BitVec 12), s.issuingOf t c im →
    let s' := s.pushLater c t (.stepReport pre.toNat)
    s.runsTo c (.cairn t pre) ((s'.setTor t { s'.tor t with state := 4 }).progress c t))

/-! ## The array (R82, R87, R88, R102 to R106, R122 to R124, R132) -/

/-- R122, R123: TMM and TCONV complete on every issuing tor whose queue holds fewer than the one running pass and eight
behind it: the word enters the queue and the program counter moves on. Where the queue is full the word stalls; a plane count
of 3 is refused. R102, R104, R121: TILE_PASS_START completes on every unfused tor that has issued a pass and has room for it
in the array, where both copies of each row's delay agree with the repair map: the pass leaves the queue, enters the array
with the live ceilings of its operands and output latched, and a pass before it goes on in the other register set. Where a
copy differs, the pass fails with ARR_SKEW before its first wave. -/
def Obligations.TileWordsComplete : Prop :=
  ((∀ (s : State) (t : TorIdx) (c : CtxIdx) (im : Sched) (o : TileOp), s.issuingOf t c im → o.apl ≠ 3 → o.bpl ≠ 3 →
    let enter (conv : Bool) : State := (s.setTor t { (s.tor t).next with
      passes := (s.tor t).passes ++ [{ conv := conv, op := o, rung := (im.drain t.toNat o.drain.toNat).rung, uid := (s.tor t).tileSeq }],
      tileSeq := (s.tor t).tileSeq + 1 }).progress c t
    ((s.tor t).queued < 9 →
      (s.nextWord c (.tmm t o) → exec (.tmm t o) s = .next (enter false)) ∧
      (s.nextWord c (.tconv t o) → exec (.tconv t o) s = .next (enter true))) ∧
    (9 ≤ (s.tor t).queued → exec (.tmm t o) s = .next s ∧ exec (.tconv t o) s = .next s)) ∧
  (∀ (t : TorIdx) (o : TileOp), (o.apl = 3 ∨ o.bpl = 3) → RefusedAs (.tmm t o) "TMM" ∧ RefusedAs (.tconv t o) "TCONV")) ∧
  (∀ (s : State) (t : TorIdx) (c : CtxIdx) (im : Sched) (q : PassReq) (rest : List PassReq) (bs cs : List DelayUpset),
    s.runner t = some c → (s.ctx c).image = some im → s.fused t = false → (s.tor t).roomForPass = true →
    (s.tor t).passes = q :: rest →
    let r0 := (bs.filter (fun u => u.tor == 0)).foldl (Tor.upsetDelay false) (s.tor t)
    let r := (cs.filter (fun u => u.tor == 0)).foldl (Tor.upsetDelay true) r0
    let s' := s.setTor t { r with passes := rest, pass := some (s.newPass c im t q), tail := if r.pass.isSome then r.pass else r.tail }
    let bad := (List.range 4).filter (fun l => !r.delayOk l)
    (bad = [] → exec (.tilePassStart t bs cs) s = .next (s'.progress c t)) ∧
    (bad ≠ [] → exec (.tilePassStart t bs cs) s =
      .next (s'.failWith c im t false (bad.map (fun l => (t, 0x0A, physRow r.rowOut l))))))

/-- R82, R85, R87: one wave of one output element, no upset present. The residues of the operands, the multipliers and the
segment register agree with what they belong to, so no ARI_RESIDUE is reported; where no cause is reported the residue of the
segment register and that of the exact register follow their registers. -/
def Obligations.ResiduesFollowRegisters : Prop :=
  ∀ (digA : Bool) (pz : Nat) (anchor : Int) (a b : Slice) (fold : Bool) (g : Cell),
    mod127 g.seg = g.segRes → mod127 g.exact = g.res →
    -(2 ^ 35) ≤ g.seg + (cellProducts digA pz a b []).sum → g.seg + (cellProducts digA pz a b []).sum < 2 ^ 35 →
    -(2 ^ 35) ≤ g.seg → g.seg < 2 ^ 35 →
    0x01 ∉ (cellStep digA pz anchor a b fold [] g).2.1 ∧
    ((cellStep digA pz anchor a b fold [] g).2.1 = [] →
      mod127 (cellStep digA pz anchor a b fold [] g).1.seg = (cellStep digA pz anchor a b fold [] g).1.segRes ∧
      mod127 (cellStep digA pz anchor a b fold [] g).1.exact = (cellStep digA pz anchor a b fold [] g).1.res)

/-- R99, R104, R105: a wave of a pass alone in an unfused tor's array, whose slices are there, which meets no cause and fits
the outlier queues, runs: the registers take the wave's products, the wave count grows by one, the row buffer and the feeders
hold its slices, and the queues form one product each. A wave that lacks a slice, or that a queue has no room for, freezes the
tor; one that meets a cause fails the pass. R87, R132, R143: TILE_PASS_END ends an unfused pass alone in the array once its
waves are issued and its outlier queues are empty and the drain has room: where its residues agree, its converted output
enters the drain buffer with its counts and log-norm and its register set is free; where an exact register disagrees with its
residue, a value to rotate is not finite, or a word of the tor store that the drain writes in part cannot be corrected (R100),
the pass fails. R132: DRAIN_RELEASE writes the oldest entry that needs no NCHK,
or whose NCHK left KEEP, to its destination, and the lead adds its counts to its tile; with none it changes nothing. -/
def Obligations.TilePassRuns : Prop :=
  (∀ (s : State) (t : TorIdx) (c : CtxIdx) (im : Sched) (p : Pass) (o : WaveObs),
    s.runner t = some c → (s.ctx c).image = some im → s.fused t = false → (s.tor t).tail = none → (s.tor t).pass = some p →
    p.wave < s.totalWaves t p →
    (s.torWave t false p o = none → exec (.wave t [o]) s = .next (s.freeze [t])) ∧
    (∀ w, s.torWave t false p o = some w →
      let needs := (List.range 4).map (nth 0 w.needs)
      let full := (List.zip (s.tor t).queues needs).any (fun q => q.1 != 0 && decide (32 < q.1 + q.2))
      let cs := w.causes.map (fun z => (t, z)) ++ (if decide (p.wave < p.waves) && !o.ecc.bad.isEmpty then [(t, 0x08, 7)] else [])
      let s' := s.setTor t { (s.tor t).noteEcc o.ecc with
        pass := some { w.pass with wave := w.pass.wave + 1 }, queues := List.zipWith (· + ·) (s.tor t).queues needs,
        rowBuffer := w.rowBuffer.foldl (fun m e => regPut m e.1 e.2) (s.tor t).rowBuffer,
        feeders := w.feeders.foldl (fun m e => regPut m e.1 e.2) (s.tor t).feeders }
      (full = true → exec (.wave t [o]) s = .next (s.freeze [t])) ∧
      (full = false → cs = [] → exec (.wave t [o]) s = .next (s'.drainQueues [t])) ∧
      (full = false → cs ≠ [] → exec (.wave t [o]) s =
        .next ((s'.failWith c im t false ((cs ++ w.pass.met.map (fun m => (t, m.cause, m.phys))).eraseDups)).drainQueues [t])))) ∧
  (∀ (s : State) (t : TorIdx) (c : CtxIdx) (im : Sched) (p : Pass) (us : List RegisterUpset)
      (ecc : EccObs),
    s.runner t = some c → (s.ctx c).image = some im → s.fused t = false → (s.tor t).tail = none → (s.tor t).pass = some p →
    s.totalWaves t p ≤ p.wave → (s.tor t).queues.all (· == 0) = true → (s.tor t).drains.length < 2 →
    let p' := p.upset ((us.filter (fun u => u.tor == 0)).map (fun u => (u.elem, u.bit)))
    let z := s.drained c im t p'
    let tile := p'.req.op.tile.toNat
    let n := DrainEntry.norm p'.drain
    let part := DrainEntry.toStore p.drain
    let r0 := if part then (s.tor t).noteEcc ecc else s.tor t
    let lost := part && !ecc.bad.isEmpty
    let r := Tor.dropOperands { r0 with pass := none } p'.req.uid
    (p'.badRows = [] → z.nan = false → lost = false →
      exec (.tilePassEnd t us [ecc]) s = .next ((s.setTor t { r with
        failedTiles := (s.tor t).failedTiles.filter (· != tile),
        drains := if (s.tor t).stopped && n then (s.tor t).drains else (s.tor t).drains ++
          [{ uid := p'.req.uid, tile := tile, drain := p'.drain, ceiling := p'.od.ceiling, blocks := z.blocks, raw := z.raw,
             counts := Counts.sum {} z.counts, norm := n, rung := p'.req.rung, sat32 := z.sat32,
             logNorm := if n then logNorm z.norm p'.od.ceiling else 0 }] }).progress c t)) ∧
    (p'.badRows ≠ [] ∨ z.nan = true ∨ lost = true → exec (.tilePassEnd t us [ecc]) s = .next ((s.setTor t r0).failWith c im t false
      (p'.badRows.map (fun l => (t, 0x01, physRow (s.tor t).rowOut l)) ++ (if z.nan then [(t, 0x07, 7)] else [])
        ++ (if lost then [(t, 0x08, 7)] else []))))) ∧
  (∀ (s : State) (t : TorIdx) (c : CtxIdx) (im : Sched), s.runner t = some c → (s.ctx c).image = some im →
    ((s.tor t).drains.find? (fun b => !b.norm || b.decided) = none → exec (.drainRelease t) s = .next s) ∧
    (∀ b, (s.tor t).drains.find? (fun b => !b.norm || b.decided) = some b →
      let s0 := s.setTor t { s.tor t with drains := (s.tor t).drains.erase b }
      let s1 := if s.leadOf t = t then s0.setCtx c ((s0.ctx c).keepCounts (s0.tileNo im t b.tile) b.counts b.sat32) else s0
      let r := s1.releaseEntry c im t b
      let s2 := if r.1 then r.2.failTile c im t b.tile else r.2
      (b.raw = [] → exec (.drainRelease t) s = .next ((s2.group t).foldl (fun s u => s.progress c u) s2)) ∧
      (b.raw ≠ [] → exec (.drainRelease t) s =
        .next (im.tors.foldl (fun s e => s.progress c (BitVec.ofNat 13 e.tor)) s2))))

/-! ## Switchback, alternates, settle, storm (R136 to R138, R147 to R154, R71) -/

/-- R136: NCHK completes on every issuing tor of an unfused ridge that holds the tile's norm result: it takes the ladder's
decision, keeps or discards the drain entry, and moves on; with the pass still open it waits; with the pass failed it leaves
KEEP and moves on. R147, R148: the ladder's first step. A rung-0 result that agrees with its reference within the two jump
thresholds is kept and moves a valid reference by an eighth of the difference, rounded down; a result that jumps selects the
wider format of rung 1 where one exists, and is kept and counted as NO_WIDER where none does. -/
def Obligations.NormCheckCompletes : Prop :=
  (∀ (s : State) (t : TorIdx) (c : CtxIdx) (im : Sched) (tile : BitVec 20), s.issuingOf t c im →
    s.nextWord c (.nchk t tile) → s.fused t = false →
    let k := tile.toNat
    let n := s.tileNo im t k
    let x := s.ctx c
    let hit (z : DrainBuf) : Bool := z.tile == k && z.norm && !z.decided
    ((s.tor t).drains.find? hit = none →
      ((s.tor t).passOpen k = true → exec (.nchk t tile) s = .next s) ∧
      ((s.tor t).passOpen k = false → (s.tor t).failedTiles.contains k = true →
        exec (.nchk t tile) s = .next ((s.setCtx c (x.setLadder n { x.ladder n with sel := 0, seen := true })).pcNext t))) ∧
    (∀ b, (s.tor t).drains.find? hit = some b →
      let w := im.workOfTile t.toNat k
      let e := x.swbAt w n
      let l : Ladder := { x.ladder n with before := some ((x.ladder n).before.getD e), replay := (x.replayOf w).isSome }
      let d := nchkStep x.pol.thresholds (im.altEntry n 1).isSome (im.altEntry n 2).isSome b.rung b.logNorm l e
      let lad : Ladder := if Desc.movable (im.desc (DrainEntry.outDesc b.drain)) then d.lad else { d.lad with final := true }
      let s1 := (s.flbAdd (d.lad.tally.noWider - l.tally.noWider) (boolNat (b.rung == 0 && jumps x.pol.thresholds e b.logNorm))
        (boolNat (b.rung == 1)) (boolNat (b.rung == 2))).setCtx c ((x.setLadder n lad).setSwbAt w n d.entry)
      let ds := (s1.tor t).drains
      let kept : List DrainBuf := if d.sel = 0 then ds.map (fun z => if hit z then { z with decided := true } else z)
        else ds.filter (fun z => !hit z)
      let s2 := s1.setTor t { s1.tor t with drains := kept }
      exec (.nchk t tile) s = .next ((s2.pcNext t).progress c t))) ∧
  (∀ (th : Thresholds) (has1 has2 : Bool) (l : Int) (lad : Ladder) (e : Swb),
    lad.storm = false → lad.start = 0 → e.valid = true →
    (l ≠ zeroNorm → l - e.ref ≤ th.jumpUp.toNat * 2 ^ 16 → e.ref - l ≤ th.jumpDown.toNat * 2 ^ 16 →
      (nchkStep th has1 has2 0 l lad e).sel = 0 ∧
      (nchkStep th has1 has2 0 l lad e).entry = { e with ref := e.ref + (l - e.ref) / 8 } ∧
      (nchkStep th has1 has2 0 l lad e).lad.tally.up = lad.tally.up ∧ (nchkStep th has1 has2 0 l lad e).lad.tally.down = lad.tally.down) ∧
    (l ≠ zeroNorm → th.jumpUp.toNat * 2 ^ 16 < l - e.ref →
      (nchkStep th has1 has2 0 l lad e).entry = e ∧ (nchkStep th has1 has2 0 l lad e).lad.tally.up = lad.tally.up + 1 ∧
      (nchkStep th has1 has2 0 l lad e).sel = (if has1 then 1 else 0) ∧
      (nchkStep th has1 has2 0 l lad e).lad.tally.noWider = lad.tally.noWider + (if has1 then 0 else 1)) ∧
    (l = zeroNorm → (nchkStep th has1 has2 0 l lad e).sel = (if has1 then 1 else 0)))

/-- R137, R138: ALT after the rung-0 block calls the entry its selector names, or passes on with KEEP; ALT before it calls
the entry of its start rung, passes on at rung 0, and waits while the storm verdict it needs is out; SETTLE sends its report
behind the tor's earlier words and waits for the home's outcome. -/
def Obligations.AlternateWordsComplete : Prop :=
  ∀ (s : State) (t : TorIdx) (c : CtxIdx) (im : Sched) (tile : BitVec 20), s.issuingOf t c im →
    (∀ skip, (s.ctx c).replayWaits (im.workOfTile t.toNat tile.toNat) = false →
      let n := s.tileNo im t tile.toNat
      (((s.ctx c).ladder n).sel = 0 → s.runsTo c (.alt t tile true skip) (s.setTor t (s.tor t).next)) ∧
      (∀ a, ((s.ctx c).ladder n).sel ≠ 0 → im.altEntry n ((s.ctx c).ladder n).sel = some a →
        s.runsTo c (.alt t tile true skip) (s.setTor t
          { s.tor t with pc := BitVec.ofNat 32 a,
                         stack := { addr := (s.tor t).pc.toNat + 1, rung := ((s.ctx c).ladder n).sel, settle := false } :: (s.tor t).stack })) ∧
      (2 ≤ im.phaseOf n → (s.ctx c).verdicts.length ≤ im.phaseOf n - 2 →
        s.runsTo c (.alt t tile false skip) (s.setTor t { s.tor t with altWait := true })) ∧
      ((im.phaseOf n < 2 ∨ im.phaseOf n - 2 < (s.ctx c).verdicts.length) →
        s.runsTo c (.alt t tile false skip) (s.altBefore c im t tile.toNat skip.toNat))) ∧
    (∀ desc : BitVec 16,
      let s1 := s.pushLater c t (.ceilReport tile.toNat desc.toNat)
      s.runsTo c (.settle t tile desc)
        (((s1.setTor t { s1.tor t with state := 3, settleTile := some (tile.toNat, desc.toNat) }).settleLater c t).resumeSettle c desc.toNat))

/-- R71, R153: a home port takes the reports that have reached it, and settle runs for their tensors; a verdict is given
once every tile of the phases up to it is final, and the first verdict for a storm starts the prefetch of R154. -/
def Obligations.ReportsAndVerdictsComplete : Prop :=
  (∀ (s : State) (home : BitVec 7), s.live = true →
    let mine (r : CtxIdx × Nat × Nat × CeilReport) : Bool := (s.ctx r.1).state == 3 &&
      (match (s.ctx r.1).image with | some im => (im.desc r.2.1).home == home.toNat | none => false)
    exec (.ceilingReport home) s = .next
      ((s.ceilInbox.filter mine).foldl State.takeReport { s with ceilInbox := s.ceilInbox.filter (fun r => !mine r) })) ∧
  (∀ (s : State) (c : CtxIdx) (im : Sched), s.live = true → (s.ctx c).state = 3 → (s.ctx c).image = some im →
    (s.ctx c).verdicts.length ≤ 63 →
    let p := (s.ctx c).verdicts.length
    let ts := s.normTiles im
    ((ts.filter (fun t => decide (t.2.1 ≤ p))).all (fun t => ((s.ctx c).ladder t.1).final) = true →
      let w := ts.foldl (fun a t => a + t.2.2) 0
      let early := ts.filter (fun t => decide (t.2.1 ≤ p) && ((s.ctx c).ladder t.1).jumped && !((s.ctx c).ladder t.1).storm)
      let f := early.foldl (fun a t => a + t.2.2) 0
      let prev := decide (1 ≤ p) && nth false (s.ctx c).verdicts (p - 1)
      let v := prev || decide ((s.ctx c).pol.thresholds.stormFraction.toNat * w < 256 * f)
      (v = true → prev = false → exec (.stormVerdict c) s = .next
        ((s.setCtx c { s.ctx c with verdicts := (s.ctx c).verdicts ++ [true], entryPhase := some p }).prefetchPlanes c im p)) ∧
      ((v = false ∨ prev = true) → exec (.stormVerdict c) s = .next
        (s.setCtx c { s.ctx c with verdicts := (s.ctx c).verdicts ++ [v] }))))

/-! ## Memory: the address map, the burst code, the subchannels (R161 to R171, R176, R177, R181, R391) -/

/-- R162: within its massif region, burst k of massif m is held by the subchannel that folds k's six-bit fields, at location
k / 64. For a fixed location the subchannel runs through all 64 values as the low six bits do, and the map of the module's
bursts to subchannels and locations is one to one. -/
def Obligations.AddressMapOneToOne : Prop :=
  (∀ m k, m < 4 → k < 0x300000000 →
    subOf (m * 0x300000000 + k) = 64 * m +
      (k % 64 ^^^ k / 64 % 64 ^^^ k / 4096 % 64 ^^^ k / 262144 % 64 ^^^ k / 16777216 % 64 ^^^ k / 1073741824 % 64) ∧
    locOf (m * 0x300000000 + k) = k / 64) ∧
  (∀ b, b < moduleBursts → subOf b < 256 ∧ locOf b < 201326592 ∧ burstAt (subOf b) (locOf b) = b) ∧
  (∀ sub loc, sub < 256 → loc < 201326592 →
    burstAt sub loc < moduleBursts ∧ subOf (burstAt sub loc) = sub ∧ locOf (burstAt sub loc) = loc) ∧
  (∀ j, 64 * j < moduleBursts → ∃ m, m < 4 ∧ ∀ sub, sub < 64 → ∃ i, i < 64 ∧ subOf (64 * j + i) = 64 * m + sub)

/-- R166 to R168, R171: a burst that is written reads back clean, whatever its 272 bits; one written with poison reads as
poison; and an error confined to one of the 72 four-bit symbols is corrected. -/
def Obligations.BurstCodeCorrects : Prop :=
  (∀ d : BitVec 272, decodeBurst (encodeBurst d) = .clean d) ∧
  (∀ d : BitVec 272, decodeBurst (poisonBurst d) = .poison) ∧
  (∀ (d : BitVec 272) (i : Nat) (e : BitVec 4), i < 72 → e ≠ 0 →
    decodeBurst (encodeBurst d ^^^ (e.setWidth 288 <<< (4 * i))) = .corrected d)

/-- R161, R164: a memory request to a populated address joins its subchannel's queue behind every request before it; a
write makes every granted read of its burst stale (R169). A host write after CONTAINED is dropped (R170). Of an address
beyond the memory, management gets an error completion, and no other requester can form one: there the model stops. R177:
once the memory is initialised (R165), SUBCHANNEL_GRANT takes the request that the subchannel chooses out of its queue; a
write takes effect, a read takes the 288 stored bits as they are at its grant and is stale where a write to its burst
waits behind it. The last 16 grants and the traffic counters follow. R164, R170, R177: what a subchannel may grant. Never
a request behind an earlier one for the same burst; never a read once CONTAINED; and where the head of the scheduled queue
could go, a dynamic request only while fewer than two of the last sixteen grants were dynamic. -/
def Obligations.MemoryRequestsAndGrants : Prop :=
  ((∀ (s : State) (r : MemReq), s.memWorks = true → r.addr.toNat < moduleBursts → s.writeBarred r = false →
    let r' := s.requestLeaf r
    let s1 := s.snoopFor r'
    let q := s1.sub (subOf r.addr.toNat)
    r' = { r with client := r'.client } ∧ (r.write.isSome = true → r' = r) ∧
    exec (.memoryRequest r) s = .next (s1.setSub (subOf r.addr.toNat)
      { q with queue := q.queue ++ [r'],
               inflight := if r.write.isSome then q.inflight.map (fun f => if f.req.addr = r.addr then { f with stale := true } else f)
                 else q.inflight })) ∧
  (∀ (s : State) (r : MemReq), s.memWorks = true → r.addr.toNat < moduleBursts → r.client = .host → r.write.isSome = true →
    s.mem.contained = true → exec (.memoryRequest r) s = .next s) ∧
  (∀ (s : State) (r : MemReq), s.memWorks = true → moduleBursts ≤ r.addr.toNat → r.client = .mgmt →
    exec (.memoryRequest r) s = .next (s.emit (.refusedCommand "error completion"))) ∧
  (∀ (s : State) (r : MemReq), s.memWorks = true → moduleBursts ≤ r.addr.toNat → r.client ≠ .mgmt →
    exec (.memoryRequest r) s = .fault (.unpopulated r.addr.toNat)) ∧
  (∀ (s : State) (r : MemReq), (r.client = .host ∨ s.host.snoop.contains (r.addr.toNat / 2) = false) → s.snoopFor r = s)) ∧
  (∀ (s : State) (sub : BitVec 8) (r : MemReq), s.memWorks = true → s.mem.initDone = true → s.choose sub.toNat = some r →
    (r.client == .scrub && (s.sub sub.toNat).scrubDue) = false →
    let i := sub.toNat
    let q := s.sub i
    let dyn := clientDynamic r.client
    let left := ((q.queue.erase r).filter (fun x => clientDynamic x.client)).map (fun x => s.arbPath x.client (i / 64))
    let q' : Subchannel := { q with
      queue := q.queue.erase r, recent := (q.recent <<< 1) ||| (if dyn then 1 else 0),
      rounds := if dyn then countGrant q.rounds left [] (s.arbPath r.client (i / 64)) else q.rounds,
      dynamic := q.dynamic + (if dyn then 1 else 0), scheduled := q.scheduled + (if dyn then 0 else 1) }
    (r.write = none → exec (.subchannelGrant sub) s = .next
      (s.setSub i { q' with inflight := q.inflight ++
        [{ req := r, raw := s.rawBurst r.addr.toNat, stale := (q.queue.erase r).any (fun x => x.addr == r.addr && x.write.isSome) }] })) ∧
    (∀ d, r.write = some d → (r.client == .host && s.hostCut) = false →
      exec (.subchannelGrant sub) s = .next ((s.setSub i q').performWrite r d)) ∧
    (∀ d, r.write = some d → (r.client == .host && s.hostCut) = true → exec (.subchannelGrant sub) s = .next (s.setSub i q'))) ∧
  (∀ (s : State) (i : Nat) (r : MemReq), s.choose i = some r →
    (∃ before after, (s.sub i).queue = before ++ r :: after ∧ ∀ x ∈ before, x.addr ≠ r.addr) ∧
    (s.mem.contained = true → r.write.isSome = true) ∧
    (∀ h, (s.sub i).queue.find? (fun x => !clientDynamic x.client) = some h → h ∈ s.eligible (s.sub i).queue [] →
      clientDynamic r.client = true → popCount16 (s.sub i).recent < 2) ∧
    (clientDynamic r.client = false → (s.sub i).queue.find? (fun x => !clientDynamic x.client) = some r))

/-- R168 to R171: MEMORY_READ_DONE takes the oldest granted read of the subchannel off and answers it by what its bits
decode to: a corrected burst is counted and written back unless a write reached it since, an uncorrectable one is recorded
and contains the module, poison is counted for a host read, and withdraws the module where it is committed state; data and
poison reach the tor that asked. R170: the first uncorrectable read is recorded with its address, syndrome and class and
sets CONTAINED; every later one sets MULTI_UE and leaves the record; in MODE 1 either one contains the module with cause
MEM_UE, which marks its memory suspect. -/
def Obligations.MemoryReadsComplete : Prop :=
  (∀ (s : State) (sub : BitVec 8) (flip : Burst) (f : InFlight) (rest : List InFlight), s.memWorks = true →
    (s.sub sub.toNat).inflight = f :: rest →
    let s1 := s.setSub sub.toNat { s.sub sub.toNat with inflight := rest }
    let b := f.req.addr.toNat
    (∀ d t, decodeBurst (f.raw ^^^ flip) = .clean d → f.req.client = .tor t →
      exec (.memoryReadDone sub flip) s = .next (s1.arrive t b (some d))) ∧
    (∀ d t, decodeBurst (f.raw ^^^ flip) = .corrected d → f.req.client = .tor t →
      exec (.memoryReadDone sub flip) s = .next ((s1.noteCorrected b d (!f.stale)).arrive t b (some d))) ∧
    (∀ t, decodeBurst (f.raw ^^^ flip) = .poison → f.req.client = .tor t →
      exec (.memoryReadDone sub flip) s = .next ((if s1.committedBurst b then s1.statePoison else s1).arrive t b none)) ∧
    (∀ sy t, decodeBurst (f.raw ^^^ flip) = .uncorrectable sy → f.req.client = .tor t →
      exec (.memoryReadDone sub flip) s = .next (s1.memUe b sy 1)) ∧
    (decodeBurst (f.raw ^^^ flip) = .poison → f.req.client = .host →
      exec (.memoryReadDone sub flip) s = .next { s1 with mem := { s1.mem with poisonReads := satInc s1.mem.poisonReads } })) ∧
  (∀ (s : State) (b : Nat) (sy : BitVec 16) (src : Nat), b < moduleBursts → src < 16 →
    (s.mem.contained = false →
      (s.memUe b sy src).mem.contained = true ∧ (s.memUe b sy src).mem.ueAddr = BitVec.ofNat 36 b ∧
      (s.memUe b sy src).mem.ueSynd = sy ∧ (s.memUe b sy src).mem.ueSource = BitVec.ofNat 4 src ∧
      (s.memUe b sy src).mem.multiUe = s.mem.multiUe) ∧
    (s.mem.contained = true →
      (s.memUe b sy src).mem = { s.mem with multiUe := true }) ∧
    (s.boot.mode = 1 → s.err.containState ≠ 1 →
      (s.memUe b sy src).err.containState = 1 ∧ (s.memUe b sy src).err.containCause = 0x40 ∧
      (s.memUe b sy src).dmp.active = true ∧ (s.memUe b sy src).dmp.suspect = true ∧ (s.memUe b sy src).crn.withdrawn = true) ∧
    (s.memUe b sy src).mem.cells = s.mem.cells)

/-- R391, R171: SLOT_MERGE writes the merged slot back; poison leaves the burst and fails the writer, a tor's word with
MEM_POISON, and with STATE_POISON where the burst holds committed state, the NI's with STATE_POISON. R181: SCRUB_REQUEST
queues the next scrub read, or puts it off to the grant of the one that waits. -/
def Obligations.SlotMergeAndScrubComplete : Prop :=
  (∀ (s : State) (addr : BitVec 36) (first : BitVec 3) (ws : List (BitVec 32)) (cl : Client), s.memWorks = true → s.mem.contained = false →
    (addr.toNat < moduleBursts → s.writeBarred { client := cl, addr := addr, write := some 0 } = false →
      let m := s.mergeSlot addr.toNat first.toNat ws
      (m.1 ≠ .poison → exec (.slotMerge addr first ws cl) s = .next m.2) ∧
      (∀ k, m.1 = .poison → cl = .ni k → exec (.slotMerge addr first ws cl) s = .next m.2.statePoison) ∧
      (∀ t c im, m.1 = .poison → cl = .tor t → m.2.torCtx t = some c → (m.2.ctx c).image = some im →
        exec (.slotMerge addr first ws cl) s = .next
          ((if m.2.committedBurst addr.toNat then m.2.statePoison else m.2).failWord c im t 0x0C))) ∧
    (moduleBursts ≤ addr.toNat → exec (.slotMerge addr first ws cl) s = .fault (.unpopulated addr.toNat))) ∧
  (∀ (s : State) (sub : BitVec 8), s.memWorks = true → s.mem.initDone = true →
    let q := s.sub sub.toNat
    (q.queue.any (fun r => r.client == .scrub) = true →
      exec (.scrubRequest sub) s = .next (s.setSub sub.toNat { q with scrubDue := true })) ∧
    (q.queue.any (fun r => r.client == .scrub) = false →
      exec (.scrubRequest sub) s = .next (s.setSub sub.toNat { q with
        queue := q.queue ++ [{ client := .scrub, addr := BitVec.ofNat 36 (burstAt sub.toNat q.scrubLoc), write := none }],
        scrubLoc := (q.scrubLoc + 1) % 201326592 })))

/-! ## The host's memory port (R56, R171, R184, R309, R311) -/

/-- R184, R309: host reads, writes, partial writes and writes with poison complete on a line in the committed decoder's
range while the port serves; after CONTAINED a read is answered with poison and a write is dropped. R309, R311: the host's
answers and snoops. A response ends the oldest snoop outstanding for its line, and after BISnpInv the filter forgets the
line; SNPINV and SNPDATA drop a producer line, SNPCUR keeps it. -/
def Obligations.HostAccessesComplete : Prop :=
  (∀ (s : State) (hpa : BitVec 64) (data : BitVec 512) (mask : BitVec 64) (b : Nat), s.hostServes = true → s.hostBurst hpa.toNat = some b →
    (s.hostCut = true → exec (.hostMemRead hpa) s = .next (s.emit (.memPoison hpa)) ∧
      exec (.hostMemWrite hpa data) s = .next s ∧ exec (.hostMemPoisonWrite hpa data) s = .next s ∧
      exec (.hostMemPartialWrite hpa data mask) s = .next s) ∧
    (s.hostCut = false →
      (∀ d0 d1, (s.hostRead b).1.data? = some d0 → ((s.hostRead b).2.hostRead (b + 1)).1.data? = some d1 →
        exec (.hostMemRead hpa) s = .next
          ((((s.hostRead b).2.hostRead (b + 1)).2.trackLine (b / 2)).emit (.memData hpa (payload d1 ++ payload d0)))) ∧
      exec (.hostMemWrite hpa data) s = .next
        ((s.hostStore b (data.extractLsb' 0 256) false).hostStore (b + 1) (data.extractLsb' 256 256) false) ∧
      exec (.hostMemPoisonWrite hpa data) s = .next
        ((s.hostStore b (data.extractLsb' 0 256) true).hostStore (b + 1) (data.extractLsb' 256 256) true) ∧
      (getLane 32 mask 0 ≠ 0 → getLane 32 mask 1 = 0 →
        (∀ d, (s.hostRead b).1.data? = some d → exec (.hostMemPartialWrite hpa data mask) s = .next
          ((s.hostRead b).2.hostStore b (mergeBytes (payload d) (data.extractLsb' 0 256) (getLane 32 mask 0)) false)) ∧
        (∀ sy, (s.hostRead b).1 = .uncorrectable sy → exec (.hostMemPartialWrite hpa data mask) s = .next
          ((s.hostRead b).2.memUe b sy 6))))) ∧
  ((∀ (s : State) (hpa : BitVec 64) (b w : Nat), s.powered = true → s.hostBurst hpa.toNat = some b →
    s.host.waiting.find? (fun w => w / 2 == b / 2) = some w →
    exec (.bisnpResponse hpa) s = .next { s with host := { s.host with
      waiting := s.host.waiting.erase w, snoop := if w % 2 = 1 then s.host.snoop.erase (b / 2) else s.host.snoop } }) ∧
  (∀ (s : State) (hpa : BitVec 64), s.powered = true → s.boot.cxlUp = true →
    exec (.snpinv hpa) s = .next ((s.emit (.snpResponse hpa)).dropLine hpa.toNat) ∧
    exec (.snpdata hpa) s = .next ((s.emit (.snpResponse hpa)).dropLine hpa.toNat) ∧
    exec (.snpcur hpa) s = .next (s.emit (.snpResponse hpa))))

/-- R56, R184, R171: what a full host write stores. With no request waiting for either burst, the two bursts of the line
take the data with E = 0 and FLAGS = 0, poisoned where the write carries poison, and every other byte of module memory reads
as before; nothing of the machine but its memory changes. -/
def Obligations.HostWriteStores : Prop :=
  ∀ (s : State) (hpa : BitVec 64) (data : BitVec 512) (b : Nat), s.hostServes = true → s.hostBurst hpa.toNat = some b → s.hostCut = false →
    b + 1 < moduleBursts → s.waitingFor b = [] → s.waitingFor (b + 1) = [] →
    (∃ s', exec (.hostMemWrite hpa data) s = .next s' ∧
      s'.readBurst b = .clean (mkBurst 0 0 (data.extractLsb' 0 256)) ∧ s'.readBurst (b + 1) = .clean (mkBurst 0 0 (data.extractLsb' 256 256)) ∧
      (∀ a, a < 36 * b ∨ 36 * b + 72 ≤ a → memByte s'.mem.cells a = memByte s.mem.cells a) ∧
      s' = { s with mem := s'.mem }) ∧
    (∃ s', exec (.hostMemPoisonWrite hpa data) s = .next s' ∧ s'.readBurst b = .poison ∧ s'.readBurst (b + 1) = .poison ∧
      (∀ a, a < 36 * b ∨ 36 * b + 72 ≤ a → memByte s'.mem.cells a = memByte s.mem.cells a) ∧
      s' = { s with mem := s'.mem })

/-- R165, R171, R184, R391: a store reaches the bytes of its own bursts and no other. Writing a burst leaves every byte
outside it as it was; zeroing and a write of the dump leave every byte outside the bursts they cover, and zeroing leaves 0
in them; and so do a host's partial write, a granted request, a merged slot and a debug write, whatever they meet. -/
def Obligations.StoresStayInTheirBursts : Prop :=
  (∀ (s : State) (b : Nat) (d : BitVec 272) (k : Nat), b < moduleBursts → (k < 36 * b ∨ 36 * b + 36 ≤ k) →
    memByte (s.writeBurst b d).mem.cells k = memByte s.mem.cells k) ∧
  (∀ (s : State) (base size k : Nat),
    ((k < 36 * (base / 32) ∨ 36 * ((base + size) / 32) ≤ k) →
      memByte (s.zeroRange base size).mem.cells k = memByte s.mem.cells k) ∧
    (36 * (base / 32) ≤ k → k < 36 * ((base + size) / 32) → memByte (s.zeroRange base size).mem.cells k = 0)) ∧
  (∀ (s : State) (a : Nat) (bs : List Byte) (k : Nat), (k < 36 * (a / 32) ∨ 36 * (a / 32 + (bs.length + 31) / 32) ≤ k) →
    memByte (s.writeDump a bs).mem.cells k = memByte s.mem.cells k) ∧
  (∀ (s t : State) (hpa : BitVec 64) (data : BitVec 512) (mask : BitVec 64) (b k : Nat), s.hostBurst hpa.toNat = some b →
    b + 1 < moduleBursts → exec (.hostMemPartialWrite hpa data mask) s = .next t → (k < 36 * b ∨ 36 * b + 72 ≤ k) →
    memByte t.mem.cells k = memByte s.mem.cells k) ∧
  (∀ (s t : State) (sub : BitVec 8) (r : MemReq) (k : Nat), s.choose sub.toNat = some r →
    exec (.subchannelGrant sub) s = .next t → (k < 36 * r.addr.toNat ∨ 36 * r.addr.toNat + 36 ≤ k) →
    memByte t.mem.cells k = memByte s.mem.cells k) ∧
  (∀ (s t : State) (addr : BitVec 36) (first : BitVec 3) (ws : List (BitVec 32)) (cl : Client) (k : Nat),
    exec (.slotMerge addr first ws cl) s = .next t → (k < 36 * addr.toNat ∨ 36 * addr.toNat + 36 ≤ k) →
    memByte t.mem.cells k = memByte s.mem.cells k) ∧
  (∀ (s t : State) (a : BitVec 36) (d : BitVec 272) (k : Nat),
    exec (.debugAccess (.memWrite a d)) s = .next t → (k < 36 * a.toNat ∨ 36 * a.toNat + 36 ≤ k) →
    memByte t.mem.cells k = memByte s.mem.cells k)

/-! ## Links (R187 to R207) -/

/-- R188, R202, R203: training, claims and discovery complete while the ports work. A trained planned port goes to CLAIMING
and sends its claim; a round trip above 1,200 ticks fails as TOO_LONG, an unplanned port as UNPLANNED, one that does not
train counts as MISSING; a port that claims and has heard none claims again; a planned port still without an outcome at the
timeout is MISSING; a range map is recorded; a port that is down trains again, and so does a failed one on request. R202,
Table 10-5: a claim completes on a port in CLAIMING. It is recorded and answered; where class, address and port are the
plan's, the outcome is MATCH and the port is up, or waits for the next cairn where the module runs; else the outcome is
WRONG_CLASS or WRONG_POSITION and the port fails. On a port that is up, the same claim changes nothing else, and another
takes the port out of use. -/
def Obligations.DiscoveryCompletes : Prop :=
  (∀ (s : State) (port : BitVec 7), s.linksOn = true → port.toNat < 96 →
    let n := port.toNat
    let p := s.port n
    (p.state = 1 → ∀ rtt : BitVec 16,
      exec (.linkTrainingDone port false rtt) s = .next ((s.portMissing n).portChanged) ∧
      (1200 < rtt.toNat → exec (.linkTrainingDone port true rtt) s =
        .next (((s.setPort n { p with rtt := rtt, state := 5, outcome := 6 }).raise 0x24 n).portChanged)) ∧
      (rtt.toNat ≤ 1200 → s.portClass n = 0 → exec (.linkTrainingDone port true rtt) s =
        .next (((s.setPort n { p with rtt := rtt, state := 0, outcome := 3 }).raise 0x25 n).portChanged)) ∧
      (rtt.toNat ≤ 1200 → s.portClass n ≠ 0 → exec (.linkTrainingDone port true rtt) s =
        .next (((s.setPort n { p with rtt := rtt, state := 2, claimed := false }).sendClaim n).portChanged))) ∧
    (p.state = 2 → p.claimed = false → exec (.claimSend port) s = .next (s.sendClaim n)) ∧
    (s.portClass n ≠ 0 → p.outcome = 0 → exec (.discoveryTimeout port) s = .next ((s.portMissing n).portChanged)) ∧
    (∀ (slot : BitVec 6) (counts : List (BitVec 2)), slot.toNat ≤ 32 → counts.length = 33 →
      exec (.rangeMap slot counts) s = .next
        { s with links := { s.links with rangeMaps := mapSet [] s.links.rangeMaps slot.toNat counts } }.linkCheck) ∧
    (p.state = 4 → exec (.portRetrain port) s = .next (s.retrain n)) ∧
    ((p.state = 4 ∨ p.state = 5) → exec (.rediscover port) s = .next (s.retrain n))) ∧
  (∀ (s : State) (port : BitVec 7) (c : ClaimData), s.linksOn = true → port.toNat < 96 →
    let n := port.toNat
    let p := s.port n
    let q : Port := { p with neighAddr := c.addr, neighPort := c.port, digest := c.digest, claimed := true }
    let late := s.links.state == 2 && s.boot.mode == 1 && !s.idle
    (s.claimOutcome n c = 1 ↔ (c.fromSwitch = (s.portClass n == 2) ∧ c.addr.toNat = field (s.planPort n) 14 15 ∧
      c.port.toNat = field (s.planPort n) 7 7)) ∧
    (s.claimOutcome n c = 5 ↔ c.fromSwitch ≠ (s.portClass n == 2)) ∧
    (p.state = 2 → s.claimOutcome n c = 1 → exec (.claim port c) s = .next
      (((s.setPort n { q with outcome := 1, state := if late then 2 else 3, returnAtCairn := late }).sendClaim n).portChanged)) ∧
    (p.state = 2 → s.claimOutcome n c ≠ 1 → exec (.claim port c) s = .next
      ((((s.setPort n { q with outcome := s.claimOutcome n c, state := 5 }).raise 0x26 n).sendClaim n).portChanged)) ∧
    (p.state = 3 → p.neighAddr = c.addr → p.neighPort = c.port → exec (.claim port c) s = .next (s.setPort n q)) ∧
    (p.state = 3 → (p.neighAddr ≠ c.addr ∨ p.neighPort ≠ c.port) → exec (.claim port c) s = .next
      (((((s.setPort n { q with outcome := 4 }).portDown n 5).raise 0x26 n).sendClaim n).portChanged)))

/-- R187, R193, R194, R206: what takes a port down. A lost lane and silence take a port that is up down, and its rescued
packets leave by other ways; the seventeenth uncorrectable codeword within 1,000,000 ticks does too, fewer are counted; a
retry timeout sends the unacknowledged packets again, or takes the port down once the oldest was sent eight times. -/
def Obligations.PortFailuresComplete : Prop :=
  ∀ (s : State) (port : BitVec 7), s.linksOn = true → port.toNat < 96 → (s.port port.toNat).state = 3 →
    let n := port.toNat
    let p := s.port n
    let ts := p.cwTicks.filter (fun t => decide ((s.pwr.ticks - t).toNat < 1000000)) ++ [s.pwr.ticks]
    exec (.laneLockLoss port) s = .next ((s.portDown n 4).portChanged) ∧
    exec (.controlFrameTimeout port) s = .next ((s.portDown n 4).portChanged) ∧
    (ts.length ≤ 16 → exec (.uncorrectableCodeword port) s = .next (s.setPort n { p with uncorrCw := satInc p.uncorrCw, cwTicks := ts })) ∧
    (16 < ts.length → exec (.uncorrectableCodeword port) s =
      .next (((s.setPort n { p with uncorrCw := satInc p.uncorrCw, cwTicks := ts }).portDown n 4).portChanged)) ∧
    (∀ k sends rest, p.retry = (k, sends) :: rest →
      (sends < 8 → exec (.retryTimeout port) s = .next
        ((s.setPort n { p with retry := p.retry.map (fun e => (e.1, e.2 + 1)), retries := p.retries + BitVec.ofNat 16 p.retry.length }).sendOut n
          (p.retry.map (fun e => e.1)))) ∧
      (8 ≤ sends → exec (.retryTimeout port) s = .next ((s.portDown n 4).portChanged)))

/-- R187, R192, R193: a control frame on a port that is up counts the symbols corrected in it; a valid one acknowledges
what its sequence covers, returns the credits that its counts name since the last frame, and starts a go-back where it is
a NAK; a control frame goes out with the last sequence received, a NAK while one is owed, and the counts of the slots
freed (the counts are cumulative: the model's choice, notes/assumptions/148.md). Neither kind's credits, nor the shared
ones, ever exceed what they start with. R193: an acknowledgement drops from the retry buffer exactly the packets up to the
one it names, and a sequence that no packet of the buffer has drops none. -/
def Obligations.ControlFramesComplete : Prop :=
  (∀ (s : State) (port : BitVec 7), s.linksOn = true → port.toNat < 96 → (s.port port.toNat).state = 3 →
    let n := port.toNat
    let p := s.port n
    (∀ (ack : BitVec 8) (nak : Bool) (ctl data shared : BitVec 5) (fixed : BitVec 16),
      let p1 : Port := { p with corrected := p.corrected + fixed.setWidth 64 }
      let s1 := s.setPort n { p1.regain (p1.sinceLast 0 ctl) (p1.sinceLast 1 data) (p1.sinceLast 2 shared) with
        retry := acknowledge p.retry ack, returned := [ctl.toNat, data.toNat, shared.toNat] }
      exec (.controlFrame port ⟨true, fixed⟩ ack nak ctl data shared) s = .next ((if nak then s1.goBack n else s1).pumpPort n) ∧
      exec (.controlFrame port ⟨false, fixed⟩ ack nak ctl data shared) s = .next (s.setPort n p1)) ∧
    exec (.controlFrameSend port) s = .next (s.emit
      (.controlOut n (p.rxNext - 1) p.nak (nth 0 p.freed 0 % 32) (nth 0 p.freed 1 % 32) (nth 0 p.freed 2 % 32)))) ∧
  (∀ (p : Port) (ctl data shared : Nat), p.creditCtl ≤ 2 → p.creditData ≤ 2 → p.creditShared ≤ 12 →
    let q := p.regain ctl data shared
    q.creditCtl ≤ 2 ∧ q.creditData ≤ 2 ∧ q.creditShared ≤ 12 ∧
    min 16 (p.creditCtl + p.creditData + p.creditShared + ctl + data + shared) = q.creditCtl + q.creditData + q.creditShared) ∧
  ((∀ (q : List (Packet × Nat)) (ack : BitVec 8), (∀ e ∈ q, Header.lseq e.1.header ≠ ack) → acknowledge q ack = q) ∧
  (∀ (before after : List (Packet × Nat)) (e : Packet × Nat) (ack : BitVec 8), (∀ x ∈ before, Header.lseq x.1.header ≠ ack) →
    Header.lseq e.1.header = ack → acknowledge (before ++ e :: after) ack = after))

/-- R189 to R199: reception on a port that is up. A packet that fails the link's tests, or finds no free slot, is not taken
and the port owes a NAK; one that passes them moves the expected sequence on and then is dropped as MALFORMED, is consumed
where it is for this module, or goes on toward its destination. R196, R197: a packet for this module whose step, epochs and
sender are current, and whose flow accepts its sequence, is handed to its consumer once: its receive slot is freed, the
flow marks the sequence and acknowledges at each 64; one whose accumulators are held (R218), or whose blocks have not landed
(R268), keeps its receive slot; one that is stale, or a repeat, is dropped and counted and its slot freed. -/
def Obligations.PacketsReceived : Prop :=
  (∀ (s : State) (port : BitVec 7) (r : RawPacket) (overlaps : Bool) (corrected : BitVec 16), s.linksOn = true → port.toNat < 96 →
    (s.port port.toNat).state = 3 →
    let n := port.toNat
    let p : Port := { s.port n with corrected := (s.port n).corrected + corrected.setWidth 64 }
    let h : Header := r.header
    let bad := overlaps || decide (4096 < h.length) || r.payload.length != h.length || packetCrc h r.payload != r.crc || h.lseq != p.rxNext
    let k : Packet := { header := r.header, payload := r.payload }
    (bad = true → exec (.packetReceive port r overlaps corrected) s = .next (s.setPort n { p with nak := true })) ∧
    (bad = false → p.slotKind h.cls = none → exec (.packetReceive port r overlaps corrected) s = .next (s.setPort n { p with nak := true })) ∧
    (∀ kind, bad = false → p.slotKind h.cls = some kind → s.err.containState ≠ 2 →
      let s1 := s.setPort n { p with rxNext := p.rxNext + 1, nak := false }
      (h.malformed = true → exec (.packetReceive port r overlaps corrected) s =
        .next ((s1.setPort n { s1.port n with malformed := satInc (s1.port n).malformed }).freeSlot n kind)) ∧
      (h.malformed = false → (h.dest = s.plan.ownAddr ∨ h.type = 0x10) →
        exec (.packetReceive port r overlaps corrected) s = .next (s1.consumePacket n k kind)) ∧
      (h.malformed = false → h.dest ≠ s.plan.ownAddr → h.type ≠ 0x10 →
        exec (.packetReceive port r overlaps corrected) s = .next (s1.forwardPacket n k kind)))) ∧
  (∀ (s : State) (n : Nat) (k : Packet) (kind : Nat), Header.type k.header ≠ 0x10 → Header.slotFlow k.header = false →
    let h : Header := k.header
    let f := 2 * h.srcPos + h.cls
    (∀ x, s.standing h = .now → s.mustWait k = false → (s.flow f).accept h.seq = .accepted x →
      s.consumePacket n k kind = (((s.setFlow f x).freeSlot n kind).emit (.handed n k)).ackIfDue false f) ∧
    (s.standing h = .now → s.mustWait k = true →
      s.consumePacket n k kind = s.setPort n { s.port n with rxSlots := (s.port n).rxSlots ++ [(k, kind)] }) ∧
    (s.standing h = .now → s.mustWait k = false → (s.flow f).accept h.seq = .duplicate →
      s.consumePacket n k kind = (s.setPort n { s.port n with dupDrops := satInc (s.port n).dupDrops }).freeSlot n kind) ∧
    (s.standing h = .stale →
      s.consumePacket n k kind = (s.setPort n { s.port n with stale := satInc (s.port n).stale }).freeSlot n kind))

/-- R196: a flow accepts each sequence number at most once. What it accepts lies within 256 of BASE; afterwards the same
number is a duplicate, BASE has not gone back, and every number that was a duplicate still is one. R196: flow
acknowledgements complete. ACKED moves on to a BASE ahead of it that was sent, and the packets that the window now lets go
leave; a receiver whose BASE moved since it last said so sends it. -/
def Obligations.FlowsAcceptOnce : Prop :=
  (∀ (x y : Flow) (q : BitVec 32), x.base.toNat + 512 < 2 ^ 32 → x.accept q = .accepted y →
    x.base.toNat ≤ q.toNat ∧ q.toNat < x.base.toNat + 256 ∧ y.accept q = .duplicate ∧ x.base.toNat ≤ y.base.toNat ∧
    (∀ r : BitVec 32, x.accept r = .duplicate → y.accept r = .duplicate)) ∧
  (∀ (s : State) (flow : BitVec 15) (base : BitVec 32), s.linksOn = true →
    let f := flow.toNat
    ((s.flow f).acked.toNat < base.toNat → base.toNat ≤ (s.flow f).nextSeq.toNat →
      exec (.flowAck false flow base) s = .next ((s.setFlow f { s.flow f with acked := base }).flushFlow (s.flow f).wait.length f)) ∧
    (f < 66 → (s.slotFlowOf f).acked.toNat < base.toNat → base.toNat ≤ (s.slotFlowOf f).nextSeq.toNat →
      exec (.flowAck true flow base) s =
        .next ((s.setSlotFlow f { s.slotFlowOf f with acked := base }).flushSlot (s.slotFlowOf f).wait.length f)) ∧
    ((s.flow f).base ≠ (s.flow f).lastAck → exec (.flowAckSend false flow) s = .next
      ((s.setFlow f { s.flow f with lastAck := (s.flow f).base }).tell (s.flowCtx f) 0x05 (f / 2) (.flowAckOut false f (s.flow f).base))) ∧
    (f < 66 → (s.slotFlowOf f).base ≠ (s.slotFlowOf f).lastAck → exec (.flowAckSend true flow) s = .next
      ((s.setSlotFlow f { s.slotFlowOf f with lastAck := (s.slotFlowOf f).base }).tellSlot 0x05 (f / 2)
        (.flowAckOut true f (s.slotFlowOf f).base))))

/-! ## The network interface and the update engine (R212 to R229, R135, R151, R248, R268) -/

/-- R215 to R217: a reduction packet completes at its node. Of a source that the entry lists, in the current attempt, with
no block seen before, it adds each of its blocks to the node's accumulators, marks the node failed where it says so, counts
the packet for its source and adds CONTRIB with the last one, and the node is put back, which completes it once every source
and the module itself are in. A packet of another source, of another attempt, for a complete node or of a repeated block is
dropped and counted; one whose accumulators an earlier node still holds waits (R218). A failed-chunk notice is the last
packet of its source, and adds nothing. After each, what waits for a node is tried again. -/
def Obligations.ReductionPacketsComplete : Prop :=
  ∀ (s : State) (m : CollMsg) (im : Sched) (i : Nat) (e : NodeEntry), s.takes m.ctx = some im →
    let x := s.ctx m.ctx
    let a := CollArg.ofWord m.arg
    let n := x.node i
    let p := m.srcPos.toNat
    let src := mapGet ({} : SrcState) n.srcs p
    let bs := parseRun a.counted 4096 a.first m.payload
    let repeated := (a.last && !a.counted && a.contrib != 1) || bs.any (fun b => src.blocks.contains b.1)
    let sum := bs.foldl (fun n b => Node.addBlock n b.1 b.2) n
    let fed (t : State) : State := (t.feedNodes m.ctx).takeHeld m.ctx
    x.findNode a.chunk false = some (i, e) →
    ((im.sources e).contains p = false →
      exec (.coll m) s = .next (fed { s with ni := { s.ni with badSource := satInc s.ni.badSource } })) ∧
    ((im.sources e).contains p = true → a.attempt ≠ x.attempt →
      exec (.coll m) s = .next (fed { s with ni := { s.ni with badAttempt := satInc s.ni.badAttempt } })) ∧
    ((im.sources e).contains p = true → a.attempt = x.attempt →
      (n.complete = true → exec (.coll m) s = .next (fed { s with ni := { s.ni with late := satInc s.ni.late } })) ∧
      (n.complete = false → repeated = true → exec (.coll m) s = .next (fed { s with ni := { s.ni with blockDup := satInc s.ni.blockDup } })) ∧
      (n.complete = false → repeated = false → n.broken = false → x.accHeld i e = false →
        exec (.coll m) s = .next (fed ({ s with ni := { s.ni with accWait := false } }.putNode m.ctx i e
          { sum with
            srcs := mapSet {} sum.srcs p { accepted := src.accepted + 1,
                                           announced := if a.last then some a.packets else src.announced,
                                           blocks := src.blocks ++ bs.map Prod.fst },
            failed := sum.failed || a.failed, contrib := sum.contrib + (if a.last then a.contrib else 0) }))) ∧
      (n.complete = false → repeated = false → n.broken = false → x.accHeld i e = true →
        exec (.coll m) s = .next (fed { s.setCtx m.ctx { x with held := x.held ++ [m] } with ni := { s.ni with accWait := true } }))) ∧
    ((im.sources e).contains p = true → n.complete = false → n.broken = false → a.chunk < 2 ^ 24 →
      exec (.failedChunk m.ctx m.srcPos (BitVec.ofNat 24 a.chunk)) s = .next (fed (s.putNode m.ctx i e
        { n with srcs := mapSet {} n.srcs p { src with accepted := src.accepted + 1, announced := some (src.accepted + 1) }, failed := true })))

/-- R229, R268: a gather packet completes at its node. Where it is accepted, each block lands at its place in the copy
that the step writes, the source's packet is counted, and the complete chunk goes on down the tree; a module that catches
up keeps the packet until the blocks it overwrites have landed. R223, R226, R227: the update engine's commands complete in
a context's step. A touched master block that is not yet written is updated; a block that is written, or has no gradient,
is left alone; a group of blocks is re-quantised. -/
def Obligations.GathersAndUpdatesComplete : Prop :=
  (∀ (s : State) (m : CollMsg) (im : Sched) (i : Nat) (e : NodeEntry), s.takes m.ctx = some im →
    let x := s.ctx m.ctx
    let a := CollArg.ofWord m.arg
    let n := x.node i
    let p := m.srcPos.toNat
    let src := mapGet ({} : SrcState) n.srcs p
    let bs := parseGather 4096 a.first m.payload
    let s1 := bs.foldl (fun s b => s.landGather m.ctx im e.param (e.first + b.1) b.2.1 b.2.2) s
    let n1 : Node := { n with
      srcs := mapSet {} n.srcs p { accepted := src.accepted + 1, announced := if a.last then some a.packets else src.announced,
                                   blocks := src.blocks ++ bs.map Prod.fst },
      gathered := bs.foldl (fun g b => mapSet (0, []) g b.1 b.2) n.gathered }
    let s2 := s1.setCtx m.ctx ((s1.ctx m.ctx).setNode i n1)
    let fed (t : State) : State := (t.feedNodes m.ctx).takeHeld m.ctx
    x.findNode a.chunk true = some (i, e) → (im.sources e).contains p = true → a.attempt = x.attempt → n.complete = false →
    n.broken = false → bs.any (fun b => src.blocks.contains b.1) = false →
    (bs.all (fun b => s.blockLanded m.ctx im e.param (e.first + b.1)) = false →
      exec (.gather m) s = .next (fed (s.setCtx m.ctx { x with held := x.held ++ [m] }))) ∧
    (bs.all (fun b => s.blockLanded m.ctx im e.param (e.first + b.1)) = true →
      exec (.gather m) s = .next (fed (if nodeComplete im (s2.goneSources x im) e n1 then s2.sendGather m.ctx i e n1.gathered else s2)))) ∧
  (∀ (s : State) (c : CtxIdx) (im : Sched) (param n : Nat), s.crn.ownState ≠ 1 → s.blockLanded c im param n = true) ∧
  (∀ (s : State) (c : CtxIdx) (param : BitVec 24) (n : BitVec 32), s.updates c = true →
    exec (.updateBlock c param n) s = .next (s.updateBlock c param.toNat n.toNat) ∧
    exec (.requantise c param n) s = .next (s.requantGroup c param.toNat n.toNat) ∧
    ((s.ctx c).written.contains (blockKey param.toNat n.toNat) = true → exec (.updateBlock c param n) s = .next s) ∧
    (mapGet [] (s.ctx c).grads (blockKey param.toNat n.toNat) = [] → exec (.updateBlock c param n) s = .next s))

/-- R135, R244: a token signal completes. Of the step under way it adds to the counter, unless its sender is declared; of
the following step, or of the step after a SKIP, it waits (R197); any other is dropped and counted. R151: plane fetches
complete. The owner of a plane burst reads it and returns it; the fetching module writes each burst at its own address, sets
its plane-valid bit, has no fetch of it out any more, counts the bursts, and its tors go on. -/
def Obligations.TokensAndPlaneFetchesComplete : Prop :=
  (∀ (s : State) (m : TokenMsg) (im : Sched), s.takes m.ctx = some im →
    let x := s.ctx m.ctx
    let now : BitVec 16 := x.step.setWidth 16
    let epoch : Byte := s.crn.epoch.setWidth 8
    let k := tokenKey m.token.toNat m.srcPos.toNat
    (m.ctxEpoch = x.epoch → m.step = now → m.membEpoch = epoch → s.crn.declared.contains m.srcPos.toNat = false →
      exec (.token m) s = .next ((s.setCtx m.ctx { x with tokenGot := mapSet 0 x.tokenGot k (mapGet 0 x.tokenGot k + m.inc.toNat) }).addToken
        m.ctx m.token.toNat m.inc.toNat)) ∧
    (m.ctxEpoch = x.epoch → m.step = now → m.membEpoch = epoch → s.crn.declared.contains m.srcPos.toNat = true →
      exec (.token m) s = .next s) ∧
    (m.ctxEpoch = x.epoch → (m.step = now + 1 ∧ m.membEpoch = epoch) ∨ (m.step = now ∧ m.membEpoch = epoch + 1) →
      exec (.token m) s = .next (s.setCtx m.ctx { x with tokenPend := x.tokenPend ++ [m] })) ∧
    ((m.ctxEpoch ≠ x.epoch ∨ (m.step ≠ now ∧ m.step ≠ now + 1) ∨ (m.membEpoch ≠ epoch ∧ m.membEpoch ≠ epoch + 1)) →
      exec (.token m) s = .next (s.setCtx m.ctx { x with counts := { x.counts with staleTokens := x.counts.staleTokens + 1 } }))) ∧
  (∀ (s : State) (c : CtxIdx) (im : Sched) (addr : BitVec 36) (plane : BitVec 2), s.takes c = some im →
    (∀ (srcPos : BitVec 14) (d : BitVec 272) (s' : State), im.planeBurst addr.toNat = true → s.mem.contained = false →
      (s.moduleRead addr.toNat 4 = (.clean d, s') ∨ s.moduleRead addr.toNat 4 = (.corrected d, s')) →
      exec (.fetchReq c srcPos addr plane) s =
        .next (s'.tell c 0x04 srcPos.toNat (.fetchDataOut srcPos.toNat addr plane [d]))) ∧
    (∀ (bursts : List (BitVec 272)), (∀ i, i < bursts.length → im.planeBurst (addr.toNat + i) = true) → s.prefetch = false →
      let n := bursts.length
      let s1 := s.landBursts addr.toNat bursts
      let x := s1.ctx c
      let landed (f : PlaneFetch) : Bool := decide (addr.toNat ≤ f.addr) && decide (f.addr < addr.toNat + n)
      let pv := (List.range n).foldl (fun (m : SMap Bool) i => mapSet false m (addr.toNat + i) true) x.planeValid
      let s2 := s1.setCtx c { x with planeValid := pv, fetches := x.fetches.filter (fun f => !landed f),
                                     counts := { x.counts with planeFetch := x.counts.planeFetch + n } }
      exec (.fetchData c addr plane bursts) s =
        .next ({ s2 with planeFetchTotal := s2.planeFetchTotal + BitVec.ofNat 32 n }.progressAll c im)))

/-- R248, R249, R267, R268, R270: belay messages and the state copy complete. The partner takes the first copy of the
subject's inputs, and the first digest, and one that says the ordinal failed ends the belay INCOMPLETE; a module that
catches up takes each source's digest once, lands each item of its state copy, and goes on once the copy is complete; an
ACTIVE source serves the module that reports its image loaded. -/
def Obligations.BelayAndCopyComplete : Prop :=
  ∀ (s : State) (c : CtxIdx) (im : Sched), s.takes c = some im →
    let x := s.ctx c
    (∀ subject ordinal mask data, exec (.belay c (.input subject ordinal mask data)) s =
      .next ((s.setCtx c (x.mapBelay 2 subject.toNat (fun b =>
        if b.ordinal = ordinal.toNat ∧ b.inputs = [] then { b with inputs := [(ordinal.toNat, data)], mask := mask } else b))).progressAll c im)) ∧
    (∀ subject model entries ceil run pos, exec (.belay c (.state subject model entries ceil run pos)) s =
      .next ((s.takeBelayState c im subject.toNat model entries ceil run pos).progressAll c im)) ∧
    (∀ subject ordinal d, exec (.belay c (.digest subject ordinal (some d))) s =
      .next (s.setCtx c (x.mapBelay 2 subject.toNat (fun b =>
        if b.ordinal = ordinal.toNat ∧ b.peerDigest = none then { b with peerDigest := some d } else b)))) ∧
    (∀ subject ordinal, exec (.belay c (.digest subject ordinal none)) s =
      .next (s.setCtx c (x.mapBelay 2 subject.toNat (fun b =>
        if b.ordinal = ordinal.toNat ∧ b.outcome = 0 then { b with outcome := 3 } else b)))) ∧
    (∀ shard d, s.crn.ownState = 1 → x.srcDigests.any (fun e => e.1 == shard.toNat) = false →
      exec (.belay c (.sourceDigest shard d)) s = .next (s.setCtx c { x with srcDigests := x.srcDigests ++ [(shard.toNat, d)] })) ∧
    (∀ srcPos items, s.crn.ownState = 1 → x.copyDone = false →
      let s1 := items.foldl (fun s it => State.landItem s c im it) s
      let s2 := if (im.copyItems (s1.pilot c) (s1.ropeMember im im.position)).length ≤ (s1.ctx c).copied.length then s1.finishCopy c im else s1
      exec (.stateCopy c ⟨srcPos, items⟩) s = .next (((s2.retryOwn c).feedNodes c).takeHeld c)) ∧
    (∀ srcPos, s.crn.ownState = 0 → exec (.stateCopy c ⟨srcPos, []⟩) s = .next (s.serveLoaded c im srcPos.toNat))

/-! ## Membership and the cairn (R24, R240 to R265) -/

/-- R242, R243, R264: membership traffic completes while the module works in its range. A heartbeat goes to every range peer
not declared; a heard one starts its peer's timeout again; a timeout that has run out and a report that is late make a range
peer suspected; a withdrawal makes its sender's proposals void, sends the own open reports to the positions they declared,
and makes the sender suspected; a proposal declares the position that its slot holds, unless its sender has withdrawn; a join
is held, and a module with no position and no image asks to join. A timeout that has not run out changes nothing. R243: once
a sender's proposals are void, exactly the positions declared on some other ground are declared still. -/
def Obligations.MembershipTrafficCompletes : Prop :=
  ∀ (s : State) (slot : BitVec 6), s.inRangeTraffic = true →
    let q := slot.toNat
    let late := s.crn.hbTimeout.toNat ≤ (s.pwr.ticks - mapGet 0 s.crn.heard q).toNat
    let t := s.voidProposals q
    exec .heartbeatSend s = .next (s.tellSlots 0x0A (s.rangePeers.filter (fun q => match s.posOfSlot s.ownRange q with
      | some p => !s.crn.declared.contains p
      | none => true)) Output.heartbeatTo) ∧
    exec (.heartbeat slot) s = .next { s with crn := { s.crn with heard := mapSet 0 s.crn.heard q s.pwr.ticks } } ∧
    (s.rangePeers.contains q = true →
      exec (.withdraw slot) s =
        .next ((t.reportTo (s.crn.declared.filter (fun p => !t.crn.declared.contains p))).suspect q).gatherAll ∧
      (late → exec (.hbTimeout slot) s = .next (s.suspect q).gatherAll) ∧
      (¬ late → exec (.hbTimeout slot) s = .next s) ∧
      ((s.posOfSlot s.ownRange q).isSome = true → s.reportLate q = true →
        exec (.reportTimeout slot) s = .next (s.suspect q).gatherAll)) ∧
    (∀ p, p ∈ t.crn.declared ↔ p ∈ s.crn.declared ∧ ∃ g ∈ s.crn.declaredBy, g.1 = p ∧ g.2 ≠ q) ∧
    (∀ sender : BitVec 6,
      (s.crn.withdrew.contains sender.toNat = false → exec (.propose sender slot) s = .next (s.declareSlot q sender.toNat).gatherAll) ∧
      (s.crn.withdrew.contains sender.toNat = true → exec (.propose sender slot) s = .next s)) ∧
    (∀ digest, exec (.join slot digest) s = .next (s.holdJoin s.ownRange q digest)) ∧
    (s.links.state = 2 → s.crn.ownState = 3 → s.crn.restoreHold = false → (∀ c, (s.ctx c).image = none) →
      exec .joinSend s = .next (s.tellSlots 0x0A s.rangePeers (fun q => Output.joinTo q s.img.active.policyDigest)))

/-- R243: a module suspects a peer at most once in a step. The first suspicion proposes the peer to every range peer and
declares the position it holds; a module that has proposed sixteen peers withdraws itself, once, and declares the position
all the same; one that has proposed that peer does nothing. R244, R255: a declaration takes effect once in a step. A second
declaration of the position notes its ground and changes nothing else; the first one is forwarded to the other ranges by a
delegate of the position's own range, and then acts in every context. -/
def Obligations.SuspicionAndDeclaration : Prop :=
  (∀ (s : State) (q : Nat),
    (s.crn.proposed.contains q = true → s.suspect q = s) ∧
    (s.crn.proposed.contains q = false → s.crn.withdrawn = true → 16 ≤ s.crn.proposed.length → s.suspect q = s.declareSlot q 64) ∧
    (s.crn.proposed.contains q = false → s.crn.withdrawn = false → 16 ≤ s.crn.proposed.length →
      s.suspect q = s.sendWithdraw.declareSlot q 64 ∧ s.sendWithdraw.crn.withdrawn = true ∧
      s.sendWithdraw.crn.proposed = s.crn.proposed) ∧
    (s.crn.proposed.contains q = false → s.crn.proposed.length < 16 →
      let s1 := { s with crn := { s.crn with proposed := s.crn.proposed ++ [q] } }
      s.suspect q = (s1.tellSlots 0x0A s1.rangePeers (fun r => Output.proposeTo r q)).declareSlot q 64)) ∧
  (∀ (s : State) (p ground : Nat),
    let grounds := s.crn.declaredBy ++ (if s.crn.declaredBy.contains (p, ground) then [] else [(p, ground)])
    let s1 := { s with crn := { s.crn with declaredBy := grounds, declared := s.crn.declared ++ [p] } }
    (s.crn.declared.contains p = true → s.declare p ground = { s with crn := { s.crn with declaredBy := grounds } }) ∧
    (s.crn.declared.contains p = false → s.isDelegate = true → p / 32 = s.ownRange →
      s.declare p ground = allCtx.foldl (fun s c => State.declareIn s p c) (s1.tellDeclaration p)) ∧
    (s.crn.declared.contains p = false → (s.isDelegate = false ∨ p / 32 ≠ s.ownRange) →
      s.declare p ground = allCtx.foldl (fun s c => State.declareIn s p c) s1) ∧
    s1.crn.declared.contains p = true ∧ s1.crn.declaredBy.contains (p, ground) = true)

/-- R24, R254 to R256, R258: the cairn's commands complete. A report opens where the step's work is done and its twin
comparisons are; a peer's report, a summary, a declaration, a twin digest and a verdict take effect; at the root a range
whose summary is lacking raises the timeout; the instant of a verdict takes place, and waits while a checkpoint of the
context is being written. -/
def Obligations.CairnCommandsComplete : Prop :=
  ∀ (s : State) (c : CtxIdx) (im : Sched), s.live = true → (s.ctx c).image = some im →
    let x := s.ctx c
    (x.state = 3 → (s.startGathers c).reportReady ((s.startGathers c).ctx c) im = true →
      ∀ s' done, (s.startGathers c).twinStage c im = (s', done) →
        exec (.cairnReportOpen c) s = .next ((if done then s'.openReport c im else s').takeHeld c)) ∧
    (s.inRangeTraffic = true →
      (∀ r, exec (.cairnPacket (.report r)) s = .next (s.takeReportMsg r)) ∧
      (∀ g rs js, exec (.cairnPacket (.summary g rs js)) s = .next (s.takeSummary g.toNat rs js)) ∧
      (∀ p, exec (.cairnPacket (.declaration p)) s = .next (s.declare p.toNat 65).gatherAll) ∧
      (∀ a h r d, exec (.cairnPacket (.twinDigest c a h r d)) s = .next (s.takeDigest c a.toNat h.toNat r.toNat d)) ∧
      (∀ v, exec (.cairnPacket (.verdict v)) s = .next (s.actOnVerdict v)) ∧
      (∀ g : BitVec 9, x.inStep = true → x.phase = 2 → im.isRoot s.ownRange = true → im.treeRanges.contains g.toNat = true →
        g.toNat ≠ s.ownRange → x.summaries.any (fun e => e.1 == g.toNat && e.2.all (x.current? s.crn.epoch)) = false →
        exec (.cairnTimeout g) s = .next (({ s with crn := { s.crn with timeout := true } }).raise 0x18 g.toNat))) ∧
    (∀ v, x.verdict = some v → x.inStep = true →
      ((∀ e, x.op ≠ .checkpoint e) → x.ckptQ = [] → exec (.cairnInstant c) s = .next ((s.instant c im v).takeHeld c)) ∧
      (∀ e, x.op = .checkpoint e → exec (.cairnInstant c) s = .next s))

/-- R257: the decision is the first test that holds, in the rule's order; with none it is COMMIT. REDUCE is never the
decision of attempt 2, and COMMIT means that every test failed. R258: a REDUCE verdict for the step and attempt under way
starts the next attempt with the verdict's exclusions, and clears what the attempt had built; another verdict for them is
kept as the step's verdict; a verdict of another step or attempt, or a second one, changes nothing. -/
def Obligations.VerdictsDecide : Prop :=
  (∀ (a ropes y n : Nat) (two token diverged redo nonfinite storm limit : Bool),
    let d := decisionOf a two ropes y n token diverged redo nonfinite storm limit
    (two = true → d = .skip 1) ∧
    (two = false → 1 < ropes → d = .skip 2) ∧
    (two = false → ropes ≤ 1 → 32 < y → d = .skip 3) ∧
    (two = false → ropes ≤ 1 → y ≤ 32 → n = 0 → d = .skip 4) ∧
    (d = .reduce → a ≠ 2 ∧ redo = true) ∧
    (d = .commit ↔ two = false ∧ ropes ≤ 1 ∧ y ≤ 32 ∧ n ≠ 0 ∧ token = false ∧ diverged = false ∧ redo = false ∧ nonfinite = false ∧
      storm = false ∧ limit = false)) ∧
  (∀ (s : State) (v : Verdict) (im : Sched), (s.ctx v.ctx).inStep = true → (s.ctx v.ctx).image = some im →
    let x := s.ctx v.ctx
    let s1 := if s.isDelegate then s.passVerdict v.ctx im v else s
    ((v.step ≠ x.step ∨ v.attempt ≠ x.attempt ∨ x.verdict.isSome = true) → s.actOnVerdict v = s) ∧
    (v.step = x.step → v.attempt = x.attempt → x.verdict = none →
      (v.decision ≠ .reduce →
        s.actOnVerdict v = s1.setCtx v.ctx { x with verdict := some v, lastVerdict := some v, phase := 4 }) ∧
      (v.decision = .reduce →
        s.actOnVerdict v = (s1.setCtx v.ctx { x with lastVerdict := some v }).reduceAgain v.ctx im v)))

/-- R24, R265: what a committed step leaves of its context before the next one starts. The pointer and the committed step
are the step's number, the live ceilings become the committed ones, N is the verdict's; then the step goes on by one; then
the retained contributions and the token counters are empty, but for the signals held for the new step. -/
def Obligations.CommitMovesTheStep : Prop :=
  ∀ (s : State) (c : CtxIdx) (im : Sched) (v : Verdict),
    let x := s.ctx c
    let s1 := s.effect1 c im v
    (s1.ctx c).pointer = x.step.toNat ∧ (s1.ctx c).committed = x.step ∧ (s1.ctx c).ceilings = x.live ∧
    (s1.ctx c).swb = x.committedSwb ∧ (s1.ctx c).clipTotal = v.clipN ∧ (∀ k, k ≠ c → s1.ctx k = s.ctx k) ∧
    ((s.effect4 c im v).ctx c).step = x.step + 1 ∧
    (x.tokenPend = [] → ((s.effect5 c).ctx c).tokens = [] ∧ ((s.effect5 c).ctx c).handed = [] ∧ ((s.effect5 c).ctx c).tokenOverflow = false)

/-! ## The host port and the contexts (R298, R307 to R328) -/

/-- R307, R308, R312, R315, R316, R276: the CXL port's commands and the ring's complete. A link within the limits of the
option bytes comes up; a reset takes decoder, snoop filter and link back; a base that is a multiple of 256 MiB is committed
once, and one that is not changes nothing; a write of the ring sets base and order and reads the producer line; a line that
arrives is taken; the oldest request that times out ends in error. -/
def Obligations.HostPortCompletes : Prop :=
  ∀ (s : State) (c : CtxIdx),
    (s.powered = true → exec .cxlReset s = .next s.resetCxl ∧ s.resetCxl.host.committed = false ∧ s.resetCxl.boot.cxlUp = false ∧
      s.resetCxl.host.snoop = [] ∧ s.resetCxl.host.decoderBase = 0) ∧
    (s.powered = true → s.live = false → 2 ≤ s.boot.step.toNat → ∀ (rate : BitVec 2) (narrow : Bool),
      field s.boot.opts.cxlLink 0 2 ≤ rate.toNat → (bit s.boot.opts.cxlLink 2 = true → narrow = true) →
      exec (.cxlLinkTrained rate narrow) s = .next { s with
        boot := { s.boot with cxlUp := true }, host := { s.host with rate := rate, narrow := narrow, reissue := false } }) ∧
    (s.barAnswers = true → s.boot.cxlUp = true → ∀ base : BitVec 64,
      (s.host.committed = false → base.toNat % 2 ^ 28 = 0 →
        exec (.hdmDecoderCommit base) s = .next { s with host := { s.host with decoderBase := base, committed := true } }) ∧
      ((s.host.committed = true ∨ base.toNat % 2 ^ 28 ≠ 0) → exec (.hdmDecoderCommit base) s = .next s)) ∧
    (s.barAnswers = true → s.live = true → ((s.ctx c).state = 1 ∨ (s.ctx c).state = 2 ∨ (s.ctx c).state = 5) → ∀ v : BitVec 64,
      exec (.ctxRingWrite c v) s = .next ((s.setCtx c { s.ctx c with
        ringBase := v.extractLsb' 12 52, ringOrder := ringOrderOf v, ringSet := true, producer := 0, consumer := 0, cplHead := 0,
        feedQ := [], lineHeld := false, lineRead := false,
        outHost := if (s.ctx c).lineRead then (s.ctx c).outHost - 1 else (s.ctx c).outHost }).readLine c) ∧
      6 ≤ (ringOrderOf v).toNat ∧ (ringOrderOf v).toNat ≤ 16) ∧
    (s.live = true → (s.ctx c).lineRead = true → (s.ctx c).watches = true → ∀ (p h : BitVec 64) (es : List (List Byte)),
      exec (.producerLineRead c (.data (p, h)) es) s =
        .next ((((s.setCtx c { s.ctx c with lineRead := false }).hostDone c)).takeLine c p h es)) ∧
    ((s.ctx c).outHost ≠ 0 →
      ((s.ctx c).lineRead = true → exec (.cxlCompletionTimeout c) s = exec (.producerLineRead c .error []) s) ∧
      (∀ e, (s.ctx c).lineRead = false → (s.ctx c).op = .load e → feSpace e = false →
        exec (.cxlCompletionTimeout c) s = exec (.loadComplete c .error) s) ∧
      (∀ e, (s.ctx c).lineRead = false → (s.ctx c).op = .restore e → feSpace e = false →
        exec (.cxlCompletionTimeout c) s = exec (.restoreComplete c .error) s) ∧
      ((s.ctx c).lineRead = false → (s.ctx c).op = .none → (s.ctx c).stepEntries = [] →
        exec (.cxlCompletionTimeout c) s = .next (s.setCtx c { s.ctx c with outHost := (s.ctx c).outHost - 1 })))

/-- R317, R318, R321 to R325: a feed entry that takes effect now is consumed. One with a refusal cause is refused with the
lowest one and changes nothing else; without one, LOAD and RESTORE begin and ask for their buffer, START starts the run,
CHECKPOINT begins its write, or waits for one under way, PAUSE holds the context, RESUME lets it go on. -/
def Obligations.FeedEntriesComplete : Prop :=
  ∀ (s : State) (c : CtxIdx) (e : FeedEntry),
    (s.frontEntry c 1 = some e →
      (∀ k, lowest (s.bufferCauses c e) = some k → exec (.load c) s = .next ((s.refuseEntry c e k).scanRing c)) ∧
      (s.bufferCauses c e = [] → exec (.load c) s =
        .next (((s.consume c).setCtx c { (s.consume c).ctx c with op := .load e }).askBuffer c e))) ∧
    (s.frontEntry c 2 = some e →
      (∀ k, lowest (s.bufferCauses c e) = some k → exec (.restore c) s = .next ((s.refuseEntry c e k).scanRing c)) ∧
      (s.bufferCauses c e = [] → exec (.restore c) s =
        .next (((s.consume c).setCtx c { (s.consume c).ctx c with op := .restore e }).askBuffer c e))) ∧
    (s.frontEntry c 3 = some e → s.entryCauses c e = [] →
      (s.startAllowed c = false → exec (.start c) s = .next ((s.refuseEntry c e 2).scanRing c)) ∧
      (s.startAllowed c = true →
        let q := (s.consume c).setCtx c { (s.consume c).ctx c with
          state := 3, hold := 0, endStep := BitVec.ofNat 64 (feArg e 0), startTag := feTag e, abortAt := none }
        exec (.start c) s =
          .next (((q.crn.declared.foldl (fun s p => State.declareIn s p c) (q.prepareStep c)).scanRing c).tryStart c))) ∧
    (∀ im, s.frontEntry c 5 = some e → (s.ctx c).image = some im → s.bufferCauses c e = [] →
      s.ckptSize im (s.ctx c).key.isSome ≤ feArg e 1 →
      (∀ e', ((s.consume c).ctx c).op = .checkpoint e' → exec (.checkpoint c) s =
        .next (((s.consume c).setCtx c { (s.consume c).ctx c with ckptQ := ((s.consume c).ctx c).ckptQ ++ [e] }).scanRing c)) ∧
      (((s.consume c).ctx c).op = .none → exec (.checkpoint c) s = .next (((s.consume c).beginCkpt c im e).scanRing c))) ∧
    (s.frontEntry c 6 = some e →
      (∀ k, lowest (s.entryCauses c e) = some k → exec (.pause c) s = .next ((s.refuseEntry c e k).scanRing c)) ∧
      (s.entryCauses c e = [] → exec (.pause c) s = .next ((((s.consume c).holdCtx c 0).endEntry c e 1 0 0).scanRing c))) ∧
    (s.frontEntry c 7 = some e → s.entryCauses c e = [] →
      ((bit (s.ctx c).hold 2 = true ∨ bit (s.ctx c).hold 3 = true) → exec (.resume c) s = .next ((s.refuseEntry c e 0x0B).scanRing c)) ∧
      (bit (s.ctx c).hold 2 = false → bit (s.ctx c).hold 3 = false → exec (.resume c) s =
        .next (((((s.consume c).setCtx c { (s.consume c).ctx c with state := 3, hold := 0 }).endEntry c e 1 0 0).scanRing c).tryStart c)))

/-- R321 to R323, R285, R330: operations end. What the buffer yields is its bytes, from the host or from module memory, or
nothing. A LOAD without bytes is refused with READ, one whose image fails a check with that check, one of a retired epoch
with EPOCH (the lower of the two where READ applies as well), any in a module out of service with IMAGE; a good one takes its place, and all wait while an image waits
for its check. A RESTORE applies its buffer or is refused with what failed, NONFINITE and AUTH leaving the state open. A
checkpoint ends with its length, and the next one begins. -/
def Obligations.OperationsEnd : Prop :=
  ∀ (s : State) (c : CtxIdx) (e : FeedEntry) (r : HostRead (List Byte)) (got : Option (List Byte)) (s1 : State), s.live = true →
    (s.bufferBytes c e r = (got, s1) → (s.ctx c).op = .load e →
      (s.loadWaits = true → exec (.loadComplete c r) s = .next s) ∧
      (s.loadWaits = false → s1.err.containState ≠ 1 →
        (got = none → s1.err.containState ≠ 2 →
          (BitVec.ofNat 8 (feArg e 2) = (s1.ctx c).retired → exec (.loadComplete c r) s = .next (s1.failLoad c e 0x06 0)) ∧
          (BitVec.ofNat 8 (feArg e 2) ≠ (s1.ctx c).retired → exec (.loadComplete c r) s = .next (s1.failLoad c e 0x0C 0))) ∧
        (s1.err.containState = 2 →
          exec (.loadComplete c r) s = .next ((s1.takeFree 64).2.failLoad c e 0x05 (s1.takeFree 64).1)) ∧
        (∀ bs k f, got = some bs → s1.err.containState ≠ 2 → s1.checkSched c bs = .error (k, f) →
          exec (.loadComplete c r) s = .next ((s1.reportRefusal k f).failLoad c e 0x05 (BitVec.ofNat 64 k)) ∧
          (s1.reportRefusal k f).img.cause = BitVec.ofNat 8 k ∧ (s1.reportRefusal k f).img.failedSection = BitVec.ofNat 16 f) ∧
        (∀ bs im, got = some bs → s1.err.containState ≠ 2 → s1.checkSched c bs = .ok im →
          (BitVec.ofNat 8 (feArg e 2) = (s1.ctx c).retired → exec (.loadComplete c r) s = .next (s1.failLoad c e 0x06 0)) ∧
          (BitVec.ofNat 8 (feArg e 2) ≠ (s1.ctx c).retired → exec (.loadComplete c r) s = .next (s1.finishLoad c e im))))) ∧
    (∀ im, s.bufferBytes c e r = (got, s1) → (s.ctx c).op = .restore e → (s.ctx c).image = some im → s1.err.containState ≠ 1 →
      let q := s1.setCtx c { s1.ctx c with op := .none }
      (got = none → exec (.restoreComplete c r) s = .next ((q.endEntry c e 3 0x0C 0).scanRing c)) ∧
      (∀ bs body, got = some bs → q.ckptFault (q.ctx c) im bs = .ok body → exec (.restoreComplete c r) s =
        .next ((((q.applyCkpt c im (bs.take headBytes) body).prepareStep c).endEntry c e 1 0 0).scanRing c)) ∧
      (∀ bs k, got = some bs → q.ckptFault (q.ctx c) im bs = .error k → exec (.restoreComplete c r) s =
        .next (((if k = 0x0A ∨ k = 0x0D then q.scrambleState c im else q).endEntry c e 3 k 0).scanRing c))) ∧
    (∀ im, (s.ctx c).op = .checkpoint e → (s.ctx c).image = some im →
      let s0 := if feSpace e then s else s.hostDone c
      let q := (s0.setCtx c { s0.ctx c with op := .none }).endEntry c e 1 0 (BitVec.ofNat 64 (s0.ckptSize im (s.ctx c).key.isSome))
      exec (.checkpointComplete c) s = .next (q.nextCkpt c im (q.ctx c).ckptQ))

/-- R319, R318, R330: the next STEP entry completes. Without a refusal cause it is consumed, its list kept, the feed
position moves on by one and its inputs are asked for; with one it is refused with the lowest. An input that arrives is
written to its ordinal's buffer and marked read; one that does not drops its entry with READ. -/
def Obligations.StepEntriesComplete : Prop :=
  ∀ (s : State) (c : CtxIdx) (im : Sched), (s.ctx c).image = some im →
    (∀ (e : FeedEntry) (r : HostRead (List (BitVec 128))) (got : Option (List (BitVec 128))) (s1 : State), s.frontStep c = some e →
      s.rangeCause c (feSpace e) (feArg e 1) (16 * im.mbCount) = [] → s.stepList e im r = (got, s1) → s1.err.containState ≠ 1 →
      let early := s.entryCauses c e ++ (if feArg e 0 = (s.ctx c).feedPos.toNat then [] else [7])
      let causes := early ++ (match got with
        | none => [0x0C]
        | some ds => ds.zipIdx.flatMap (fun (d : BitVec 128 × Nat) => s1.rangeCause c (inSpace d.1) (inAddr d.1) (inLen d.1) ++
            (if (im.inBuffer d.2 (feArg e 0)).2 < inLen d.1 then [8] else [])))
      (∀ k, lowest causes = some k → exec (.step c r) s = .next ((s1.refuseEntry c e k).scanRing c)) ∧
      (∀ ds, got = some ds → causes = [] →
        let s2 := s1.consume c
        let q : StepEntry := { tag := feTag e, seq := BitVec.ofNat 64 (feArg e 0), mask := BitVec.ofNat 16 (feArg e 2), inputs := ds }
        let s3 := s2.setCtx c { s2.ctx c with stepEntries := (s2.ctx c).stepEntries ++ [q], feedPos := (s2.ctx c).feedPos + 1 }
        exec (.step c r) s = .next (((s3.askInputs c im q).writeConsumer c).tryStart c))) ∧
    (∀ (k : BitVec 4) (q : StepEntry) (rest : List StepEntry) (r : HostRead (List Byte)) (got : Option (List Byte)) (s1 : State),
      s.live = true → (s.ctx c).stepEntries = q :: rest → k.toNat < im.mbCount → bit q.read k.toNat = false →
      s.inputBytes c (nth 0 q.inputs k.toNat) r = (got, s1) → s1.err.containState ≠ 1 →
      (∀ bs, got = some bs →
        let s2 := s1.writeBytes (im.inBuffer k.toNat q.seq.toNat).1 bs
        exec (.stepInputRead c k r) s = .next ((s2.setCtx c { s2.ctx c with
          stepEntries := { q with read := q.read ||| BitVec.ofNat 16 (2 ^ k.toNat) } :: rest }).tryStart c)) ∧
      (got = none → exec (.stepInputRead c k r) s = .next (s1.dropStep c q)))

/-- R326 to R328: aborts and teardown complete. ABORT of a run at once abandons the step; at a step it is noted, or answered
LATE where the run ends no later; of a run already aborted, or with nothing in progress, it is LATE; in DOWN only its fields
are stored. Teardown of a context stops its run, retires its epoch and moves it to the next one; once nothing of the context
is outstanding its memory is zeroed and its image forgotten; then it is EMPTY, or DOWN where the structure does not declare
it. -/
def Obligations.AbortAndTeardownComplete : Prop :=
  ∀ (s : State) (c : CtxIdx), s.barAnswers = true → s.live = true →
    let x := s.ctx c
    (∀ (now : Bool) (tag : BitVec 32),
      let s1 := s.setCtx c { x with abortNow := now, abortTag := tag }
      (x.state = 0 → exec (.abort c now tag) s = .next s1) ∧
      ((x.state = 3 ∨ x.state = 4) →
        (x.abortAt.isSome = true → exec (.abort c now tag) s = .next (s1.postAbort c 4)) ∧
        (x.abortAt = none → now = true → exec (.abort c now tag) s = .next ((s1.postAbort c 5).abortRun c)) ∧
        (x.abortAt = none → now = false →
          let t := max x.abortStep.toNat x.step.toNat
          (x.endStep.toNat ≠ 0 → x.endStep.toNat ≤ t → exec (.abort c now tag) s = .next (s1.postAbort c 4)) ∧
          ((x.endStep.toNat = 0 ∨ t < x.endStep.toNat) → exec (.abort c now tag) s =
            .next ((s1.setCtx c { s1.ctx c with abortAt := some (BitVec.ofNat 64 t, tag) }).postAbort c 5)))) ∧
      (x.state ≠ 0 → x.state ≠ 3 → x.state ≠ 4 → x.op = .none → exec (.abort c now tag) s = .next (s1.postAbort c 4))) ∧
    (exec (.teardown c) s = .next (s.teardownStart c).onIdle ∧
      ((x.state = 0 ∨ x.state = 6) → s.teardownStart c = s) ∧
      (x.state ≠ 0 → x.state ≠ 6 → ((s.teardownStart c).ctx c).state = 6 ∧ ((s.teardownStart c).ctx c).feedQ = [] ∧
        ((s.teardownStart c).ctx c).epoch = ((s.teardownStart c).ctx c).retired + 1)) ∧
    (x.state = 6 → x.undrained = true → x.outHost = 0 → s.outMem c = 0 → s.outLink c = 0 →
      exec (.teardownDrained c) s = .next ((s.teardownScrub c).resetFlows c) ∧ ((s.teardownScrub c).ctx c).image = none) ∧
    (x.state = 6 → x.undrained = false → exec (.teardownScrubDone c) s = .next (s.teardownEnd c))

/-! ## Power, reset, bring-up (R284 to R303, R336, R337, R364 to R370) -/

/-- R288 to R290, R364 to R366, R15: power and reset commands complete. A change of RESET_L or of board power good below 48
µs is ignored and above 52 µs taken; a taken reset, a rail out of limits, and an input out of range for its time put every
register at its reset value; the release, the rails and board power good start bring-up where the rest allows it; a lost
reference stops TICKS. R289, R304: a recognised reset keeps the fuses, the key store, the flash slots and the option-byte
copies, and of the rest nothing: memory reads 0 everywhere, no context holds an image, the tors, the links and the errors
are as after reset, and the start-attempt record keeps its entries. R292: every fuse-controlled pin is high-impedance until the
fuse map is sensed; once sensed it takes its fused state, and takes it again at a recognised reset. -/
def Obligations.PowerAndResetComplete : Prop :=
  (∀ (s : State) (us : BitVec 16),
    (us.toNat < 48 → exec (.resetRecognised us) s = .next s ∧ exec (.resetLRelease us) s = .next s ∧
      ∀ level, exec (.boardPwrgd level us) s = .next s) ∧
    (52 < us.toNat →
      (s.pwr.resetPin = true → exec (.resetRecognised us) s = .next ({ s with pwr := { s.pwr with resetPin := false } }.enterReset)) ∧
      (s.pwr.resetPin = false → exec (.resetLRelease us) s = .next ({ s with pwr := { s.pwr with resetPin := true } }.tryBringUp 1)) ∧
      (s.pwr.boardPwrgd = true →
        exec (.boardPwrgd false us) s = .next ({ s with pwr := { s.pwr with boardPwrgd := false } }.losePower)) ∧
      (s.pwr.boardPwrgd = false →
        exec (.boardPwrgd true us) s = .next ({ s with pwr := { s.pwr with boardPwrgd := true } }.tryBringUp 0))) ∧
    (48 ≤ us.toNat → us.toNat ≤ 52 → ∃ n,
      (s.pwr.resetPin = true → exec (.resetRecognised us) s = .next { s with free := n } ∨ exec (.resetRecognised us) s =
        .next ({ s with free := n, pwr := { s.pwr with resetPin := false } }.enterReset)) ∧
      (s.pwr.resetPin = false → exec (.resetLRelease us) s = .next { s with free := n } ∨ exec (.resetLRelease us) s =
        .next ({ s with free := n, pwr := { s.pwr with resetPin := true } }.tryBringUp 1))) ∧
    (∀ rail, exec (.railOutOfLimits rail) s = .next ({ s with pwr := { s.pwr with railsValid := false } }.losePower)) ∧
    (s.pwr.tripped = false → exec .railsValid s = .next ({ s with pwr := { s.pwr with railsValid := true } }.tryBringUp 0)) ∧
    (∀ (mv : BitVec 17) (t : BitVec 32), ((mv.toNat < 38500 ∨ 60500 < mv.toNat) ∧ 20 < t.toNat) ∨
        ((mv.toNat < 40000 ∨ 59500 < mv.toNat) ∧ 10000 < t.toNat) → (5000 ≤ mv.toNat ∨ t.toNat < 1000000) →
      exec (.inputInvalid mv t) s = .next ({ s with pwr := { s.pwr with railsValid := false } }.losePower)) ∧
    (s.pwr.held = true → s.pwr.railsValid = true → s.pwr.boardPwrgd = true → s.pwr.resetPin = true → s.pwr.tripped = false →
      ∀ src, (s.tryBringUp src).pwr.held = false ∧ (s.tryBringUp src).pwr.ticks = 0 ∧ (s.tryBringUp src).boot.step = 1 ∧
        (s.tryBringUp src).boot.source = src) ∧
    (s.powered = true → s.pwr.refclkLost = false →
      exec .refclkLoss s = .next ({ s with pwr := { s.pwr with refclkLost := true } }.moduleCause 0x41 6 0 0x2) ∧
      { s with pwr := { s.pwr with refclkLost := true } }.tick = { s with pwr := { s.pwr with refclkLost := true } })) ∧
  (∀ s : State,
    let t := s.enterReset
    t.fuses = s.fuses ∧ t.flash.optA = s.flash.optA ∧ t.flash.optB = s.flash.optB ∧ t.flash.fwA = s.flash.fwA ∧
    t.flash.fwB = s.flash.fwB ∧ t.flash.wihornA = s.flash.wihornA ∧ t.flash.wihornB = s.flash.wihornB ∧
    t.flash.startLog = s.flash.startLog ∧ (s.err.logPending = false → t.flash.containLog = s.flash.containLog) ∧
    t.pwr.held = true ∧ t.mem = State.reset.mem ∧ t.tors = [] ∧ t.ctxs = [] ∧ t.links = State.reset.links ∧ t.err = State.reset.err ∧
    t.crn = State.reset.crn ∧ t.img = State.reset.img ∧ t.boot = State.reset.boot ∧ t.host = State.reset.host ∧ t.sec = State.reset.sec ∧
    (∀ k, (s.pwr.sensed = false → t.pinState k = 0) ∧ (s.pwr.sensed = true → t.pinState k = nth 0 s.fuses.pinCode k) ∧
      (s.pwr.faultLow = false → s.pwr.extestPins = [] → s.sensePins.pinState k = nth 0 s.fuses.pinCode k)))

/-- R336, R337, R370, R332: the thermal trip and the governor complete. A die above 115 or a package above 105 degrees
latches the trip and turns the rails off; other readings are stored. A governor window stores its power among the last
hundred and its hottest junction, and moves the supply; over the cap or above 105 degrees the supply above 600 mV goes down
by 5 mV. A cap of 500 to 2,800 W is stored, and a ceiling is held within that range. -/
def Obligations.ThermalAndGovernorComplete : Prop :=
  ∀ s : State,
    (∀ dies pkgs : List (BitVec 8), s.pwr.tripped = false →
      (((∃ t ∈ dies, 115 < t.toNat) ∨ (∃ t ∈ pkgs, 105 < t.toNat)) → exec (.thermalSensorRead dies pkgs) s =
        .next ({ s with pwr := { s.pwr with tripped := true, thermtripLow := true, railsValid := false } }.losePower)) ∧
      ((∀ t ∈ dies, t.toNat ≤ 115) → (∀ t ∈ pkgs, t.toNat ≤ 105) → s.pwr.held = false → exec (.thermalSensorRead dies pkgs) s =
        .next { s with pwr := { s.pwr with dieTemps := dies, pkgTemps := pkgs, tjMax := BitVec.ofNat 8 ((dies.map BitVec.toNat).foldl max 0) } })) ∧
    (∀ (w : BitVec 16) (tj : BitVec 8), s.powered = true → 3 ≤ s.boot.step.toNat →
      let ws := (w :: s.pwr.windows).take 100
      let m := s.meanPower ws
      let s1 := { m.2 with pwr := { m.2.pwr with windows := ws, inputW := m.1, tjMax := tj } }
      exec (.governorWindow w tj) s = .next (s1.govern (decide (s1.effectiveCap < w.toNat) || decide (105 < tj.toNat)))) ∧
    (∀ mv, s.pwr.coreMv = BitVec.ofNat 10 mv → 600 < mv → mv ≤ 850 → (s.govern true).pwr.coreMv = BitVec.ofNat 10 (mv - 5)) ∧
    (∀ w : BitVec 16, s.powered = true → s.mgt.ready = true → 500 ≤ w.toNat → w.toNat ≤ 2800 →
      exec (.powerCapEffecter w) s = .next { s with pwr := { s.pwr with capW := w } }) ∧
    (∀ w : BitVec 16, s.powered = true → s.mgt.ready = true → s.mgt.directAddr ≠ 0 →
      exec (.capCeilingWrite w) s = .next { s with pwr := { s.pwr with capCeiling := BitVec.ofNat 16 (clampNat w.toNat 500 2800) } } ∧
      ({ s with pwr := { s.pwr with capCeiling := w } }).directByte 2 = w.setWidth 8 ∧ s.directByte 0 = 0x04 ∧ s.directByte 1 = 0x4B)

/-- R284, R285, R290, R296 to R302: bring-up completes. Step 1 ends with sound fuses by applying the fuse repairs and
running step 2, else in a failed start; steps 3 and 4 take firmware and structure; step 6 leaves every burst of memory
zero (R165); step 8 ends with the self-check. READY comes once the self-check has ended and the links have settled, clears
the start-attempt count, and is out of service where the containment count has reached its limit. A failing step is a
failed start with its cause. Until step 5 a configuration request is asked to retry, except in bivouac mode. -/
def Obligations.BringUpCompletes : Prop :=
  ∀ (s : State) (fs : List SelfCheckFault), s.powered = true → s.boot.mode = 0 → s.err.containState = 0 →
    (s.boot.step = 1 →
      (fusesOk s.fuses = true → exec (.bringUpStepDone 1 .done fs) s = .next s.sensePins.applyFuseRepairs.bootStep2) ∧
      (fusesOk s.fuses = false → exec (.bringUpStepDone 1 .done fs) s = .next (s.failStart 1 0)) ∧
      ∀ d, exec (.bringUpStepDone 1 (.failed d) fs) s = .next (s.failStart 1 0)) ∧
    (s.boot.step = 3 → exec (.bringUpStepDone 3 .done fs) s = .next s.bootStep3) ∧
    (s.boot.step = 4 → exec (.bringUpStepDone 4 .done fs) s = .next s.bootStep4) ∧
    (s.boot.step = 6 → exec (.bringUpStepDone 6 .done fs) s =
        .next { s with mem := { s.mem with cells := [], initDone := true }, boot := { s.boot with step := 8 } } ∧
      ∀ d, exec (.bringUpStepDone 6 (.failed d) fs) s = .next (s.failStart 4 d.toNat)) ∧
    (s.boot.step = 8 → s.boot.selfChecked = false → exec (.bringUpStepDone 8 .done fs) s =
        .next { (s.selfCheck fs) with boot := { (s.selfCheck fs).boot with selfChecked := true } } ∧
      ∀ d, exec (.bringUpStepDone 8 (.failed d) fs) s = .next (s.failStart 7 d.toNat)) ∧
    (s.boot.step = 8 → s.boot.selfChecked = true → (s.links.state = 2 ∨ s.links.state = 3) →
      let r := { s with boot := { s.boot with mode := 1 } }.noteStart .clear
      (s.err.containCount.toNat < s.boot.opts.containLimit.toNat → exec .ready s = .next r) ∧
      (s.boot.opts.containLimit.toNat ≤ s.err.containCount.toNat →
        exec .ready s = .next ({ r with err := { r.err with containState := 2 } }.raise 0x7 0))) ∧
    (s.boot.cxlUp = true →
      (s.boot.step.toNat ≤ 4 → exec .configurationRequest s = .next (s.emit .configRetry)) ∧
      (4 < s.boot.step.toNat → exec .configurationRequest s = .next (s.emit .configOk)))

/-- R275 to R278, R284, R303: hangs, the containment log and block resets complete. An expired monitor of a block is
recorded and contains the module, unless the block waits for what no monitor counts; a long remote wait raises its event; a
log write that ends adds its entry, or raises its failure. RST_BLOCK resets an idle block and reports it, and a busy one is
left alone with BUSY; in another mode the write is a counted access error. -/
def Obligations.HangsAndBlockResetsComplete : Prop :=
  ∀ (s : State),
    (∀ (b : BitVec 16) (k : BitVec 4) (p : BitVec 32), s.powered = true → s.boot.mode.toNat ≤ 1 → blockIdOk b = true →
      s.unmonitored b = false → s.err.blockRunning ≠ some b → s.err.containState ≠ 1 →
      exec (.hangTimeout b k p) s = .next ({ s with err := { s.err with
        hangBlock := b, hangKind := s.hangKindOf b k, hangProgress := p } }.moduleCause 0x42 5 (field b 13 3) 0x3)) ∧
    (∀ (b : BitVec 16) (k : BitVec 4) (p : BitVec 32), s.unmonitored b = true → exec (.hangTimeout b k p) s = .next s) ∧
    (∀ (t : TorIdx) (token value : Nat), s.live = true → (s.tor t).state = 2 → (s.tor t).waitToken = some (token, value, true) →
      exec (.remoteWaitLong t) s = .next (s.raise 0x27 t.toNat)) ∧
    (s.err.containState = 1 → s.err.logPending = true →
      let s1 := { s with err := { s.err with logPending := false } }
      exec (.containLogWrite false) s = .next (s1.raise 0x10 0) ∧
      exec (.containLogWrite true) s = .next { s1 with flash := { s1.flash with containLog := s1.flash.containLog ++ [
        { serviceS := (match (currentChain s.flash.containLog).getLast? with | some e => e.serviceS | none => 0) + s.dmp.t0.toNat / 100000000,
          cause := s.err.containCause, chainEnd := false, pending := true, step := s.runStep }] } }) ∧
    (∀ b : BitVec 16, s.barAnswers = true → s.boot.mode = 1 →
      let s1 := { s with err := { s.err with blockId := b } }
      (s.err.containState = 1 → exec (.blockReset b) s = .next (s.accessError 2 0x1010)) ∧
      (s.err.containState = 0 → s.err.blockRunning = none → blockIdOk b = true → (field b 13 3 ≤ 3 ∨ b = 0xA000) →
        (s1.blockIdle b = true → exec (.blockReset b) s = .next { (s1.blockEffect b) with
          err := { (s1.blockEffect b).err with blockResult := 1, blockRunning := some b } }) ∧
        (s1.blockIdle b = false → exec (.blockReset b) s = .next { s1 with err := { s1.err with blockResult := 3 } }))) ∧
    (∀ b, s.powered = true → s.err.blockRunning = some b →
      exec .blockResetDone s = .next { s with err := { s.err with blockRunning := none, blockResult := 2 } })

/-! ## The dump and the images (R31 to R38, R280 to R283) -/

/-- R280, R281: the dump goes on block by block while it runs. A block that answers with its whole record is noted ANSWERED,
its bytes are in both copies as far as memory is not suspect; one that misses its limit is noted NO_ANSWER; at the deadline
the blocks not asked are SKIPPED and the dump ends; a write that is not granted makes memory suspect. The block that hung is
never asked. -/
def Obligations.DumpCommandsComplete : Prop :=
  ∀ s : State, s.dmp.active = true →
    let h := s.dumpPassHung
    let b := dumpBlockAt h.dmp.asked
    (∀ r : List Byte, h.dmp.active = true → r.length = b.size →
      let s1 := h.dumpSuspect
      let s2 := { s1 with dmp := { s1.dmp with
        compact := pad (b.compact - recordsStart) s1.dmp.compact ++ r.take (compactBytes (b.id / 8192)) } }
      (s1.dmp.suspect = true → exec (.dumpBlockAnswer r) s = .next ((s2.dumpNote 0 b.size).dumpPassHung)) ∧
      (s1.dmp.suspect = false → exec (.dumpBlockAnswer r) s =
        .next (((s2.writeDump (s2.img.active.moraineBase + b.full) r).dumpNote 0 b.size).dumpPassHung))) ∧
    (h.dmp.active = true → exec .dumpBlockLimit s = .next ((h.dumpNote 1 0).dumpPassHung)) ∧
    (h.dmp.active = true →
      let rest := (List.range (dumpBlocks - h.dmp.asked)).map (fun i =>
        dirEntry (dumpBlockAt (h.dmp.asked + i)).full 0 2 (dumpBlockAt (h.dmp.asked + i)).id)
      exec .dumpDeadline s =
        .next (({ h with dmp := { h.dmp with deadline := true, asked := dumpBlocks, dir := h.dmp.dir ++ rest } }).dumpFinish)) ∧
    (s.dmp.suspect = false → exec .dumpWriteTimeout s = .next { s with dmp := { s.dmp with suspect := true } }) ∧
    (s.err.containCause = 0x42 → s.err.hangBlock ≠ 0xFFFF → (dumpBlockAt s.dmp.asked).id = s.err.hangBlock.toNat → h = s.dumpNote 1 0)

/-- R35, R36, R38: images complete. STAGE takes the image into CHECKING, and is refused as BUSY while one is in hand, and as
a RANGE fault for an image beyond memory or in a reserved region. DISCARD empties the stage. The end of the checks makes a
good image pending, which applies at once where it may, and refuses a bad one with its cause and section. -/
def Obligations.ImageCommandsComplete : Prop :=
  ∀ (s : State),
    (s.barAnswers = true → s.err.containState ≠ 1 →
      (s.img.stage ≠ .empty → exec .stage s = .next (s.refuseImage 0x1E 0) ∧
        exec .discard s = .next { s with img := { s.img with stage := .empty, stagedBytes := none, pending := {}, lastOutcome := 2 } }) ∧
      (s.img.stage = .empty →
        let a := s.img.stageAddr.toNat
        let n := s.img.stageLen.toNat
        ((memTop < 32 * (a + n) ∨ s.inReserved (32 * a) (32 * n) = true) → exec .stage s = .next (s.refuseImage 0x07 0)) ∧
        (32 * (a + n) ≤ memTop → s.inReserved (32 * a) (32 * n) = false →
          ∀ bs s1, s.readBursts 1 ((List.range n).map (a + ·)) = (some bs, s1, false) → exec .stage s =
            .next { s1 with img := { s1.img with stage := .checking, stagedBytes := some (bs.flatMap (fun b => leBytes 32 (payload b))) } }) ∧
        (s.img.lastOutcome = 1 → exec .discard s = .next { s with img := { s.img with lastOutcome := 4 } }))) ∧
    (∀ bs, s.img.stage = .checking → s.img.stagedBytes = some bs → s.powered = true → s.err.containState ≠ 1 →
      let s1 := { s with img := { s.img with stage := .empty, stagedBytes := none } }
      (∀ k f, checkWihorn s.fuses.keys bs = .error (k, f) → exec .imageCheckDone s = .next (s1.refuseImage k f)) ∧
      (∀ w, checkWihorn s.fuses.keys bs = .ok w →
        (s.bound w = true → exec .imageCheckDone s = .next (s1.refuseImage 0x1C 0)) ∧
        (s.bound w = false → s.lateFor w = true → exec .imageCheckDone s = .next (s1.refuseImage 0x1D 0)) ∧
        (s.bound w = false → s.lateFor w = false →
          exec .imageCheckDone s = .next (({ s with img := { s.img with stage := .pending, pending := w } }).switchIfIdle.refreshIfIdle))))

/-! ## The register file (R7, R351 to R359) -/

/-- R7, R283, R351 to R353: register reads complete once BAR0 answers. An aligned read of 4 or 8 bytes answers the bytes of
its registers, a reserved offset reads 0, a read of the aperture answers the moraine's bytes, any other read of the region
is aborted and counted; a read that is accepted changes nothing but what is sent. -/
def Obligations.RegisterReadsComplete : Prop :=
  ∀ (s : State) (o : BitVec 26) (n : BitVec 13), s.barAnswers = true →
    (inAperture o.toNat = false → inStandard o.toNat = false →
      (((n = 4 ∨ n = 8) ∧ o.toNat % n.toNat = 0) →
        exec (.registerRead o n) s = .next (s.emit (.readData (s.regBytes o.toNat n.toNat)))) ∧
      (¬ ((n = 4 ∨ n = 8) ∧ o.toNat % n.toNat = 0) →
        exec (.registerRead o n) s = .next ((s.accessError 1 o).emit .completerAbort))) ∧
    (inAperture o.toNat = true →
      ((4 ≤ n.toNat ∧ n.toNat ≤ 4096 ∧ o.toNat % 4096 + n.toNat ≤ 4096) → exec (.registerRead o n) s = .next (s.emit (.readData
        (s.moraineBytes s.dmp.source (2 ^ 24 * s.dmp.window.toNat + (o.toNat - 0x3000000)) n.toNat)))) ∧
      (¬ (4 ≤ n.toNat ∧ n.toNat ≤ 4096 ∧ o.toNat % 4096 + n.toNat ≤ 4096) →
        exec (.registerRead o n) s = .next (s.emit .completerAbort))) ∧
    (inAperture o.toNat = false → inStandard o.toNat = true → exec (.registerRead o n) s = .next (s.standardRead o.toNat n.toNat) ∧
      { s.standardRead o.toNat n.toNat with out := s.out, free := s.free } = s) ∧
    s.regWord 0x0020 = 0 ∧ s.regWord 0x2FF8 = 0 ∧ s.regWord 0xB138 = 0 ∧ s.regWord 0x22000 = 0

/-- R9, R356: BAR0 answers from the end of bring-up step 4 and not in bivouac mode; reads are served whenever it does; while
bring-up runs, after a failed start and while contained a write of a register clears its write-1-to-clear fields, or writes
DMP_WINDOW, and any other is counted with KIND 2. Register writes complete for a requester that reaches the file: in ready
mode an 8-byte aligned write changes the writable fields of its register, a field held in a range to the nearer limit, and
clears the write-1-to-clear bits where 1 is written, but for those whose event falls in the same cycle (R9); any other size
or alignment is dropped, and counted for the host. -/
def Obligations.RegisterWritesComplete : Prop :=
  (∀ (s : State) (o : BitVec 26) (n : BitVec 13) (v e : BitVec 64),
    (s.barAnswers = true ↔ s.powered = true ∧ 5 ≤ s.boot.step.toNat ∧ s.boot.mode ≠ 3) ∧
    (s.barAnswers = false → exec (.registerRead o n) s = .next s ∧ exec (.registerWrite .host o n ⟨v, e⟩) s = .next s) ∧
    (s.barAnswers = true → inAperture o.toNat = false → inStandard o.toNat = false → (n = 4 ∨ n = 8) → o.toNat % n.toNat = 0 →
      exec (.registerRead o n) s = .next (s.emit (.readData (s.regBytes o.toNat n.toNat))))) ∧
  (∀ (s : State) (v e : BitVec 64), s.reaches .host = true →
    (∀ (o : BitVec 26) (n : BitVec 13), inAperture o.toNat = false → inStandard o.toNat = false → (n ≠ 8 ∨ o.toNat % 8 ≠ 0) →
      exec (.registerWrite .host o n ⟨v, e⟩) s = .next (s.accessError 1 o)) ∧
    (s.writesBarred = true ↔ s.boot.mode = 0 ∨ s.boot.mode = 2 ∨ s.err.containState = 1) ∧
    (s.writesBarred = true → ∀ o : BitVec 26, inAperture o.toNat = false → inStandard o.toNat = false → o.toNat % 8 = 0 →
      exec (.registerWrite .host o 8 ⟨v, e⟩) s = .next
        (if v &&& w1cMask o.toNat ≠ 0 then s.writeW1c o.toNat (v &&& ~~~e)
        else if o = 0xC008 then { s with dmp := { s.dmp with source := bit v 8, window := v.extractLsb' 0 3 } }
        else s.accessError 2 o)) ∧
    (s.writesBarred = true →
      exec (.registerWrite .host 0xA010 8 ⟨v, e⟩) s = .next (s.accessError 2 0xA010) ∧
      exec (.registerWrite .host 0xC008 8 ⟨v, e⟩) s = .next { s with dmp := { s.dmp with source := bit v 8, window := v.extractLsb' 0 3 } } ∧
      (v.getLsbD 63 = true → exec (.registerWrite .host 0xB000 8 ⟨v, e⟩) s =
        .next (if e.getLsbD 63 then s else { s with err := { s.err with causeValid := false } }))) ∧
    (s.writesBarred = false →
      exec (.registerWrite .host 0xA010 8 ⟨v, e⟩) s = .next { s with crn := { s.crn with
        reportTimeout := BitVec.ofNat 32 (min (max (field v 32 32) 1000000) 1000000000),
        hbTimeout := BitVec.ofNat 32 (min (max (field v 0 32) 200000) 100000000) } } ∧
      exec (.registerWrite .host 0x4010 8 ⟨v, e⟩) s = .next { s with mem := { s.mem with
        interval := BitVec.ofNat 16 (min (max (field v 0 16) 1000) 42915) } } ∧
      exec (.registerWrite .host 0xC008 8 ⟨v, e⟩) s = .next { s with dmp := { s.dmp with source := bit v 8, window := v.extractLsb' 0 3 } } ∧
      exec (.registerWrite .host 0xB130 8 ⟨v, e⟩) s = .next { s with err := { s.err with
        deadlines := s.err.deadlines.set 6 (BitVec.ofNat 32 (min (max (field v 0 32) 10000000) 1000000000)) } } ∧
      (v.getLsbD 63 = true → e.getLsbD 63 = false →
        exec (.registerWrite .host 0xB000 8 ⟨v, e⟩) s = .next { s with err := { s.err with causeValid := false } } ∧
        exec (.registerWrite .host 0x0048 8 ⟨v, e⟩) s = .next { s with err := { s.err with accValid := false } }) ∧
      ((v.getLsbD 63 = false ∨ e.getLsbD 63 = true) → exec (.registerWrite .host 0xB000 8 ⟨v, e⟩) s = .next s ∧
          exec (.registerWrite .host 0x0048 8 ⟨v, e⟩) s = .next s) ∧
      exec (.registerWrite .host 0x0000 8 ⟨v, e⟩) s = .next s ∧ exec (.registerWrite .host 0xA000 8 ⟨v, e⟩) s = .next s ∧
      exec (.registerWrite .host 0xD010 8 ⟨v, e⟩) s = .next (s.setCtx 0 { s.ctx 0 with abortStep := v })))

/-! ## Management, security and test access (R331 to R349) -/

/-- R331 to R333, R283, R261: management reads and events complete while the targets respond. Addresses are assigned, the
direct target taking only ENTDAA; endpoint, message types and PLDM types are answered; a sensor answers its reading; a
receiver is set and the oldest record goes out, a poll takes the next record, and an acknowledgement of the record being
sent lets the next one follow. The moraine is read in any mode, up to 4,096 bytes; the shape table and the step records in
ready mode only. -/
def Obligations.ManagementReadsComplete : Prop :=
  ∀ s : State, s.mgmtOn = true →
    (∀ k a, exec (.setdasaEntdaa .mctp k a) s = .next { s with mgt := { s.mgt with mctpAddr := a } }) ∧
    (∀ a, exec (.setdasaEntdaa .direct .entdaa a) s = .next { s with mgt := { s.mgt with directAddr := a } } ∧
      exec (.setdasaEntdaa .direct .setdasa a) s = .next s) ∧
    (∀ e, exec (.mctpControl (.setEndpointId e)) s = .next (({ s with mgt := { s.mgt with eid := e } }).emit (.answer "Set Endpoint ID" [e]))) ∧
    exec (.mctpControl .getEndpointId) s = .next (s.emit (.answer "Get Endpoint ID" [s.mgt.eid])) ∧
    exec .pldmDiscovery s = .next (s.emit (.answer "GetPLDMTypes" [0, 2, 5, 63])) ∧
    exec (.getSensorReading .inputPower) s = .next (s.emit (.answer "GetSensorReading" (leBytes 2 s.pwr.inputW))) ∧
    (∀ d, exec (.getSensorReading (.dieTemp d)) s =
      .next (s.emit (.answer "GetSensorReading" (leBytes 2 ((nth 0 s.pwr.dieTemps d.toNat).setWidth 16))))) ∧
    (∀ e, exec (.setEventReceiver e) s = .next ({ s with mgt := { s.mgt with receiver := some e } }).sendHead) ∧
    (s.mgt.queue = [] → exec .pollForPlatformEventMessage s = .next (s.emit .noEvent) ∧ ∀ n, exec (.eventAcknowledge n) s = .next s) ∧
    (∀ e q, s.mgt.queue = e :: q →
      exec .pollForPlatformEventMessage s = .next ((({ s with mgt := { s.mgt with queue := q } }).emit (.eventMessage e)).sendHead) ∧
      exec (.eventAcknowledge e.seq) s = .next ({ s with mgt := { s.mgt with queue := q } }).sendHead ∧
      ∀ n, n ≠ e.seq → exec (.eventAcknowledge n) s = .next s) ∧
    (∀ (full : Bool) (o : BitVec 32) (n : BitVec 16),
      (n.toNat ≤ 4096 → exec (.readMoraine full o n) s = .next (s.emit (.answer "ReadMoraine" (s.moraineBytes full o.toNat n.toNat)))) ∧
      (4096 < n.toNat → exec (.readMoraine full o n) s = .next (s.emit (.refusedCommand "ReadMoraine: length")))) ∧
    (∀ (o : BitVec 26) (n : BitVec 16), s.boot.mode = 1 →
      exec (.readShapeTable o n) s = .next (s.emit (.answer "ReadShapeTable" (s.shapeBytes o.toNat n.toNat)))) ∧
    (∀ (c : CtxIdx) (im : Sched) (k : BitVec 64) (ds : List (BitVec 272)) (s1 : State) (b : Bool), s.boot.mode = 1 →
      (s.ctx c).image = some im → k ≠ 0 → k.toNat ≤ (s.ctx c).recordSeq.toNat → (s.ctx c).recordSeq.toNat < k.toNat + 256 →
      s.readBursts 8 ((List.range 32).map ((im.recordBase + 1024 * (k.toNat % 256)) / 32 + ·)) = (some ds, s1, b) →
      exec (.readStepRecord c k) s = .next (s1.emit (.answer "ReadStepRecord" (ds.flatMap (fun d => leBytes 32 (payload d))))))

/-- R295, R285, R302, R335, R339 to R344: commands that change what the flash and the fuses hold complete. A valid option-
byte copy goes to the copy not selected; a clear acts on its scopes; an authorised EnrolKey fills an empty owner slot and an
authorised RevokeKey revokes one, and one not authorised is refused; CommitSVN raises the committed security version in
ready mode; a component goes to its target slot while an update is open, and one that fails to verify leaves the slot empty;
ActivateFirmware ends the update. -/
def Obligations.StoredStateCommandsComplete : Prop :=
  ∀ s : State, s.mgmtOn = true →
    (∀ b, optionCause b = 0 →
      let g : Word := if s.boot.optSource = 0 then 1 else s.boot.opts.generation + 1
      (s.boot.optSource = 1 → exec (.writeOptionBytes b) s = .next
        (({ s with flash := { s.flash with optB := stampOptions b g } }).emit (.answer "WriteOptionBytes" []))) ∧
      (s.boot.optSource ≠ 1 → exec (.writeOptionBytes b) s = .next
        (({ s with flash := { s.flash with optA := stampOptions b g } }).emit (.answer "WriteOptionBytes" [])))) ∧
    (∀ b, optionCause b ≠ 0 → exec (.writeOptionBytes b) s = .next (s.emit (.refusedCommand "WriteOptionBytes: invalid copy"))) ∧
    (s.boot.mode ≠ 3 → exec (.managementClear 1) s = .next ((s.noteStart .clear).emit (.answer "ManagementClear" []))) ∧
    (s.err.containState = 2 → exec (.managementClear 2) s = .next (({ s with
      flash := { s.flash with containLog := [] }, err := { s.err with containState := 0 } }).emit (.answer "ManagementClear" []))) ∧
    exec (.managementClear 4) s = .next (({ s with crn := { s.crn with restoreHold := false } }).emit (.answer "ManagementClear" [])) ∧
    (∀ (slot signer : BitVec 2) (key sig : List Byte) (debug : Bool), s.keyMode = true →
      let ok := sigOk s.fuses.keys signer.toNat (s.authHash 0x06 ([slot.setWidth 8] ++ key ++ [BitVec.ofNat 8 (boolNat debug)])) sig
      (ok = false → exec (.enrolKey slot key debug signer sig) s = .next (s.emit (.refusedCommand "ERROR_UNAUTHORISED"))) ∧
      (ok = true → slot ≠ 0 → (nth {} s.fuses.keys slot.toNat).enrolled = false → (nth {} s.fuses.keys slot.toNat).revoked = false →
        exec (.enrolKey slot key debug signer sig) s = .next ((s.setKey slot.toNat
          { key := key, enrolled := true, revoked := false, debug := debug }).emit (.answer "EnrolKey" [])))) ∧
    (∀ (slot signer : BitVec 2) (sig : List Byte), s.keyMode = true →
      let ok := sigOk s.fuses.keys signer.toNat (s.authHash 0x07 [slot.setWidth 8]) sig
      (ok = false → exec (.revokeKey slot signer sig) s = .next (s.emit (.refusedCommand "ERROR_UNAUTHORISED"))) ∧
      (ok = true → slot ≠ 0 → exec (.revokeKey slot signer sig) s = .next ((s.setKey slot.toNat
        { nth {} s.fuses.keys slot.toNat with revoked := true }).emit (.answer "RevokeKey" [])))) ∧
    (s.boot.mode = 1 → s.boot.fwSource ≠ 0 → s.fuses.svn.toNat < s.boot.runSvn.toNat → exec .commitSvn s =
      .next ((({ s with fuses := { s.fuses with svn := s.boot.runSvn } }).raise 0x36 s.boot.runSvn.toNat).emit (.answer "CommitSVN" []))) ∧
    (s.mgt.updating = false → exec .requestUpdate s =
      .next (({ s with mgt := { s.mgt with updating := true } }).emit (.answer "RequestUpdate" []))) ∧
    (∀ bytes, s.mgt.updating = true → bytes.length ≤ 2 ^ 24 →
      exec (.componentWrite .firmware bytes) s = .next ({ s with
        mgt := { s.mgt with targetFw := some (s.targetB .firmware) } }.writeSlot .firmware (s.targetB .firmware) bytes) ∧
      exec (.componentWrite .wihorn bytes) s = .next ({ s with
        mgt := { s.mgt with targetWihorn := some (s.targetB .wihorn) } }.writeSlot .wihorn (s.targetB .wihorn) bytes)) ∧
    (∀ b, s.mgt.targetWihorn = some b →
      (s.componentOk .wihorn (s.slotBytes .wihorn b) = true → exec (.verifyComplete .wihorn) s = .next (s.emit (.answer "VERIFY_SUCCESS" []))) ∧
      (s.componentOk .wihorn (s.slotBytes .wihorn b) = false →
        exec (.verifyComplete .wihorn) s = .next ((s.writeSlot .wihorn b []).emit (.answer "VERIFY_FAILED" [])))) ∧
    (s.mgt.updating = true → exec .activateFirmware s =
      .next (({ s with mgt := { s.mgt with updating := false, targetFw := none, targetWihorn := none } }).emit (.answer "RESET_L needed" [])))

/-- R345 to R347, R310: attestation and sessions complete. Version, capabilities and algorithms in this order negotiate the
connection; certificate, challenge and measurements are answered then; a key exchange opens a session, FINISH sets it up,
heartbeat and key update act in it and it ends; a context key and the CXL link keys are taken inside a session only. -/
def Obligations.SessionsComplete : Prop :=
  ∀ s : State, s.mgmtOn = true →
    exec .getVersion s = .next (({ s with sec := { s.sec with versioned := true, capabilities := false, negotiated := false } }).emit
      (.answer "VERSION" [0x12, 0x13])) ∧
    (s.sec.versioned = true → exec .getCapabilities s = .next (({ s with sec := { s.sec with capabilities := true } }).emit
      (.answer "CERT CHAL MEAS_SIG KEY_EX ENCRYPT MAC HBEAT KEY_UPD" []))) ∧
    (s.sec.capabilities = true →
      exec (.negotiateAlgorithms true true) s = .next (({ s with sec := { s.sec with negotiated := true } }).emit
        (.answer "Falcon-1024 SHAKE256 secp384r1 AES-256-GCM" [])) ∧
      exec (.negotiateAlgorithms false true) s = .next (s.emit (.refusedCommand "SPDM negotiation")) ∧
      exec (.negotiateAlgorithms true false) s = .next (s.emit (.refusedCommand "SPDM negotiation"))) ∧
    (s.sec.negotiated = true →
      exec (.getCertificate 0) s = .next (s.emit (.answer "CERTIFICATE" Config.certificateChain)) ∧
      (∀ nonce, exec (.challenge 0 nonce) s = .next (s.signed "CHALLENGE_AUTH" (leBytes 32 nonce) [])) ∧
      (∀ nonce, exec (.getMeasurements nonce) s = .next (s.signed "MEASUREMENTS" (leBytes 32 nonce) s.measurements.flatten)) ∧
      (∀ pub, exec (.keyExchange pub) s = .next (({ s with sec := { s.sec with
        sessions := { id := s.sec.nextSession } :: s.sec.sessions.filter (fun (e : Session) => e.id != s.sec.nextSession),
        nextSession := s.sec.nextSession + 1 } }).signed "KEY_EXCHANGE_RSP" pub (leBytes 2 s.sec.nextSession)))) ∧
    (∀ id : BitVec 16, s.sec.sessions.any (fun (e : Session) => e.id == id && !e.up) = true →
      exec (.finish id true) s = .next (({ s with sec := { s.sec with sessions := s.sec.sessions.map (fun (e : Session) =>
        if e.id = id then { e with up := true } else e) } }).emit (.answer "FINISH_RSP" []))) ∧
    (∀ id : BitVec 16, s.session id = true →
      exec (.heartbeatSpdm id) s = .next (s.emit (.answer "HEARTBEAT_ACK" [])) ∧
      exec (.keyUpdate id) s = .next (({ s with sec := { s.sec with sessions := s.sec.sessions.map (fun (e : Session) =>
        if e.id = id then { e with generation := e.generation + 1 } else e) } }).emit (.answer "KEY_UPDATE_ACK" [])) ∧
      exec (.endSession id) s = .next (({ s with sec := { s.sec with
        sessions := s.sec.sessions.filter (fun (e : Session) => e.id != id) } }).emit (.answer "END_SESSION_ACK" [])) ∧
      (∀ (c : CtxIdx) (k : Option (BitVec 256)), ((s.ctx c).state = 1 ∨ (s.ctx c).state = 2 ∨ (s.ctx c).state = 5) → (s.ctx c).op = .none →
        exec (.contextKeyRequest (some id) c k) s = .next ((s.setCtx c { s.ctx c with key := k }).emit (.answer "context key" []))) ∧
      (∀ st k, exec (.cxlIdeKm (some id) (.keyProg st k)) s = .next (({ s with host := { s.host with
        ideKeys := (st.toNat, k) :: s.host.ideKeys.filter (fun e => e.1 != st.toNat) } }).emit (.answer "KP_ACK" [])))) ∧
    (∀ (c : CtxIdx) (k : Option (BitVec 256)) (op : IdeOp),
      exec (.contextKeyRequest none c k) s = .next (s.emit (.refusedCommand "context key")) ∧
      exec (.cxlIdeKm none op) s = .next (s.emit (.refusedCommand "CXL_IDE_KM")))

/-- R348, R349, R338: the test access port and debug opening complete. BYPASS and IDCODE answer; a preload sets the boundary
register; EXTEST drives a pin only while debug is open and only to a state its fuse mask allows; a challenge is fresh at
each read; debug opens for a debug key's signature over serial number and challenge in a module that runs nothing, once and
for good: keys, stores and sessions are forgotten; memory is then read and written but for the reserved regions, and
what stays out of reach refuses. -/
def Obligations.TestAccessCompletes : Prop :=
  ∀ s : State, s.tapOn = true → s.powered = true →
    let t := s.endExtest
    exec .bypass s = .next (t.emit (.answer "BYPASS" [])) ∧
    exec .idcode s = .next (t.emit (.answer "IDCODE" (leBytes 4 idcodeWord))) ∧
    (∀ b, exec (.samplePreload b) s = .next (({ (t.takeFree 64).2 with sec := { (t.takeFree 64).2.sec with boundary := b } }).emit
      (.answer "SAMPLE" (leBytes 8 (t.takeFree 64).1)))) ∧
    (∀ pin code, (s.sec.debugOpen = false → exec (.extest pin code) s = .next (s.emit (.refusedCommand "EXTEST"))) ∧
      (s.sec.debugOpen = true → code.toNat ≤ 4 → (nth 0 s.fuses.pinMask (pinNumber pin)).getLsbD code.toNat = true →
        exec (.extest pin code) s = .next { s with pwr := { s.pwr with
          extest := true
          extestPins := (pinNumber pin, code) :: s.pwr.extestPins.filter (fun e => e.1 != pinNumber pin) } })) ∧
    exec .debugChallengeRead s = .next (({ (t.takeFree 128).2 with sec := { (t.takeFree 128).2.sec with
      challenge := some (t.takeFree 128).1 } }).emit (.answer "challenge" (leBytes 16 (t.takeFree 128).1))) ∧
    (∀ (slot : BitVec 2) (sig : List Byte) (ch : BitVec 128), s.sec.challenge = some ch →
      let k := nth {} s.fuses.keys slot.toNat
      let ok := k.enrolled && k.debug && !k.revoked &&
        Config.falconVerify k.key (Config.shake256 (leBytes 8 s.fuses.serial ++ leBytes 16 ch)) sig
      (ok = false → exec (.debugOpening slot sig) s = .next (t.emit (.refusedCommand "BAD_TOKEN"))) ∧
      (ok = true → s.err.containState = 0 → (∀ c, (s.ctx c).state ≠ 3 ∧ (s.ctx c).state ≠ 4 ∧ (s.ctx c).state ≠ 6) →
        exec (.debugOpening slot sig) s = .next t.openDebug ∧ t.openDebug.fuses.debugOpened = true ∧ t.openDebug.sec.debugOpen = true ∧
        t.openDebug.sec.sessions = [] ∧ t.openDebug.host.ideKeys = [] ∧ (∀ c, (t.openDebug.ctx c).key = none))) ∧
    (s.sec.debugOpen = false → ∀ g, exec (.debugAccess g) s = .next (s.emit (.refusedCommand "debug closed"))) ∧
    (s.sec.debugOpen = true →
      exec (.debugAccess .keyStore) s = .next (t.emit (.refusedCommand "unreachable")) ∧
      exec (.debugAccess .fuseEngine) s = .next (({ t with mgt := { t.mgt with blockedFuse := satInc t.mgt.blockedFuse } }.raiseBlocked).emit
        (.refusedCommand "unreachable")) ∧
      (∀ (a : BitVec 36) (d : BitVec 272), a.toNat < memTop / 32 →
        (t.inReserved (32 * a.toNat) 32 = false → exec (.debugAccess (.memWrite a d)) s = .next (t.writeBurst a.toNat d)) ∧
        (t.inReserved (32 * a.toNat) 32 = true →
          exec (.debugAccess (.memWrite a d)) s = .next (t.emit (.refusedCommand "reserved region")))) ∧
      (∀ (a : BitVec 36) (d : BitVec 272) (s1 : State), a.toNat < memTop / 32 → t.moduleRead a.toNat 8 = (.clean d, s1) →
        exec (.debugAccess (.memRead a)) s = .next (s1.emit (.answer "memory" (leBytes 34 d)))))

/-! ## The module as a whole -/

/-- The queue is first in, first out: where a command waits, a step takes the one at the front, and is that command on the
state with the rest of the queue. On an empty queue the time base advances (the model's choice, notes/assumptions/1.md). -/
def Obligations.StepRunsFrontCommand : Prop :=
  (∀ (c : Instr) (rest : List Instr) (s : State), step { s with pending := c :: rest } = exec c { s with pending := rest }) ∧
  (∀ s : State, step { s with pending := [] } = .next ({ s with pending := [] } : State).tick)

/-- R357, R289: after a recognised reset the registers read their reset values, and what the statements below say of every
step holds. -/
def Obligations.ResetRegisters : Prop :=
  State.reset.regWord 0x0040 = 0 ∧ State.reset.regWord 0x0048 = 0 ∧ State.reset.regWord 0x1008 = 0 ∧
  State.reset.regWord 0x2018 = 0 ∧ State.reset.regWord 0x4000 = 0 ∧ State.reset.regWord 0x8000 = 0 ∧
  State.reset.regWord 0xA010 = 0x02FAF080001E8480 ∧ State.reset.regWord 0xA018 = 0 ∧ State.reset.regWord 0xB000 = 0x0000070000000000 ∧
  State.reset.regWord 0xB008 = 0 ∧ State.reset.regWord 0xC000 = 0 ∧ State.reset.regWord 0xF800 = 0 ∧
  State.reset.rangesHeld = true ∧ State.reset.slot0Kept = true ∧ State.reset.memoriesWf = true ∧ State.reset.pending = []

/-- R339, R342, R349: a fuse is never unblown. Whatever a step does, an enrolled slot stays enrolled, a revoked one stays
revoked, a debug key stays one, slot 0 stays Lombiex's, the security version does not go back and DEBUG_OPENED stays set. -/
def Obligations.EveryStepKeepsFuses : Prop :=
  ∀ s s' : State, s.slot0Kept = true → step s = .next s' → s'.slot0Kept = true ∧ s.fuses.keeps s'.fuses = true

/-- R354, R275, R181: every field that the spec holds in a range stays in it, whatever command a step runs. -/
def Obligations.EveryStepKeepsRanges : Prop :=
  ∀ s s' : State, s.rangesHeld = true → step s = .next s' → s'.rangesHeld = true

/-- A command changes nothing of the queue: whatever it does, the commands that wait are the same, in the same order. -/
def Obligations.EveryStepDropsOneCommand : Prop :=
  ∀ s s' : State, step s = .next s' → s'.pending = s.pending.drop 1

/-- Module memory keeps its one canonical form: addresses rise strictly, and no listed byte is 0. -/
def Obligations.EveryStepKeepsMemoryForm : Prop :=
  ∀ s s' : State, memWf s.mem.cells = true → step s = .next s' → memWf s'.mem.cells = true
end

