-- ==== Sys2Proof/Laws/Maps.lean ====
section
/-! SUPPORT. Laws of the finite maps and of memory: what a read after a write gives, and that writes keep the canonical
form. -/

namespace Sys2Proof.Machine
open Sys2Proof

/-- Looking a key up in a rising list after a value was put at another or the same key. -/
theorem regPut_find {α : Type} (m : SMap α) (i j : Nat) (v : α) :
    (regPut m i v).find? (fun e => e.1 == j) = if j = i then some (i, v) else m.find? (fun e => e.1 == j) := by
  have hne : ∀ k, k ≠ j → ((k == j) = false) := fun k h => by simpa using h
  induction m with
  | nil =>
    by_cases h : j = i
    · subst h; simp [regPut]
    · simp [regPut, List.find?, hne i (fun e => h e.symm), h]
  | cons p t ih =>
    obtain ⟨k, w⟩ := p
    simp only [regPut]
    split
    · by_cases h : j = i
      · subst h; simp [List.find?]
      · simp [List.find?, hne i (fun e => h e.symm), h]
    · split
      · rename_i h1 h2; subst h2
        by_cases h : j = i
        · subst h; simp [List.find?]
        · simp [List.find?, hne i (fun e => h e.symm), h]
      · rename_i h1 h2
        simp only [List.find?, ih]
        by_cases hk : k = j
        · subst hk; simp; intro h; exact absurd h.symm h2
        · simp [hne k hk]

theorem mapGet_regPut {α : Type} (d : α) (m : SMap α) (i j : Nat) (v : α) :
    mapGet d (regPut m i v) j = if j = i then v else mapGet d m j := by
  induction m with
  | nil => simp only [regPut, mapGet]; by_cases h : i = j <;> simp [h, eq_comm]
  | cons p t ih =>
    obtain ⟨k, w⟩ := p
    simp only [regPut]
    split
    · by_cases h : i = j
      · subst h; simp [mapGet]
      · simp [mapGet, h, Ne.symm h]
    · split
      · rename_i _ h2; subst h2
        by_cases h : i = j
        · subst h; simp [mapGet]
        · simp [mapGet, h, Ne.symm h]
      · rename_i _ h2
        by_cases hk : k = j
        · subst hk; simp [mapGet, Ne.symm h2]
        · simp [mapGet, hk, ih]

theorem mapGet_filter_ne {α : Type} (d : α) (m : SMap α) (i j : Nat) :
    mapGet d (m.filter (fun e => e.1 != i)) j = if j = i then d else mapGet d m j := by
  induction m with
  | nil => simp [mapGet]
  | cons p t ih =>
    obtain ⟨k, w⟩ := p
    by_cases hk : k = i
    · subst hk
      rw [List.filter_cons_of_neg (by simp), ih]
      by_cases h : j = k
      · simp [h]
      · simp [mapGet, h, Ne.symm h]
    · rw [List.filter_cons_of_pos (by simpa using hk)]
      by_cases h : k = j
      · subst h; simp [mapGet, hk]
      · simp [mapGet, h, ih]

/-- A map reads back what was written, and every other key as before. -/
theorem mapGet_mapSet {α : Type} [DecidableEq α] (d : α) (m : SMap α) (i j : Nat) (v : α) :
    mapGet d (mapSet d m i v) j = if j = i then v else mapGet d m j := by
  simp only [mapSet]
  split
  · rename_i h; rw [mapGet_filter_ne, h]
  · exact mapGet_regPut d m i j v

@[simp] theorem mapGet_mapSet_self {α : Type} [DecidableEq α] (d : α) (m : SMap α) (i : Nat) (v : α) :
    mapGet d (mapSet d m i v) i = v := by rw [mapGet_mapSet]; simp

theorem mapGet_mapSet_ne {α : Type} [DecidableEq α] (d : α) (m : SMap α) (i j : Nat) (v : α) (h : j ≠ i) :
    mapGet d (mapSet d m i v) j = mapGet d m j := by rw [mapGet_mapSet]; simp [h]

theorem regPut_regPut {α : Type} (m : SMap α) (i : Nat) (v w : α) : regPut (regPut m i v) i w = regPut m i w := by
  induction m with
  | nil => simp [regPut]
  | cons p t ih =>
    obtain ⟨k, u⟩ := p
    simp only [regPut]
    by_cases h1 : i < k
    · simp [h1, regPut]
    · by_cases h2 : i = k
      · simp [h2, regPut]
      · simp [h1, h2, regPut, ih]

theorem filter_regPut {α : Type} (m : SMap α) (i : Nat) (v : α) :
    (regPut m i v).filter (fun e => e.1 != i) = m.filter (fun e => e.1 != i) := by
  induction m with
  | nil => simp [regPut]
  | cons p t ih =>
    obtain ⟨k, u⟩ := p
    simp only [regPut]
    by_cases h1 : i < k
    · simp [h1]
    · by_cases h2 : i = k
      · simp [h2]
      · simp [h1, h2, List.filter_cons, ih]

/-- Of two writes of one key the second counts, where the first is not the default. -/
theorem mapSet_mapSet {α : Type} [DecidableEq α] (d : α) (m : SMap α) (i : Nat) (v w : α) (hv : v ≠ d) :
    mapSet d (mapSet d m i v) i w = mapSet d m i w := by
  simp only [mapSet, hv, if_false]
  split
  · exact filter_regPut ..
  · exact regPut_regPut ..

/-! ## The canonical form -/

/-- Keys strictly rising above a bound, as a proposition. -/
theorem keysAbove_cons {α : Type} (b : Option Nat) (k : Nat) (w : α) (t : SMap α) :
    keysAbove b ((k, w) :: t) = ((match b with | none => true | some x => decide (x < k)) && keysAbove (some k) t) := by
  cases b <;> simp [keysAbove]

theorem keysAbove_weaken {α : Type} (m : SMap α) (a b : Nat) (h : a ≤ b) (hm : keysAbove (some b) m = true) :
    keysAbove (some a) m = true := by
  cases m with
  | nil => rfl
  | cons p t =>
    obtain ⟨k, w⟩ := p
    simp only [keysAbove_cons, Bool.and_eq_true, decide_eq_true_eq] at hm ⊢
    exact ⟨by omega, hm.2⟩

theorem keysAbove_none_of_some {α : Type} (m : SMap α) (a : Nat) (hm : keysAbove (some a) m = true) : keysAbove none m = true := by
  cases m with
  | nil => rfl
  | cons p t =>
    obtain ⟨k, w⟩ := p
    simp only [keysAbove_cons, Bool.and_eq_true] at hm ⊢
    exact ⟨trivial, hm.2⟩

theorem keysAbove_filter {α : Type} (q : Nat × α → Bool) : ∀ (m : SMap α) (b : Option Nat),
    keysAbove b m = true → keysAbove b (m.filter q) = true := by
  intro m
  induction m with
  | nil => intro b _; cases b <;> rfl
  | cons p t ih =>
    intro b hb
    obtain ⟨k, w⟩ := p
    simp only [keysAbove_cons, Bool.and_eq_true] at hb
    by_cases hq : q (k, w) = true
    · rw [List.filter_cons_of_pos hq]
      simp only [keysAbove_cons, Bool.and_eq_true]
      exact ⟨hb.1, ih _ hb.2⟩
    · rw [List.filter_cons_of_neg hq]
      have h1 := ih (some k) hb.2
      cases b with
      | none => exact keysAbove_none_of_some _ _ h1
      | some x => exact keysAbove_weaken _ x k (by have := hb.1; simp only [decide_eq_true_eq] at this; omega) h1

theorem keysAbove_regPut {α : Type} (i : Nat) (v : α) : ∀ (m : SMap α) (b : Option Nat),
    keysAbove b m = true → (∀ x, b = some x → x < i) → keysAbove b (regPut m i v) = true := by
  intro m
  induction m with
  | nil => intro b _ hi; cases b <;> simp [regPut, keysAbove]; exact hi _ rfl
  | cons p t ih =>
    intro b hb hi
    obtain ⟨k, w⟩ := p
    have hb' := hb
    simp only [keysAbove_cons, Bool.and_eq_true] at hb'
    have hbi : keysAbove b [(i, v)] = true := by
      cases b with
      | none => rfl
      | some x => simpa [keysAbove] using hi x rfl
    simp only [keysAbove_cons, Bool.and_eq_true] at hbi
    simp only [regPut]
    split
    · rename_i h
      simp only [keysAbove_cons, Bool.and_eq_true]
      exact ⟨hbi.1, by simpa using h, hb'.2⟩
    · split
      · rename_i h; subst h
        simp only [keysAbove_cons, Bool.and_eq_true]
        exact ⟨hbi.1, hb'.2⟩
      · simp only [keysAbove_cons, Bool.and_eq_true]
        refine ⟨hb'.1, ih _ hb'.2 ?_⟩
        intro x hx; cases hx; omega

theorem all_regPut {α : Type} (q : α → Bool) (i : Nat) (v : α) (hv : q v = true) : ∀ (m : SMap α),
    m.all (fun e => q e.2) = true → (regPut m i v).all (fun e => q e.2) = true := by
  intro m
  induction m with
  | nil => intro _; simp [regPut, hv]
  | cons p t ih =>
    intro h
    obtain ⟨k, w⟩ := p
    simp only [List.all_cons, Bool.and_eq_true] at h
    simp only [regPut]
    split
    · simp [hv, h.1, h.2]
    · split
      · simp [hv, h.2]
      · simp [h.1, ih h.2]

theorem all_filter {α : Type} (q : α → Bool) (p : α → Bool) (m : List α) (h : m.all q = true) : (m.filter p).all q = true := by
  rw [List.all_eq_true] at h ⊢
  intro x hx; exact h x (List.mem_filter.mp hx).1

/-- Every write of a map keeps its canonical form. -/
theorem mapSet_wf {α : Type} [DecidableEq α] (d : α) (m : SMap α) (i : Nat) (v : α) (h : mapWf d m = true) :
    mapWf d (mapSet d m i v) = true := by
  simp only [mapWf, Bool.and_eq_true] at h ⊢
  simp only [mapSet]
  split
  · exact ⟨keysAbove_filter _ _ _ h.1, all_filter _ _ _ h.2⟩
  · rename_i hv
    exact ⟨keysAbove_regPut _ _ _ _ h.1 (by simp), all_regPut (fun x => decide (x ≠ d)) i v (by simpa using hv) m h.2⟩

/-! ## Memory -/

theorem memByte_memSetByte (m : Memory) (a b : Nat) (v : Byte) :
    memByte (memSetByte m a v) b = if b = a then v else memByte m b := mapGet_mapSet 0 m a b v

theorem memByte_memSetBytes (m : Memory) (a b : Nat) (vs : List Byte) :
    memByte (memSetBytes m a vs) b = if a ≤ b ∧ b < a + vs.length then nth 0 vs (b - a) else memByte m b := by
  induction vs generalizing m a with
  | nil => simp only [memSetBytes, List.length_nil]; rw [if_neg (by omega)]
  | cons v vs ih =>
    simp only [memSetBytes, ih, memByte_memSetByte, List.length_cons]
    by_cases h : b = a
    · subst h; rw [if_neg (by omega)]; simp [nth]
    · by_cases h2 : a + 1 ≤ b ∧ b < a + 1 + vs.length
      · rw [if_pos h2, if_pos (by omega)]
        have : b - a = (b - (a + 1)) + 1 := by omega
        rw [this]; simp [nth]
      · rw [if_neg h2, if_neg h, if_neg (by omega)]

theorem mapGet_filter_key {α : Type} (d : α) (q : Nat → Bool) (m : SMap α) (j : Nat) :
    mapGet d (m.filter (fun e => q e.1)) j = if q j = true then mapGet d m j else d := by
  induction m with
  | nil => simp [mapGet]
  | cons p t ih =>
    obtain ⟨k, w⟩ := p
    by_cases hk : q k = true
    · rw [List.filter_cons_of_pos (by simpa using hk)]
      by_cases h : k = j
      · subst h; simp [mapGet, hk]
      · simp [mapGet, h, ih]
    · rw [List.filter_cons_of_neg (by simpa using hk), ih]
      by_cases h : k = j
      · subst h; simp [hk]
      · simp [mapGet, h]

theorem memByte_memClear (m : Memory) (lo hi b : Nat) :
    memByte (memClear m lo hi) b = if lo ≤ b ∧ b < hi then 0 else memByte m b := by
  have h := mapGet_filter_key (0 : Byte) (fun k => decide (k < lo) || decide (hi ≤ k)) m b
  simp only [memByte, memClear, h]
  by_cases hb : lo ≤ b ∧ b < hi
  · rw [if_neg (by simp; omega), if_pos hb]
  · rw [if_pos (by simp; omega), if_neg hb]

theorem memSetByte_wf (m : Memory) (a : Nat) (v : Byte) (h : memWf m = true) : memWf (memSetByte m a v) = true := mapSet_wf 0 m a v h

theorem memSetBytes_wf (vs : List Byte) : ∀ (m : Memory) (a : Nat), memWf m = true → memWf (memSetBytes m a vs) = true := by
  induction vs with
  | nil => intro m a h; exact h
  | cons v vs ih => intro m a h; exact ih _ _ (memSetByte_wf m a v h)

theorem memFilter_wf (q : Host.Cell → Bool) (m : Memory) (h : memWf m = true) : memWf (m.filter q) = true := by
  simp only [memWf, mapWf, Bool.and_eq_true] at h ⊢
  exact ⟨keysAbove_filter _ _ _ h.1, all_filter _ _ _ h.2⟩

theorem memClear_wf (m : Memory) (lo hi : Nat) (h : memWf m = true) : memWf (memClear m lo hi) = true := memFilter_wf _ m h

end Sys2Proof.Machine
end

