-- ==== Sys2Proof/Laws/State.lean ====
section
/-! SUPPORT. What each named update of the state leaves and what it sets: one lemma per field and update, so that no proof
unfolds a record update. -/

namespace Sys2Proof.Machine
open Sys2Proof

/-! ## State.setTor -/

@[simp] theorem State.setTor_pending (s : State) (t : TorIdx) (x : Tor) : (s.setTor t x).pending = s.pending := rfl
@[simp] theorem State.setTor_free (s : State) (t : TorIdx) (x : Tor) : (s.setTor t x).free = s.free := rfl
@[simp] theorem State.setTor_fuses (s : State) (t : TorIdx) (x : Tor) : (s.setTor t x).fuses = s.fuses := rfl
@[simp] theorem State.setTor_flash (s : State) (t : TorIdx) (x : Tor) : (s.setTor t x).flash = s.flash := rfl
@[simp] theorem State.setTor_pwr (s : State) (t : TorIdx) (x : Tor) : (s.setTor t x).pwr = s.pwr := rfl
@[simp] theorem State.setTor_boot (s : State) (t : TorIdx) (x : Tor) : (s.setTor t x).boot = s.boot := rfl
@[simp] theorem State.setTor_err (s : State) (t : TorIdx) (x : Tor) : (s.setTor t x).err = s.err := rfl
@[simp] theorem State.setTor_img (s : State) (t : TorIdx) (x : Tor) : (s.setTor t x).img = s.img := rfl
@[simp] theorem State.setTor_mem (s : State) (t : TorIdx) (x : Tor) : (s.setTor t x).mem = s.mem := rfl
@[simp] theorem State.setTor_links (s : State) (t : TorIdx) (x : Tor) : (s.setTor t x).links = s.links := rfl
@[simp] theorem State.setTor_ni (s : State) (t : TorIdx) (x : Tor) : (s.setTor t x).ni = s.ni := rfl
@[simp] theorem State.setTor_ctxs (s : State) (t : TorIdx) (x : Tor) : (s.setTor t x).ctxs = s.ctxs := rfl
@[simp] theorem State.setTor_crn (s : State) (t : TorIdx) (x : Tor) : (s.setTor t x).crn = s.crn := rfl
@[simp] theorem State.setTor_dmp (s : State) (t : TorIdx) (x : Tor) : (s.setTor t x).dmp = s.dmp := rfl
@[simp] theorem State.setTor_mgt (s : State) (t : TorIdx) (x : Tor) : (s.setTor t x).mgt = s.mgt := rfl
@[simp] theorem State.setTor_host (s : State) (t : TorIdx) (x : Tor) : (s.setTor t x).host = s.host := rfl
@[simp] theorem State.setTor_sec (s : State) (t : TorIdx) (x : Tor) : (s.setTor t x).sec = s.sec := rfl
@[simp] theorem State.setTor_ceilInbox (s : State) (t : TorIdx) (x : Tor) : (s.setTor t x).ceilInbox = s.ceilInbox := rfl
@[simp] theorem State.setTor_flbCounts (s : State) (t : TorIdx) (x : Tor) : (s.setTor t x).flbCounts = s.flbCounts := rfl
@[simp] theorem State.setTor_planeFetchTotal (s : State) (t : TorIdx) (x : Tor) : (s.setTor t x).planeFetchTotal = s.planeFetchTotal := rfl
@[simp] theorem State.setTor_prefetch (s : State) (t : TorIdx) (x : Tor) : (s.setTor t x).prefetch = s.prefetch := rfl
@[simp] theorem State.setTor_out (s : State) (t : TorIdx) (x : Tor) : (s.setTor t x).out = s.out := rfl

/-! ## State.setCtx -/

@[simp] theorem State.setCtx_pending (s : State) (c : CtxIdx) (x : Context) : (s.setCtx c x).pending = s.pending := rfl
@[simp] theorem State.setCtx_free (s : State) (c : CtxIdx) (x : Context) : (s.setCtx c x).free = s.free := rfl
@[simp] theorem State.setCtx_fuses (s : State) (c : CtxIdx) (x : Context) : (s.setCtx c x).fuses = s.fuses := rfl
@[simp] theorem State.setCtx_flash (s : State) (c : CtxIdx) (x : Context) : (s.setCtx c x).flash = s.flash := rfl
@[simp] theorem State.setCtx_pwr (s : State) (c : CtxIdx) (x : Context) : (s.setCtx c x).pwr = s.pwr := rfl
@[simp] theorem State.setCtx_boot (s : State) (c : CtxIdx) (x : Context) : (s.setCtx c x).boot = s.boot := rfl
@[simp] theorem State.setCtx_err (s : State) (c : CtxIdx) (x : Context) : (s.setCtx c x).err = s.err := rfl
@[simp] theorem State.setCtx_img (s : State) (c : CtxIdx) (x : Context) : (s.setCtx c x).img = s.img := rfl
@[simp] theorem State.setCtx_tors (s : State) (c : CtxIdx) (x : Context) : (s.setCtx c x).tors = s.tors := rfl
@[simp] theorem State.setCtx_mem (s : State) (c : CtxIdx) (x : Context) : (s.setCtx c x).mem = s.mem := rfl
@[simp] theorem State.setCtx_links (s : State) (c : CtxIdx) (x : Context) : (s.setCtx c x).links = s.links := rfl
@[simp] theorem State.setCtx_ni (s : State) (c : CtxIdx) (x : Context) : (s.setCtx c x).ni = s.ni := rfl
@[simp] theorem State.setCtx_crn (s : State) (c : CtxIdx) (x : Context) : (s.setCtx c x).crn = s.crn := rfl
@[simp] theorem State.setCtx_dmp (s : State) (c : CtxIdx) (x : Context) : (s.setCtx c x).dmp = s.dmp := rfl
@[simp] theorem State.setCtx_mgt (s : State) (c : CtxIdx) (x : Context) : (s.setCtx c x).mgt = s.mgt := rfl
@[simp] theorem State.setCtx_host (s : State) (c : CtxIdx) (x : Context) : (s.setCtx c x).host = s.host := rfl
@[simp] theorem State.setCtx_sec (s : State) (c : CtxIdx) (x : Context) : (s.setCtx c x).sec = s.sec := rfl
@[simp] theorem State.setCtx_ceilInbox (s : State) (c : CtxIdx) (x : Context) : (s.setCtx c x).ceilInbox = s.ceilInbox := rfl
@[simp] theorem State.setCtx_flbCounts (s : State) (c : CtxIdx) (x : Context) : (s.setCtx c x).flbCounts = s.flbCounts := rfl
@[simp] theorem State.setCtx_planeFetchTotal (s : State) (c : CtxIdx) (x : Context) : (s.setCtx c x).planeFetchTotal = s.planeFetchTotal := rfl
@[simp] theorem State.setCtx_prefetch (s : State) (c : CtxIdx) (x : Context) : (s.setCtx c x).prefetch = s.prefetch := rfl
@[simp] theorem State.setCtx_out (s : State) (c : CtxIdx) (x : Context) : (s.setCtx c x).out = s.out := rfl

/-! ## State.setPort -/

@[simp] theorem State.setPort_pending (s : State) (p : Nat) (x : Port) : (s.setPort p x).pending = s.pending := rfl
@[simp] theorem State.setPort_free (s : State) (p : Nat) (x : Port) : (s.setPort p x).free = s.free := rfl
@[simp] theorem State.setPort_fuses (s : State) (p : Nat) (x : Port) : (s.setPort p x).fuses = s.fuses := rfl
@[simp] theorem State.setPort_flash (s : State) (p : Nat) (x : Port) : (s.setPort p x).flash = s.flash := rfl
@[simp] theorem State.setPort_pwr (s : State) (p : Nat) (x : Port) : (s.setPort p x).pwr = s.pwr := rfl
@[simp] theorem State.setPort_boot (s : State) (p : Nat) (x : Port) : (s.setPort p x).boot = s.boot := rfl
@[simp] theorem State.setPort_err (s : State) (p : Nat) (x : Port) : (s.setPort p x).err = s.err := rfl
@[simp] theorem State.setPort_img (s : State) (p : Nat) (x : Port) : (s.setPort p x).img = s.img := rfl
@[simp] theorem State.setPort_tors (s : State) (p : Nat) (x : Port) : (s.setPort p x).tors = s.tors := rfl
@[simp] theorem State.setPort_mem (s : State) (p : Nat) (x : Port) : (s.setPort p x).mem = s.mem := rfl
@[simp] theorem State.setPort_ni (s : State) (p : Nat) (x : Port) : (s.setPort p x).ni = s.ni := rfl
@[simp] theorem State.setPort_ctxs (s : State) (p : Nat) (x : Port) : (s.setPort p x).ctxs = s.ctxs := rfl
@[simp] theorem State.setPort_crn (s : State) (p : Nat) (x : Port) : (s.setPort p x).crn = s.crn := rfl
@[simp] theorem State.setPort_dmp (s : State) (p : Nat) (x : Port) : (s.setPort p x).dmp = s.dmp := rfl
@[simp] theorem State.setPort_mgt (s : State) (p : Nat) (x : Port) : (s.setPort p x).mgt = s.mgt := rfl
@[simp] theorem State.setPort_host (s : State) (p : Nat) (x : Port) : (s.setPort p x).host = s.host := rfl
@[simp] theorem State.setPort_sec (s : State) (p : Nat) (x : Port) : (s.setPort p x).sec = s.sec := rfl
@[simp] theorem State.setPort_ceilInbox (s : State) (p : Nat) (x : Port) : (s.setPort p x).ceilInbox = s.ceilInbox := rfl
@[simp] theorem State.setPort_flbCounts (s : State) (p : Nat) (x : Port) : (s.setPort p x).flbCounts = s.flbCounts := rfl
@[simp] theorem State.setPort_planeFetchTotal (s : State) (p : Nat) (x : Port) : (s.setPort p x).planeFetchTotal = s.planeFetchTotal := rfl
@[simp] theorem State.setPort_prefetch (s : State) (p : Nat) (x : Port) : (s.setPort p x).prefetch = s.prefetch := rfl
@[simp] theorem State.setPort_out (s : State) (p : Nat) (x : Port) : (s.setPort p x).out = s.out := rfl

/-! ## State.setSub -/

@[simp] theorem State.setSub_pending (s : State) (i : Nat) (x : Subchannel) : (s.setSub i x).pending = s.pending := rfl
@[simp] theorem State.setSub_free (s : State) (i : Nat) (x : Subchannel) : (s.setSub i x).free = s.free := rfl
@[simp] theorem State.setSub_fuses (s : State) (i : Nat) (x : Subchannel) : (s.setSub i x).fuses = s.fuses := rfl
@[simp] theorem State.setSub_flash (s : State) (i : Nat) (x : Subchannel) : (s.setSub i x).flash = s.flash := rfl
@[simp] theorem State.setSub_pwr (s : State) (i : Nat) (x : Subchannel) : (s.setSub i x).pwr = s.pwr := rfl
@[simp] theorem State.setSub_boot (s : State) (i : Nat) (x : Subchannel) : (s.setSub i x).boot = s.boot := rfl
@[simp] theorem State.setSub_err (s : State) (i : Nat) (x : Subchannel) : (s.setSub i x).err = s.err := rfl
@[simp] theorem State.setSub_img (s : State) (i : Nat) (x : Subchannel) : (s.setSub i x).img = s.img := rfl
@[simp] theorem State.setSub_tors (s : State) (i : Nat) (x : Subchannel) : (s.setSub i x).tors = s.tors := rfl
@[simp] theorem State.setSub_links (s : State) (i : Nat) (x : Subchannel) : (s.setSub i x).links = s.links := rfl
@[simp] theorem State.setSub_ni (s : State) (i : Nat) (x : Subchannel) : (s.setSub i x).ni = s.ni := rfl
@[simp] theorem State.setSub_ctxs (s : State) (i : Nat) (x : Subchannel) : (s.setSub i x).ctxs = s.ctxs := rfl
@[simp] theorem State.setSub_crn (s : State) (i : Nat) (x : Subchannel) : (s.setSub i x).crn = s.crn := rfl
@[simp] theorem State.setSub_dmp (s : State) (i : Nat) (x : Subchannel) : (s.setSub i x).dmp = s.dmp := rfl
@[simp] theorem State.setSub_mgt (s : State) (i : Nat) (x : Subchannel) : (s.setSub i x).mgt = s.mgt := rfl
@[simp] theorem State.setSub_host (s : State) (i : Nat) (x : Subchannel) : (s.setSub i x).host = s.host := rfl
@[simp] theorem State.setSub_sec (s : State) (i : Nat) (x : Subchannel) : (s.setSub i x).sec = s.sec := rfl
@[simp] theorem State.setSub_ceilInbox (s : State) (i : Nat) (x : Subchannel) : (s.setSub i x).ceilInbox = s.ceilInbox := rfl
@[simp] theorem State.setSub_flbCounts (s : State) (i : Nat) (x : Subchannel) : (s.setSub i x).flbCounts = s.flbCounts := rfl
@[simp] theorem State.setSub_planeFetchTotal (s : State) (i : Nat) (x : Subchannel) : (s.setSub i x).planeFetchTotal = s.planeFetchTotal := rfl
@[simp] theorem State.setSub_prefetch (s : State) (i : Nat) (x : Subchannel) : (s.setSub i x).prefetch = s.prefetch := rfl
@[simp] theorem State.setSub_out (s : State) (i : Nat) (x : Subchannel) : (s.setSub i x).out = s.out := rfl

/-! ## State.setCells -/

@[simp] theorem State.setCells_pending (s : State) (m : Memory) : (s.setCells m).pending = s.pending := rfl
@[simp] theorem State.setCells_free (s : State) (m : Memory) : (s.setCells m).free = s.free := rfl
@[simp] theorem State.setCells_fuses (s : State) (m : Memory) : (s.setCells m).fuses = s.fuses := rfl
@[simp] theorem State.setCells_flash (s : State) (m : Memory) : (s.setCells m).flash = s.flash := rfl
@[simp] theorem State.setCells_pwr (s : State) (m : Memory) : (s.setCells m).pwr = s.pwr := rfl
@[simp] theorem State.setCells_boot (s : State) (m : Memory) : (s.setCells m).boot = s.boot := rfl
@[simp] theorem State.setCells_err (s : State) (m : Memory) : (s.setCells m).err = s.err := rfl
@[simp] theorem State.setCells_img (s : State) (m : Memory) : (s.setCells m).img = s.img := rfl
@[simp] theorem State.setCells_tors (s : State) (m : Memory) : (s.setCells m).tors = s.tors := rfl
@[simp] theorem State.setCells_links (s : State) (m : Memory) : (s.setCells m).links = s.links := rfl
@[simp] theorem State.setCells_ni (s : State) (m : Memory) : (s.setCells m).ni = s.ni := rfl
@[simp] theorem State.setCells_ctxs (s : State) (m : Memory) : (s.setCells m).ctxs = s.ctxs := rfl
@[simp] theorem State.setCells_crn (s : State) (m : Memory) : (s.setCells m).crn = s.crn := rfl
@[simp] theorem State.setCells_dmp (s : State) (m : Memory) : (s.setCells m).dmp = s.dmp := rfl
@[simp] theorem State.setCells_mgt (s : State) (m : Memory) : (s.setCells m).mgt = s.mgt := rfl
@[simp] theorem State.setCells_host (s : State) (m : Memory) : (s.setCells m).host = s.host := rfl
@[simp] theorem State.setCells_sec (s : State) (m : Memory) : (s.setCells m).sec = s.sec := rfl
@[simp] theorem State.setCells_ceilInbox (s : State) (m : Memory) : (s.setCells m).ceilInbox = s.ceilInbox := rfl
@[simp] theorem State.setCells_flbCounts (s : State) (m : Memory) : (s.setCells m).flbCounts = s.flbCounts := rfl
@[simp] theorem State.setCells_planeFetchTotal (s : State) (m : Memory) : (s.setCells m).planeFetchTotal = s.planeFetchTotal := rfl
@[simp] theorem State.setCells_prefetch (s : State) (m : Memory) : (s.setCells m).prefetch = s.prefetch := rfl
@[simp] theorem State.setCells_out (s : State) (m : Memory) : (s.setCells m).out = s.out := rfl

/-! ## State.emit -/

@[simp] theorem State.emit_pending (s : State) (o : Output) : (s.emit o).pending = s.pending := rfl
@[simp] theorem State.emit_free (s : State) (o : Output) : (s.emit o).free = s.free := rfl
@[simp] theorem State.emit_fuses (s : State) (o : Output) : (s.emit o).fuses = s.fuses := rfl
@[simp] theorem State.emit_flash (s : State) (o : Output) : (s.emit o).flash = s.flash := rfl
@[simp] theorem State.emit_pwr (s : State) (o : Output) : (s.emit o).pwr = s.pwr := rfl
@[simp] theorem State.emit_boot (s : State) (o : Output) : (s.emit o).boot = s.boot := rfl
@[simp] theorem State.emit_err (s : State) (o : Output) : (s.emit o).err = s.err := rfl
@[simp] theorem State.emit_img (s : State) (o : Output) : (s.emit o).img = s.img := rfl
@[simp] theorem State.emit_tors (s : State) (o : Output) : (s.emit o).tors = s.tors := rfl
@[simp] theorem State.emit_mem (s : State) (o : Output) : (s.emit o).mem = s.mem := rfl
@[simp] theorem State.emit_links (s : State) (o : Output) : (s.emit o).links = s.links := rfl
@[simp] theorem State.emit_ni (s : State) (o : Output) : (s.emit o).ni = s.ni := rfl
@[simp] theorem State.emit_ctxs (s : State) (o : Output) : (s.emit o).ctxs = s.ctxs := rfl
@[simp] theorem State.emit_crn (s : State) (o : Output) : (s.emit o).crn = s.crn := rfl
@[simp] theorem State.emit_dmp (s : State) (o : Output) : (s.emit o).dmp = s.dmp := rfl
@[simp] theorem State.emit_mgt (s : State) (o : Output) : (s.emit o).mgt = s.mgt := rfl
@[simp] theorem State.emit_host (s : State) (o : Output) : (s.emit o).host = s.host := rfl
@[simp] theorem State.emit_sec (s : State) (o : Output) : (s.emit o).sec = s.sec := rfl
@[simp] theorem State.emit_ceilInbox (s : State) (o : Output) : (s.emit o).ceilInbox = s.ceilInbox := rfl
@[simp] theorem State.emit_flbCounts (s : State) (o : Output) : (s.emit o).flbCounts = s.flbCounts := rfl
@[simp] theorem State.emit_planeFetchTotal (s : State) (o : Output) : (s.emit o).planeFetchTotal = s.planeFetchTotal := rfl
@[simp] theorem State.emit_prefetch (s : State) (o : Output) : (s.emit o).prefetch = s.prefetch := rfl

/-! ## State.emits -/

@[simp] theorem State.emits_pending (s : State) (os : List Output) : (s.emits os).pending = s.pending := rfl
@[simp] theorem State.emits_free (s : State) (os : List Output) : (s.emits os).free = s.free := rfl
@[simp] theorem State.emits_fuses (s : State) (os : List Output) : (s.emits os).fuses = s.fuses := rfl
@[simp] theorem State.emits_flash (s : State) (os : List Output) : (s.emits os).flash = s.flash := rfl
@[simp] theorem State.emits_pwr (s : State) (os : List Output) : (s.emits os).pwr = s.pwr := rfl
@[simp] theorem State.emits_boot (s : State) (os : List Output) : (s.emits os).boot = s.boot := rfl
@[simp] theorem State.emits_err (s : State) (os : List Output) : (s.emits os).err = s.err := rfl
@[simp] theorem State.emits_img (s : State) (os : List Output) : (s.emits os).img = s.img := rfl
@[simp] theorem State.emits_tors (s : State) (os : List Output) : (s.emits os).tors = s.tors := rfl
@[simp] theorem State.emits_mem (s : State) (os : List Output) : (s.emits os).mem = s.mem := rfl
@[simp] theorem State.emits_links (s : State) (os : List Output) : (s.emits os).links = s.links := rfl
@[simp] theorem State.emits_ni (s : State) (os : List Output) : (s.emits os).ni = s.ni := rfl
@[simp] theorem State.emits_ctxs (s : State) (os : List Output) : (s.emits os).ctxs = s.ctxs := rfl
@[simp] theorem State.emits_crn (s : State) (os : List Output) : (s.emits os).crn = s.crn := rfl
@[simp] theorem State.emits_dmp (s : State) (os : List Output) : (s.emits os).dmp = s.dmp := rfl
@[simp] theorem State.emits_mgt (s : State) (os : List Output) : (s.emits os).mgt = s.mgt := rfl
@[simp] theorem State.emits_host (s : State) (os : List Output) : (s.emits os).host = s.host := rfl
@[simp] theorem State.emits_sec (s : State) (os : List Output) : (s.emits os).sec = s.sec := rfl
@[simp] theorem State.emits_ceilInbox (s : State) (os : List Output) : (s.emits os).ceilInbox = s.ceilInbox := rfl
@[simp] theorem State.emits_flbCounts (s : State) (os : List Output) : (s.emits os).flbCounts = s.flbCounts := rfl
@[simp] theorem State.emits_planeFetchTotal (s : State) (os : List Output) : (s.emits os).planeFetchTotal = s.planeFetchTotal := rfl
@[simp] theorem State.emits_prefetch (s : State) (os : List Output) : (s.emits os).prefetch = s.prefetch := rfl

/-! ## State.recordCause -/

@[simp] theorem State.recordCause_pending (s : State) (cause ordinal row tor : Nat) : (s.recordCause cause ordinal row tor).pending = s.pending := rfl
@[simp] theorem State.recordCause_free (s : State) (cause ordinal row tor : Nat) : (s.recordCause cause ordinal row tor).free = s.free := rfl
@[simp] theorem State.recordCause_fuses (s : State) (cause ordinal row tor : Nat) : (s.recordCause cause ordinal row tor).fuses = s.fuses := rfl
@[simp] theorem State.recordCause_flash (s : State) (cause ordinal row tor : Nat) : (s.recordCause cause ordinal row tor).flash = s.flash := rfl
@[simp] theorem State.recordCause_pwr (s : State) (cause ordinal row tor : Nat) : (s.recordCause cause ordinal row tor).pwr = s.pwr := rfl
@[simp] theorem State.recordCause_boot (s : State) (cause ordinal row tor : Nat) : (s.recordCause cause ordinal row tor).boot = s.boot := rfl
@[simp] theorem State.recordCause_img (s : State) (cause ordinal row tor : Nat) : (s.recordCause cause ordinal row tor).img = s.img := rfl
@[simp] theorem State.recordCause_tors (s : State) (cause ordinal row tor : Nat) : (s.recordCause cause ordinal row tor).tors = s.tors := rfl
@[simp] theorem State.recordCause_mem (s : State) (cause ordinal row tor : Nat) : (s.recordCause cause ordinal row tor).mem = s.mem := rfl
@[simp] theorem State.recordCause_links (s : State) (cause ordinal row tor : Nat) : (s.recordCause cause ordinal row tor).links = s.links := rfl
@[simp] theorem State.recordCause_ni (s : State) (cause ordinal row tor : Nat) : (s.recordCause cause ordinal row tor).ni = s.ni := rfl
@[simp] theorem State.recordCause_ctxs (s : State) (cause ordinal row tor : Nat) : (s.recordCause cause ordinal row tor).ctxs = s.ctxs := rfl
@[simp] theorem State.recordCause_crn (s : State) (cause ordinal row tor : Nat) : (s.recordCause cause ordinal row tor).crn = s.crn := rfl
@[simp] theorem State.recordCause_dmp (s : State) (cause ordinal row tor : Nat) : (s.recordCause cause ordinal row tor).dmp = s.dmp := rfl
@[simp] theorem State.recordCause_mgt (s : State) (cause ordinal row tor : Nat) : (s.recordCause cause ordinal row tor).mgt = s.mgt := rfl
@[simp] theorem State.recordCause_host (s : State) (cause ordinal row tor : Nat) : (s.recordCause cause ordinal row tor).host = s.host := rfl
@[simp] theorem State.recordCause_sec (s : State) (cause ordinal row tor : Nat) : (s.recordCause cause ordinal row tor).sec = s.sec := rfl
@[simp] theorem State.recordCause_ceilInbox (s : State) (cause ordinal row tor : Nat) : (s.recordCause cause ordinal row tor).ceilInbox = s.ceilInbox := rfl
@[simp] theorem State.recordCause_flbCounts (s : State) (cause ordinal row tor : Nat) : (s.recordCause cause ordinal row tor).flbCounts = s.flbCounts := rfl
@[simp] theorem State.recordCause_planeFetchTotal (s : State) (cause ordinal row tor : Nat) : (s.recordCause cause ordinal row tor).planeFetchTotal = s.planeFetchTotal := rfl
@[simp] theorem State.recordCause_prefetch (s : State) (cause ordinal row tor : Nat) : (s.recordCause cause ordinal row tor).prefetch = s.prefetch := rfl
@[simp] theorem State.recordCause_out (s : State) (cause ordinal row tor : Nat) : (s.recordCause cause ordinal row tor).out = s.out := rfl

/-! ## State.takeFree -/

@[simp] theorem State.takeFree_pending (s : State) (w : Nat) : (s.takeFree w).2.pending = s.pending := rfl
@[simp] theorem State.takeFree_fuses (s : State) (w : Nat) : (s.takeFree w).2.fuses = s.fuses := rfl
@[simp] theorem State.takeFree_flash (s : State) (w : Nat) : (s.takeFree w).2.flash = s.flash := rfl
@[simp] theorem State.takeFree_pwr (s : State) (w : Nat) : (s.takeFree w).2.pwr = s.pwr := rfl
@[simp] theorem State.takeFree_boot (s : State) (w : Nat) : (s.takeFree w).2.boot = s.boot := rfl
@[simp] theorem State.takeFree_err (s : State) (w : Nat) : (s.takeFree w).2.err = s.err := rfl
@[simp] theorem State.takeFree_img (s : State) (w : Nat) : (s.takeFree w).2.img = s.img := rfl
@[simp] theorem State.takeFree_tors (s : State) (w : Nat) : (s.takeFree w).2.tors = s.tors := rfl
@[simp] theorem State.takeFree_mem (s : State) (w : Nat) : (s.takeFree w).2.mem = s.mem := rfl
@[simp] theorem State.takeFree_links (s : State) (w : Nat) : (s.takeFree w).2.links = s.links := rfl
@[simp] theorem State.takeFree_ni (s : State) (w : Nat) : (s.takeFree w).2.ni = s.ni := rfl
@[simp] theorem State.takeFree_ctxs (s : State) (w : Nat) : (s.takeFree w).2.ctxs = s.ctxs := rfl
@[simp] theorem State.takeFree_crn (s : State) (w : Nat) : (s.takeFree w).2.crn = s.crn := rfl
@[simp] theorem State.takeFree_dmp (s : State) (w : Nat) : (s.takeFree w).2.dmp = s.dmp := rfl
@[simp] theorem State.takeFree_mgt (s : State) (w : Nat) : (s.takeFree w).2.mgt = s.mgt := rfl
@[simp] theorem State.takeFree_host (s : State) (w : Nat) : (s.takeFree w).2.host = s.host := rfl
@[simp] theorem State.takeFree_sec (s : State) (w : Nat) : (s.takeFree w).2.sec = s.sec := rfl
@[simp] theorem State.takeFree_ceilInbox (s : State) (w : Nat) : (s.takeFree w).2.ceilInbox = s.ceilInbox := rfl
@[simp] theorem State.takeFree_flbCounts (s : State) (w : Nat) : (s.takeFree w).2.flbCounts = s.flbCounts := rfl
@[simp] theorem State.takeFree_planeFetchTotal (s : State) (w : Nat) : (s.takeFree w).2.planeFetchTotal = s.planeFetchTotal := rfl
@[simp] theorem State.takeFree_prefetch (s : State) (w : Nat) : (s.takeFree w).2.prefetch = s.prefetch := rfl
@[simp] theorem State.takeFree_out (s : State) (w : Nat) : (s.takeFree w).2.out = s.out := rfl

/-! ## What is set -/

@[simp] theorem State.setTor_tor_self (s : State) (t : TorIdx) (x : Tor) : (s.setTor t x).tor t = x := by simp [State.tor, State.setTor]
theorem State.setTor_tor_ne (s : State) (t u : TorIdx) (x : Tor) (h : u ≠ t) : (s.setTor t x).tor u = s.tor u := by
  simp only [State.tor, State.setTor]
  exact mapGet_mapSet_ne _ _ _ _ _ (fun e => h (BitVec.eq_of_toNat_eq e))
/-- Of two writes of a tor the second counts, where the first does not leave it as after reset. -/
theorem State.setTor_setTor (s : State) (t : TorIdx) (x y : Tor) (h : x ≠ {}) : (s.setTor t x).setTor t y = s.setTor t y := by
  simp only [State.setTor, mapSet_mapSet _ _ _ _ _ h]
theorem State.setCtx_setCtx (s : State) (c : CtxIdx) (x y : Context) (h : x ≠ {}) : (s.setCtx c x).setCtx c y = s.setCtx c y := by
  simp only [State.setCtx, mapSet_mapSet _ _ _ _ _ h]
theorem State.setPort_setPort (s : State) (p : Nat) (x y : Port) (h : x ≠ {}) : (s.setPort p x).setPort p y = s.setPort p y := by
  simp only [State.setPort, mapSet_mapSet _ _ _ _ _ h]
@[simp] theorem State.setCtx_ctx_self (s : State) (c : CtxIdx) (x : Context) : (s.setCtx c x).ctx c = x := by simp [State.ctx, State.setCtx]
theorem State.setCtx_ctx_ne (s : State) (c d : CtxIdx) (x : Context) (h : d ≠ c) : (s.setCtx c x).ctx d = s.ctx d := by
  simp only [State.ctx, State.setCtx]
  exact mapGet_mapSet_ne _ _ _ _ _ (fun e => h (BitVec.eq_of_toNat_eq e))
@[simp] theorem State.setPort_port_self (s : State) (p : Nat) (x : Port) : (s.setPort p x).port p = x := by simp [State.port, State.setPort]
theorem State.setPort_port_ne (s : State) (p q : Nat) (x : Port) (h : q ≠ p) : (s.setPort p x).port q = s.port q := by
  simp only [State.port, State.setPort]; exact mapGet_mapSet_ne _ _ _ _ _ h
@[simp] theorem State.setSub_sub_self (s : State) (i : Nat) (x : Subchannel) : (s.setSub i x).sub i = x := by simp [State.sub, State.setSub]
theorem State.setSub_sub_ne (s : State) (i j : Nat) (x : Subchannel) (h : j ≠ i) : (s.setSub i x).sub j = s.sub j := by
  simp only [State.sub, State.setSub]; exact mapGet_mapSet_ne _ _ _ _ _ h
@[simp] theorem State.setTor_ctx (s : State) (t : TorIdx) (x : Tor) (c : CtxIdx) : (s.setTor t x).ctx c = s.ctx c := rfl
@[simp] theorem State.setCtx_tor (s : State) (c : CtxIdx) (x : Context) (t : TorIdx) : (s.setCtx c x).tor t = s.tor t := rfl
@[simp] theorem State.setTor_sub (s : State) (t : TorIdx) (x : Tor) (i : Nat) : (s.setTor t x).sub i = s.sub i := rfl
@[simp] theorem State.setCtx_sub (s : State) (c : CtxIdx) (x : Context) (i : Nat) : (s.setCtx c x).sub i = s.sub i := rfl
@[simp] theorem State.setTor_port (s : State) (t : TorIdx) (x : Tor) (p : Nat) : (s.setTor t x).port p = s.port p := rfl
@[simp] theorem State.setCtx_port (s : State) (c : CtxIdx) (x : Context) (p : Nat) : (s.setCtx c x).port p = s.port p := rfl
@[simp] theorem State.setSub_tor (s : State) (i : Nat) (x : Subchannel) (t : TorIdx) : (s.setSub i x).tor t = s.tor t := rfl
@[simp] theorem State.setSub_ctx (s : State) (i : Nat) (x : Subchannel) (c : CtxIdx) : (s.setSub i x).ctx c = s.ctx c := rfl
@[simp] theorem State.setPort_tor (s : State) (p : Nat) (x : Port) (t : TorIdx) : (s.setPort p x).tor t = s.tor t := rfl
@[simp] theorem State.setPort_ctx (s : State) (p : Nat) (x : Port) (c : CtxIdx) : (s.setPort p x).ctx c = s.ctx c := rfl
@[simp] theorem State.emit_tor (s : State) (o : Output) (t : TorIdx) : (s.emit o).tor t = s.tor t := rfl
@[simp] theorem State.emit_ctx (s : State) (o : Output) (c : CtxIdx) : (s.emit o).ctx c = s.ctx c := rfl
@[simp] theorem State.emits_tor (s : State) (os : List Output) (t : TorIdx) : (s.emits os).tor t = s.tor t := rfl
@[simp] theorem State.emits_ctx (s : State) (os : List Output) (c : CtxIdx) : (s.emits os).ctx c = s.ctx c := rfl

end Sys2Proof.Machine
end

