-- ==== Sys2Proof/Laws/Kept.lean ====
section
/-! SUPPORT. What every operation of the model keeps: the queue of commands, burned fuses, the fields held in a range, the
canonical form of module memory. One lemma per operation, in the form `Kept s (operation on s)`. -/

namespace Sys2Proof.Machine
open Sys2Proof

/-- From s to t the queue is the same, no fuse is unblown, held fields stay in range and memory stays canonical. -/
structure Kept (s t : State) : Prop where
  pending : t.pending = s.pending
  fuses : s.slot0Kept = true → t.slot0Kept = true ∧ s.fuses.keeps t.fuses = true
  ranges : s.rangesHeld = true → t.rangesHeld = true
  mem : memWf s.mem.cells = true → memWf t.mem.cells = true

theorem keysKeep_refl : ∀ l : List KeySlot, (l.zip l).all keyKeeps = true := by
  intro l
  induction l with
  | nil => rfl
  | cons a l ih =>
    simp only [List.zip_cons_cons, List.all_cons, ih, keyKeeps]
    cases a.enrolled <;> cases a.revoked <;> cases a.debug <;> rfl

theorem keysKeep_trans : ∀ a b c : List KeySlot, a.length = b.length → b.length = c.length →
    (a.zip b).all keyKeeps = true → (b.zip c).all keyKeeps = true → (a.zip c).all keyKeeps = true := by
  intro a
  induction a with
  | nil => intros; simp
  | cons x a ih =>
    intro b c hab hbc h1 h2
    cases b with
    | nil => simp at hab
    | cons y b =>
      cases c with
      | nil => simp
      | cons z c =>
        simp only [List.zip_cons_cons, List.all_cons, Bool.and_eq_true] at h1 h2 ⊢
        refine ⟨?_, ih b c (by simpa using hab) (by simpa using hbc) h1.2 h2.2⟩
        have h3 := h1.1
        have h4 := h2.1
        revert h3 h4
        simp only [keyKeeps]
        cases x.enrolled <;> cases y.enrolled <;> cases z.enrolled <;> cases x.revoked <;> cases y.revoked <;> cases z.revoked <;>
          cases x.debug <;> cases y.debug <;> cases z.debug <;> decide

theorem Fuses.keeps_refl (f : Fuses) : f.keeps f = true := by simp [Fuses.keeps, keysKeep_refl]

theorem Fuses.keeps_trans (f g h : Fuses) (h1 : f.keeps g = true) (h2 : g.keeps h = true) : f.keeps h = true := by
  simp only [Fuses.keeps, Bool.and_eq_true, Bool.or_eq_true, Bool.not_eq_true', decide_eq_true_eq, beq_iff_eq] at h1 h2 ⊢
  refine ⟨⟨⟨?_, by omega⟩, keysKeep_trans _ _ _ h1.2 h2.2 h1.1.2 h2.1.2⟩, by omega⟩
  rcases h1.1.1.1 with h | h
  · exact .inl h
  · rcases h2.1.1.1 with h' | h'
    · rw [h] at h'; cases h'
    · exact .inr h'

theorem Kept.refl (s : State) : Kept s s := ⟨rfl, fun h => ⟨h, Fuses.keeps_refl _⟩, id, id⟩

theorem Kept.trans {s t u : State} (h1 : Kept s t) (h2 : Kept t u) : Kept s u :=
  ⟨h2.pending.trans h1.pending,
   fun h => ⟨(h2.fuses (h1.fuses h).1).1, Fuses.keeps_trans _ _ _ (h1.fuses h).2 (h2.fuses (h1.fuses h).1).2⟩,
   fun h => h2.ranges (h1.ranges h), fun h => h2.mem (h1.mem h)⟩

/-- What an operation keeps follows what came before it. -/
theorem Kept.pre {t u : State} (h2 : Kept t u) {s : State} (h1 : Kept s t) : Kept s u := h1.trans h2

/-- An update that leaves the eight fields alone. -/
theorem Kept.updEq {s t u : State} (h : Kept s t) (h1 : u.pending = t.pending) (h2 : u.fuses = t.fuses)
    (h3 : u.err.deadlines = t.err.deadlines) (h4 : u.crn.reportTimeout = t.crn.reportTimeout) (h5 : u.crn.hbTimeout = t.crn.hbTimeout)
    (h6 : u.mem.interval = t.mem.interval) (h7 : u.pwr.capCeiling = t.pwr.capCeiling) (h8 : u.mem.cells = t.mem.cells) : Kept s u :=
  h.trans ⟨h1, fun h => ⟨by simpa only [State.slot0Kept, h2] using h, by rw [h2]; exact Fuses.keeps_refl _⟩,
    fun h => by simpa only [State.rangesHeld, h3, h4, h5, h6, h7] using h, fun h => by rwa [h8]⟩

/-- An update written as a record that leaves the eight fields alone. -/
theorem Kept.upd {s t : State} {x0 : List Instr} {x1 : Nat} {x2 : Fuses} {x3 : Flash} {x4 : Power} {x5 : Boot} {x6 : Errors} {x7 : Image} {x8 : SMap Tor} {x9 : Mem} {x10 : Links} {x11 : Ni} {x12 : SMap Context} {x13 : Cairn} {x14 : Dump} {x15 : Mgmt} {x16 : HostPort} {x17 : Security} {x18 : List (CtxIdx × Nat × Nat × CeilReport)} {x19 : BitVec 64} {x20 : BitVec 32} {x21 : Bool} {x22 : List Output}
    (h : Kept s t) (h1 : x0 = t.pending) (h2 : x2 = t.fuses) (h3 : Errors.deadlines x6 = t.err.deadlines)
    (h4 : Cairn.reportTimeout x13 = t.crn.reportTimeout) (h5 : Cairn.hbTimeout x13 = t.crn.hbTimeout)
    (h6 : Mem.interval x9 = t.mem.interval) (h7 : Power.capCeiling x4 = t.pwr.capCeiling) (h8 : Mem.cells x9 = t.mem.cells) :
    Kept s (State.mk x0 x1 x2 x3 x4 x5 x6 x7 x8 x9 x10 x11 x12 x13 x14 x15 x16 x17 x18 x19 x20 x21 x22) := Kept.updEq h h1 h2 h3 h4 h5 h6 h7 h8

/-- A write of module memory that keeps its form. -/
theorem Kept.setCells {s t : State} (m : Memory) (h : Kept s t) (hm : memWf t.cells = true → memWf m = true) : Kept s (t.setCells m) :=
  h.trans ⟨rfl, fun h => ⟨h, Fuses.keeps_refl _⟩, id, hm⟩

theorem Kept.ite {c : Prop} [Decidable c] {s a b : State} (h1 : Kept s a) (h2 : Kept s b) : Kept s (if c then a else b) := by
  split
  · exact h1
  · exact h2

/-- A local state: what follows needs only that it is kept. -/
theorem Kept.letS {s v : State} {f : State → State} (h : Kept s v) (hf : ∀ x, Kept s x → Kept s (f x)) :
    Kept s (let x := v; f x) := hf v h

/-- Any other local value is put in its place. -/
theorem Kept.letZ {α : Type} {s : State} {v : α} {f : α → State} (h : Kept s (f v)) : Kept s (let x := v; f x) := h

theorem Kept.foldl {α : Type} {s t : State} {f : State → α → State} {l : List α} (h : Kept s t)
    (hf : ∀ u x, Kept s u → Kept s (f u x)) : Kept s (l.foldl f t) := by
  induction l generalizing t with
  | nil => exact h
  | cons x l ih => exact ih (hf t x h)

/-- A fold over a pair that carries the state second. -/
theorem Kept.foldl_snd {α β : Type} {s : State} {f : β × State → α → β × State} {l : List α} {b : β × State} (h : Kept s b.2)
    (hf : ∀ p x, Kept s p.2 → Kept s (f p x).2) : Kept s (l.foldl f b).2 := by
  induction l generalizing b with
  | nil => exact h
  | cons x l ih => exact ih (hf b x h)

/-- A fold over a triple that carries the state third. -/
theorem Kept.foldl_trd {α β γ : Type} {s : State} {f : β × γ × State → α → β × γ × State} {l : List α} {b : β × γ × State}
    (h : Kept s b.2.2) (hf : ∀ p x, Kept s p.2.2 → Kept s (f p x).2.2) : Kept s (l.foldl f b).2.2 := by
  induction l generalizing b with
  | nil => exact h
  | cons x l ih => exact ih (hf b x h)

theorem Kept.foldl_fst {α β : Type} {s : State} {f : State × β → α → State × β} {l : List α} {b : State × β} (h : Kept s b.1)
    (hf : ∀ p x, Kept s p.1 → Kept s (f p x).1) : Kept s (l.foldl f b).1 := by
  induction l generalizing b with
  | nil => exact h
  | cons x l ih => exact ih (hf b x h)

end Sys2Proof.Machine
end

