-- ==== Sys2Proof/Laws/KeptStorage.lean ====
section
/-! SUPPORT. What the shared operations keep (Laws/Kept): the queue, free values, outputs, events, causes; module memory
and containment. -/

namespace Sys2Proof.Machine
open Sys2Proof

@[simp] theorem Errors.record_deadlines (e : Errors) (a b c d : Nat) : (e.record a b c d).deadlines = e.deadlines := by
  unfold Errors.record; split <;> rfl

theorem State.takeFree_kept (s : State) (w : Nat) :
    Kept s (State.takeFree s w).2 := by
  unfold State.takeFree
  try extract_lets
  repeat' (first
    | with_reducible exact Kept.refl _ | with_reducible assumption
    | with_reducible refine Kept.upd ?_ rfl rfl rfl rfl rfl rfl rfl rfl | extract_lets | dsimp -zeta only)

theorem State.takeFree_keptP {s : State} {w : Nat} {x y} (heqn : State.takeFree s w = (x, y)) :
    Kept s y := by
  have := State.takeFree_kept s w
  rwa [heqn] at this

theorem State.emit_kept (s : State) (o : Output) : Kept s (State.emit s o) := by
  unfold State.emit
  try extract_lets
  repeat' (first
    | with_reducible exact Kept.refl _ | with_reducible assumption
    | with_reducible refine Kept.upd ?_ rfl rfl rfl rfl rfl rfl rfl rfl | extract_lets | dsimp -zeta only)

theorem State.emits_kept (s : State) (os : List Output) : Kept s (State.emits s os) := by
  unfold State.emits
  try extract_lets
  repeat' (first
    | with_reducible exact Kept.refl _ | with_reducible assumption
    | with_reducible refine Kept.upd ?_ rfl rfl rfl rfl rfl rfl rfl rfl | extract_lets | dsimp -zeta only)

theorem State.setTor_kept (s : State) (t : TorIdx) (x : Tor) : Kept s (State.setTor s t x) := by
  unfold State.setTor
  try extract_lets
  repeat' (first
    | with_reducible exact Kept.refl _ | with_reducible assumption
    | with_reducible refine Kept.upd ?_ rfl rfl rfl rfl rfl rfl rfl rfl | extract_lets | dsimp -zeta only)

theorem State.setCtx_kept (s : State) (c : CtxIdx) (x : Context) : Kept s (State.setCtx s c x) := by
  unfold State.setCtx
  try extract_lets
  repeat' (first
    | with_reducible exact Kept.refl _ | with_reducible assumption
    | with_reducible refine Kept.upd ?_ rfl rfl rfl rfl rfl rfl rfl rfl | extract_lets | dsimp -zeta only)

theorem State.setPort_kept (s : State) (p : Nat) (x : Port) : Kept s (State.setPort s p x) := by
  unfold State.setPort
  try extract_lets
  repeat' (first
    | with_reducible exact Kept.refl _ | with_reducible assumption
    | with_reducible refine Kept.upd ?_ rfl rfl rfl rfl rfl rfl rfl rfl | extract_lets | dsimp -zeta only)

theorem State.setSub_kept (s : State) (i : Nat) (x : Subchannel) : Kept s (State.setSub s i x) := by
  unfold State.setSub
  try extract_lets
  repeat' (first
    | with_reducible exact Kept.refl _ | with_reducible assumption
    | with_reducible refine Kept.upd ?_ rfl rfl rfl rfl rfl rfl rfl rfl | extract_lets | dsimp -zeta only)

theorem State.tick_kept (s : State) : Kept s (State.tick s) := by
  unfold State.tick
  try extract_lets
  repeat' (first
    | with_reducible exact Kept.refl _ | with_reducible assumption | with_reducible refine Kept.ite ?_ ?_ | split
    | with_reducible refine Kept.upd ?_ rfl rfl rfl rfl rfl rfl rfl rfl | extract_lets | dsimp -zeta only)

theorem State.sendHead_kept (s : State) : Kept s (State.sendHead s) := by
  unfold State.sendHead
  try extract_lets
  repeat' (first
    | with_reducible exact Kept.refl _ | with_reducible assumption | with_reducible apply Kept.pre (State.emit_kept ..)
    | with_reducible refine Kept.ite ?_ ?_ | split | with_reducible refine Kept.upd ?_ rfl rfl rfl rfl rfl rfl rfl rfl
    | extract_lets | dsimp -zeta only)

theorem State.raise_kept (s : State) (code : Nat) (detail : Nat) : Kept s (State.raise s code detail) := by
  unfold State.raise
  try extract_lets
  repeat' (first
    | with_reducible exact Kept.refl _ | with_reducible assumption | with_reducible apply Kept.pre (State.emit_kept ..)
    | with_reducible apply Kept.pre (State.sendHead_kept ..) | with_reducible refine Kept.ite ?_ ?_ | split
    | with_reducible refine Kept.upd ?_ rfl rfl rfl rfl rfl rfl rfl rfl | extract_lets | dsimp -zeta only)

theorem State.recordCause_kept (s : State) (cause ordinal row tor : Nat) : Kept s (State.recordCause s cause ordinal row tor) :=
  (Kept.refl s).updEq rfl rfl (by simp [State.recordCause]) rfl rfl rfl rfl rfl

theorem State.recordSecondary_kept (s : State) (n : Nat) : Kept s (State.recordSecondary s n) := by
  induction n generalizing s with
  | zero => exact Kept.refl _
  | succ n ih =>
    unfold State.recordSecondary
    refine Kept.trans ?_ (ih _)
    exact Kept.upd (Kept.refl s) rfl rfl rfl rfl rfl rfl rfl rfl

theorem State.raiseBlocked_kept (s : State) : Kept s (State.raiseBlocked s) := by
  unfold State.raiseBlocked
  try extract_lets
  repeat' (first
    | with_reducible exact Kept.refl _ | with_reducible assumption | with_reducible apply Kept.pre (State.raise_kept ..)
    | with_reducible refine Kept.ite ?_ ?_ | split | with_reducible refine Kept.upd ?_ rfl rfl rfl rfl rfl rfl rfl rfl
    | extract_lets | dsimp -zeta only)

theorem State.sendOut_kept (s : State) (n : Nat) (ks : List Packet) : Kept s (State.sendOut s n ks) := by
  unfold State.sendOut
  try extract_lets
  repeat' (first
    | with_reducible exact Kept.refl _ | with_reducible assumption | with_reducible apply Kept.pre (State.emits_kept ..)
    | extract_lets | dsimp -zeta only)

theorem State.pumpPort_kept (s : State) (n : Nat) : Kept s (State.pumpPort s n) := by
  unfold State.pumpPort
  try extract_lets
  repeat' (first
    | with_reducible exact Kept.refl _ | with_reducible assumption | with_reducible apply Kept.pre (State.setPort_kept ..)
    | with_reducible apply Kept.pre (State.sendOut_kept ..)
    | with_reducible refine Kept.upd ?_ rfl rfl rfl rfl rfl rfl rfl rfl | extract_lets | dsimp -zeta only)

theorem State.queueOn_kept (s : State) (n : Nat) (k : Packet) (ahead : Bool) : Kept s (State.queueOn s n k ahead) := by
  unfold State.queueOn
  try extract_lets
  repeat' (first
    | with_reducible exact Kept.refl _ | with_reducible assumption | with_reducible apply Kept.pre (State.setPort_kept ..)
    | with_reducible apply Kept.pre (State.raiseBlocked_kept ..) | with_reducible refine Kept.ite ?_ ?_ | split
    | with_reducible refine Kept.upd ?_ rfl rfl rfl rfl rfl rfl rfl rfl | extract_lets | dsimp -zeta only)

theorem State.sendRouted_kept (s : State) (k : Packet) (exit : Option Nat) : Kept s (State.sendRouted s k exit) := by
  unfold State.sendRouted
  try extract_lets
  repeat' (first
    | with_reducible exact Kept.refl _ | with_reducible assumption | with_reducible apply Kept.pre (State.pumpPort_kept ..)
    | with_reducible apply Kept.pre (State.queueOn_kept ..) | split
    | with_reducible refine Kept.upd ?_ rfl rfl rfl rfl rfl rfl rfl rfl | extract_lets | dsimp -zeta only)

theorem State.setFlow_kept (s : State) (f : Nat) (x : Flow) : Kept s (State.setFlow s f x) := by
  unfold State.setFlow
  try extract_lets
  repeat' (first
    | with_reducible exact Kept.refl _ | with_reducible assumption
    | with_reducible refine Kept.upd ?_ rfl rfl rfl rfl rfl rfl rfl rfl | extract_lets | dsimp -zeta only)

theorem State.setSlotFlow_kept (s : State) (f : Nat) (x : Flow) : Kept s (State.setSlotFlow s f x) := by
  unfold State.setSlotFlow
  try extract_lets
  repeat' (first
    | with_reducible exact Kept.refl _ | with_reducible assumption
    | with_reducible refine Kept.upd ?_ rfl rfl rfl rfl rfl rfl rfl rfl | extract_lets | dsimp -zeta only)

theorem State.sendPos_kept (s : State) (c : CtxIdx) (type dest : Nat) (arg : Word) (payload : List Byte) (exit entry : Nat) :
    Kept s (State.sendPos s c type dest arg payload exit entry) := by
  unfold State.sendPos
  try extract_lets
  repeat' (first
    | with_reducible exact Kept.refl _ | with_reducible assumption | with_reducible apply Kept.pre (State.sendRouted_kept ..)
    | with_reducible apply Kept.pre (State.setFlow_kept ..) | with_reducible refine Kept.ite ?_ ?_ | split
    | with_reducible refine Kept.upd ?_ rfl rfl rfl rfl rfl rfl rfl rfl | extract_lets | dsimp -zeta only)

theorem State.sendSlot_kept (s : State) (type q : Nat) (arg : Word) (payload : List Byte) :
    Kept s (State.sendSlot s type q arg payload) := by
  unfold State.sendSlot
  try extract_lets
  repeat' (first
    | with_reducible exact Kept.refl _ | with_reducible assumption | with_reducible apply Kept.pre (State.sendRouted_kept ..)
    | with_reducible apply Kept.pre (State.setSlotFlow_kept ..) | with_reducible refine Kept.ite ?_ ?_ | split
    | with_reducible refine Kept.upd ?_ rfl rfl rfl rfl rfl rfl rfl rfl | extract_lets | dsimp -zeta only)

theorem State.tell_kept (s : State) (c : CtxIdx) (type dest : Nat) (o : Output) : Kept s (State.tell s c type dest o) := by
  unfold State.tell
  try extract_lets
  repeat' (first
    | with_reducible exact Kept.refl _ | with_reducible assumption | with_reducible apply Kept.pre (State.emit_kept ..)
    | with_reducible apply Kept.pre (State.sendPos_kept ..) | extract_lets | dsimp -zeta only)

theorem State.tellAll_kept (s : State) (c : CtxIdx) (type : Nat) (ps : List Nat) (f : Nat → Output) :
    Kept s (State.tellAll s c type ps f) := by
  unfold State.tellAll
  try extract_lets
  repeat' (first
    | with_reducible exact Kept.refl _ | with_reducible assumption | with_reducible apply Kept.pre (State.tell_kept ..)
    | with_reducible refine Kept.foldl ?_ (fun _ _ _ => ?_) | with_reducible refine Kept.foldl_snd ?_ (fun _ _ _ => ?_)
    | with_reducible refine Kept.foldl_trd ?_ (fun _ _ _ => ?_) | with_reducible refine Kept.foldl_fst ?_ (fun _ _ _ => ?_)
    | extract_lets | dsimp -zeta only)

theorem State.tellSlot_kept (s : State) (type q : Nat) (o : Output) : Kept s (State.tellSlot s type q o) := by
  unfold State.tellSlot
  try extract_lets
  repeat' (first
    | with_reducible exact Kept.refl _ | with_reducible assumption | with_reducible apply Kept.pre (State.emit_kept ..)
    | with_reducible apply Kept.pre (State.sendSlot_kept ..) | extract_lets | dsimp -zeta only)

theorem State.tellSlots_kept (s : State) (type : Nat) (qs : List Nat) (f : Nat → Output) :
    Kept s (State.tellSlots s type qs f) := by
  unfold State.tellSlots
  try extract_lets
  repeat' (first
    | with_reducible exact Kept.refl _ | with_reducible assumption | with_reducible apply Kept.pre (State.tellSlot_kept ..)
    | with_reducible refine Kept.foldl ?_ (fun _ _ _ => ?_) | with_reducible refine Kept.foldl_snd ?_ (fun _ _ _ => ?_)
    | with_reducible refine Kept.foldl_trd ?_ (fun _ _ _ => ?_) | with_reducible refine Kept.foldl_fst ?_ (fun _ _ _ => ?_)
    | extract_lets | dsimp -zeta only)

theorem State.setRaw_kept (s : State) (b : Nat) (x : Burst) : Kept s (State.setRaw s b x) := by
  unfold State.setRaw
  dsimp only
  split
  · exact (Kept.setCells _ (Kept.refl s) (memSetBytes_wf _ _ _)).trans (State.setSub_kept ..)
  · exact Kept.setCells _ (Kept.refl s) (memSetBytes_wf _ _ _)

theorem State.queueRequest_kept (s : State) (r : MemReq) : Kept s (State.queueRequest s r) := by
  unfold State.queueRequest
  try extract_lets
  repeat' (first
    | with_reducible exact Kept.refl _ | with_reducible assumption | with_reducible apply Kept.pre (State.setSub_kept ..)
    | with_reducible refine Kept.ite ?_ ?_ | split | with_reducible refine Kept.upd ?_ rfl rfl rfl rfl rfl rfl rfl rfl
    | extract_lets | dsimp -zeta only)

theorem State.countServed_kept (s : State) (b : Nat) (dyn : Bool) : Kept s (State.countServed s b dyn) := by
  unfold State.countServed
  try extract_lets
  repeat' (first
    | with_reducible exact Kept.refl _ | with_reducible assumption | with_reducible apply Kept.pre (State.setSub_kept ..)
    | with_reducible refine Kept.ite ?_ ?_ | split | with_reducible refine Kept.upd ?_ rfl rfl rfl rfl rfl rfl rfl rfl
    | extract_lets | dsimp -zeta only)

theorem State.serveWrite_kept (s : State) (r : MemReq) (bits : Burst) : Kept s (State.serveWrite s r bits) := by
  unfold State.serveWrite
  try extract_lets
  repeat' (first
    | with_reducible exact Kept.refl _ | with_reducible assumption | with_reducible apply Kept.pre (State.setRaw_kept ..)
    | with_reducible apply Kept.pre (State.queueRequest_kept ..) | with_reducible apply Kept.pre (State.countServed_kept ..)
    | with_reducible refine Kept.ite ?_ ?_ | split | extract_lets | dsimp -zeta only)

theorem State.writeBurst_kept (s : State) (b : Nat) (d : BitVec 272) : Kept s (State.writeBurst s b d) := by
  unfold State.writeBurst
  try extract_lets
  repeat' (first
    | with_reducible exact Kept.refl _ | with_reducible assumption | with_reducible apply Kept.pre (State.serveWrite_kept ..)
    | extract_lets | dsimp -zeta only)

theorem State.writeBursts_kept (s : State) (b : Nat) (l : List (BitVec 272)) : Kept s (State.writeBursts s b l) := by
  induction l generalizing s b with
  | nil => exact Kept.refl _
  | cons d l ih => exact Kept.trans (State.writeBurst_kept s b d) (ih _ _)

theorem State.noteCorrected_kept (s : State) (b : Nat) (d : BitVec 272) (writeBack : Bool) :
    Kept s (State.noteCorrected s b d writeBack) := by
  unfold State.noteCorrected
  try extract_lets
  repeat' (first
    | with_reducible exact Kept.refl _ | with_reducible assumption | with_reducible apply Kept.pre (State.setSub_kept ..)
    | with_reducible apply Kept.pre (State.raise_kept ..) | with_reducible apply Kept.pre (State.setRaw_kept ..)
    | with_reducible refine Kept.ite ?_ ?_ | split | with_reducible refine Kept.upd ?_ rfl rfl rfl rfl rfl rfl rfl rfl
    | extract_lets | dsimp -zeta only)

theorem State.failItem_kept (s : State) (c : CtxIdx) (w : Work) (cause row tor : Nat) (others : Nat) :
    Kept s (State.failItem s c w cause row tor others) := by
  unfold State.failItem
  try extract_lets
  repeat' (first
    | with_reducible exact Kept.refl _ | with_reducible assumption | with_reducible apply Kept.pre (State.setCtx_kept ..)
    | with_reducible apply Kept.pre (State.recordCause_kept ..)
    | with_reducible apply Kept.pre (State.recordSecondary_kept ..)
    | with_reducible refine Kept.upd ?_ rfl rfl rfl rfl rfl rfl rfl rfl | extract_lets | dsimp -zeta only)

theorem State.sendOnPair_kept (s : State) (type q : Nat) (arg : Word) (payload : List Byte) :
    Kept s (State.sendOnPair s type q arg payload) := by
  unfold State.sendOnPair
  try extract_lets
  repeat' (first
    | with_reducible exact Kept.refl _ | with_reducible assumption | with_reducible apply Kept.pre (State.pumpPort_kept ..)
    | with_reducible apply Kept.pre (State.queueOn_kept ..) | with_reducible apply Kept.pre (State.setSlotFlow_kept ..)
    | with_reducible refine Kept.foldl ?_ (fun _ _ _ => ?_) | with_reducible refine Kept.foldl_snd ?_ (fun _ _ _ => ?_)
    | with_reducible refine Kept.foldl_trd ?_ (fun _ _ _ => ?_) | with_reducible refine Kept.foldl_fst ?_ (fun _ _ _ => ?_)
    | with_reducible refine Kept.upd ?_ rfl rfl rfl rfl rfl rfl rfl rfl | extract_lets | dsimp -zeta only)

theorem State.sendWithdraw_kept (s : State) : Kept s (State.sendWithdraw s) := by
  unfold State.sendWithdraw
  try extract_lets
  repeat' (first
    | with_reducible exact Kept.refl _ | with_reducible assumption | with_reducible apply Kept.pre (State.emits_kept ..)
    | with_reducible apply Kept.pre (State.sendOnPair_kept ..) | with_reducible refine Kept.foldl ?_ (fun _ _ _ => ?_)
    | with_reducible refine Kept.foldl_snd ?_ (fun _ _ _ => ?_) | with_reducible refine Kept.foldl_trd ?_ (fun _ _ _ => ?_)
    | with_reducible refine Kept.foldl_fst ?_ (fun _ _ _ => ?_)
    | with_reducible refine Kept.upd ?_ rfl rfl rfl rfl rfl rfl rfl rfl | extract_lets | dsimp -zeta only)

theorem State.abortWithdraw_kept (s : State) : Kept s (State.abortWithdraw s) := by
  unfold State.abortWithdraw
  try extract_lets
  repeat' (first
    | with_reducible exact Kept.refl _ | with_reducible assumption
    | with_reducible apply Kept.pre (State.sendWithdraw_kept ..) | with_reducible refine Kept.ite ?_ ?_ | split
    | extract_lets | dsimp -zeta only)

theorem State.driveFault_kept (s : State) : Kept s (State.driveFault s) := by
  unfold State.driveFault
  try extract_lets
  repeat' (first
    | with_reducible exact Kept.refl _ | with_reducible assumption
    | with_reducible apply Kept.pre (State.raiseBlocked_kept ..) | with_reducible refine Kept.ite ?_ ?_ | split
    | with_reducible refine Kept.upd ?_ rfl rfl rfl rfl rfl rfl rfl rfl | extract_lets | dsimp -zeta only)

theorem State.failStart_kept (s : State) (cause detail : Nat) : Kept s (State.failStart s cause detail) := by
  unfold State.failStart
  try extract_lets
  repeat' (first
    | with_reducible exact Kept.refl _ | with_reducible assumption | with_reducible apply Kept.pre (State.raise_kept ..)
    | with_reducible apply Kept.pre (State.driveFault_kept ..) | with_reducible refine Kept.ite ?_ ?_ | split
    | with_reducible refine Kept.upd ?_ rfl rfl rfl rfl rfl rfl rfl rfl | extract_lets | dsimp -zeta only)

theorem State.contain_kept (s : State) (cause : Nat) : Kept s (State.contain s cause) := by
  unfold State.contain
  try extract_lets
  repeat' (first
    | with_reducible exact Kept.refl _ | with_reducible assumption
    | with_reducible apply Kept.pre (State.sendWithdraw_kept ..) | with_reducible refine Kept.ite ?_ ?_ | split
    | with_reducible refine Kept.upd ?_ rfl rfl rfl rfl rfl rfl rfl rfl | extract_lets | dsimp -zeta only)

theorem State.moduleCause_kept (s : State) (cause startCause startDetail event : Nat) :
    Kept s (State.moduleCause s cause startCause startDetail event) := by
  unfold State.moduleCause
  try extract_lets
  repeat' (first
    | with_reducible exact Kept.refl _ | with_reducible assumption | with_reducible apply Kept.pre (State.raise_kept ..)
    | with_reducible apply Kept.pre (State.recordCause_kept ..) | with_reducible apply Kept.pre (State.failStart_kept ..)
    | with_reducible apply Kept.pre (State.contain_kept ..) | with_reducible refine Kept.ite ?_ ?_ | split | extract_lets
    | dsimp -zeta only)

theorem State.statePoison_kept (s : State) : Kept s (State.statePoison s) := by
  unfold State.statePoison
  try extract_lets
  repeat' (first
    | with_reducible exact Kept.refl _ | with_reducible assumption
    | with_reducible apply Kept.pre (State.recordCause_kept ..) | with_reducible apply Kept.pre (State.sendWithdraw_kept ..)
    | extract_lets | dsimp -zeta only)

theorem State.memUe_kept (s : State) (b : Nat) (synd : BitVec 16) (source : Nat) : Kept s (State.memUe s b synd source) := by
  unfold State.memUe
  try extract_lets
  repeat' (first
    | with_reducible exact Kept.refl _ | with_reducible assumption
    | with_reducible apply Kept.pre (State.moduleCause_kept ..) | with_reducible refine Kept.ite ?_ ?_ | split
    | with_reducible refine Kept.upd ?_ rfl rfl rfl rfl rfl rfl rfl rfl | extract_lets | dsimp -zeta only)

theorem State.moduleRead_kept (s : State) (b source : Nat) :
    Kept s (State.moduleRead s b source).2 := by
  unfold State.moduleRead
  try extract_lets
  repeat' (first
    | with_reducible exact Kept.refl _ | with_reducible assumption
    | with_reducible apply Kept.pre (State.countServed_kept ..) | with_reducible apply Kept.pre (State.noteCorrected_kept ..)
    | with_reducible apply Kept.pre (State.memUe_kept ..) | with_reducible refine Kept.ite ?_ ?_ | split
    | with_reducible refine Kept.upd ?_ rfl rfl rfl rfl rfl rfl rfl rfl | extract_lets | dsimp -zeta only)

theorem State.moduleRead_keptP {s : State} {b : Nat} {source : Nat} {x y} (heqn : State.moduleRead s b source = (x, y)) :
    Kept s y := by
  have := State.moduleRead_kept s b source
  rwa [heqn] at this

theorem State.readBursts_kept (s : State) (source : Nat) (l : List Nat) : Kept s (State.readBursts s source l).2.1 := by
  induction l generalizing s with
  | nil => exact Kept.refl _
  | cons b l ih =>
    unfold State.readBursts
    split
    all_goals rename_i h
    all_goals first
      | exact Kept.trans (State.moduleRead_keptP h) (ih _)
      | exact State.moduleRead_keptP h

theorem State.readBursts_keptP {s : State} {source : Nat} {l : List Nat} {x y z} (h : State.readBursts s source l = (x, y, z)) :
    Kept s y := by
  have := State.readBursts_kept s source l
  rwa [h] at this

theorem State.mergeSlot_kept (s : State) (b first : Nat) (words : List (BitVec 32)) :
    Kept s (State.mergeSlot s b first words).2 := by
  unfold State.mergeSlot
  try extract_lets
  repeat' (first
    | with_reducible exact Kept.refl _ | with_reducible assumption | with_reducible apply Kept.pre (State.writeBurst_kept ..)
    | with_reducible apply Kept.pre (State.moduleRead_kept ..)
    | with_reducible refine Kept.trans ?_ (State.moduleRead_keptP (by with_reducible assumption))
    | with_reducible refine Kept.ite ?_ ?_ | with_reducible refine Kept.foldl ?_ (fun _ _ _ => ?_) | split
    | with_reducible refine Kept.foldl_snd ?_ (fun _ _ _ => ?_) | with_reducible refine Kept.foldl_trd ?_ (fun _ _ _ => ?_)
    | with_reducible refine Kept.foldl_fst ?_ (fun _ _ _ => ?_)
    | with_reducible refine Kept.upd ?_ rfl rfl rfl rfl rfl rfl rfl rfl | extract_lets | dsimp -zeta only)

theorem State.mergeSlot_keptP {s : State} {b : Nat} {first : Nat} {words : List (BitVec 32)} {x y} (heqn : State.mergeSlot s b first words = (x, y)) :
    Kept s y := by
  have := State.mergeSlot_kept s b first words
  rwa [heqn] at this

end Sys2Proof.Machine
end

