-- ==== Sys2Proof/Laws/KeptNetwork.lean ====
section
/-! SUPPORT. What the shared operations keep (Laws/Kept): links, flows, the network interface and reductions. -/

namespace Sys2Proof.Machine
open Sys2Proof

theorem State.sendRangeMap_kept (s : State) : Kept s (State.sendRangeMap s) := by
  unfold State.sendRangeMap
  try extract_lets
  repeat' (first
    | with_reducible exact Kept.refl _ | with_reducible assumption | with_reducible apply Kept.pre (State.tellSlots_kept ..)
    | extract_lets | dsimp -zeta only)

theorem State.requeue_kept (s : State) (n : Nat) (ahead : Bool) (l : List Packet) : Kept s (State.requeue s n ahead l) := by
  induction l generalizing s n ahead with
  | nil => exact Kept.refl _
  | cons x l ih =>
    unfold State.requeue
    try extract_lets
    repeat' (first
      | with_reducible exact Kept.refl _ | with_reducible assumption | with_reducible apply Kept.pre (ih ..)
      | with_reducible apply Kept.pre (State.setPort_kept ..) | with_reducible apply Kept.pre (State.queueOn_kept ..)
      | with_reducible refine Kept.ite ?_ ?_ | split | with_reducible refine Kept.upd ?_ rfl rfl rfl rfl rfl rfl rfl rfl
      | extract_lets | dsimp -zeta only)

theorem State.pumpAll_kept (s : State) : Kept s (State.pumpAll s) := by
  unfold State.pumpAll
  try extract_lets
  repeat' (first
    | with_reducible exact Kept.refl _ | with_reducible assumption | with_reducible apply Kept.pre (State.pumpPort_kept ..)
    | with_reducible refine Kept.ite ?_ ?_ | with_reducible refine Kept.foldl ?_ (fun _ _ _ => ?_) | split
    | with_reducible refine Kept.foldl_snd ?_ (fun _ _ _ => ?_) | with_reducible refine Kept.foldl_trd ?_ (fun _ _ _ => ?_)
    | with_reducible refine Kept.foldl_fst ?_ (fun _ _ _ => ?_) | extract_lets | dsimp -zeta only)

theorem State.portDown_kept (s : State) (n : Nat) (newState : BitVec 4) : Kept s (State.portDown s n newState) := by
  unfold State.portDown
  try extract_lets
  repeat' (first
    | with_reducible exact Kept.refl _ | with_reducible assumption | with_reducible apply Kept.pre (State.setPort_kept ..)
    | with_reducible apply Kept.pre (State.raise_kept ..) | with_reducible apply Kept.pre (State.requeue_kept ..)
    | with_reducible apply Kept.pre (State.pumpAll_kept ..) | with_reducible refine Kept.ite ?_ ?_ | split
    | with_reducible refine Kept.upd ?_ rfl rfl rfl rfl rfl rfl rfl rfl | extract_lets | dsimp -zeta only)

theorem State.linkFlags_kept (s : State) : Kept s (State.linkFlags s) := by
  unfold State.linkFlags
  try extract_lets
  repeat' (first
    | with_reducible exact Kept.refl _ | with_reducible assumption | with_reducible refine Kept.foldl ?_ (fun _ _ _ => ?_)
    | with_reducible refine Kept.foldl_snd ?_ (fun _ _ _ => ?_) | with_reducible refine Kept.foldl_trd ?_ (fun _ _ _ => ?_)
    | with_reducible refine Kept.foldl_fst ?_ (fun _ _ _ => ?_)
    | with_reducible refine Kept.upd ?_ rfl rfl rfl rfl rfl rfl rfl rfl | extract_lets | dsimp -zeta only)

theorem State.sendClaim_kept (s : State) (n : Nat) : Kept s (State.sendClaim s n) := by
  unfold State.sendClaim
  try extract_lets
  repeat' (first
    | with_reducible exact Kept.refl _ | with_reducible assumption | with_reducible apply Kept.pre (State.emit_kept ..)
    | with_reducible apply Kept.pre (State.setPort_kept ..) | with_reducible apply Kept.pre (State.pumpPort_kept ..)
    | extract_lets | dsimp -zeta only)

theorem State.returnPorts_kept (s : State) : Kept s (State.returnPorts s) := by
  unfold State.returnPorts
  try extract_lets
  repeat' (first
    | with_reducible exact Kept.refl _ | with_reducible assumption | with_reducible apply Kept.pre (State.setPort_kept ..)
    | with_reducible apply Kept.pre (State.sendRangeMap_kept ..) | with_reducible apply Kept.pre (State.pumpAll_kept ..)
    | with_reducible apply Kept.pre (State.linkFlags_kept ..) | with_reducible apply Kept.pre (State.sendClaim_kept ..)
    | with_reducible refine Kept.ite ?_ ?_ | with_reducible refine Kept.foldl ?_ (fun _ _ _ => ?_) | split
    | with_reducible refine Kept.foldl_snd ?_ (fun _ _ _ => ?_) | with_reducible refine Kept.foldl_trd ?_ (fun _ _ _ => ?_)
    | with_reducible refine Kept.foldl_fst ?_ (fun _ _ _ => ?_)
    | with_reducible refine Kept.upd ?_ rfl rfl rfl rfl rfl rfl rfl rfl | extract_lets | dsimp -zeta only)

theorem State.sendRuns_kept (s : State) (c : CtxIdx) (arg : CollArg) (dst exit entry : Nat) (l : List Run) :
    Kept s (State.sendRuns s c arg dst exit entry l) := by
  induction l generalizing s c arg dst exit entry with
  | nil => exact Kept.refl _
  | cons x l ih =>
    unfold State.sendRuns
    try extract_lets
    repeat' (first
      | with_reducible exact Kept.refl _ | with_reducible assumption | with_reducible apply Kept.pre (ih ..)
      | with_reducible apply Kept.pre (State.sendPos_kept ..) | with_reducible refine Kept.ite ?_ ?_ | split
      | with_reducible refine Kept.upd ?_ rfl rfl rfl rfl rfl rfl rfl rfl | extract_lets | dsimp -zeta only)

theorem State.sendChunk_kept (s : State) (c : CtxIdx) (e : NodeEntry) (arg : CollArg) (runs : List Run) :
    Kept s (State.sendChunk s c e arg runs) := by
  unfold State.sendChunk
  try extract_lets
  repeat' (first
    | with_reducible exact Kept.refl _ | with_reducible assumption | with_reducible apply Kept.pre (State.sendRuns_kept ..)
    | with_reducible refine Kept.ite ?_ ?_ | with_reducible refine Kept.foldl ?_ (fun _ _ _ => ?_) | split
    | with_reducible refine Kept.foldl_snd ?_ (fun _ _ _ => ?_) | with_reducible refine Kept.foldl_trd ?_ (fun _ _ _ => ?_)
    | with_reducible refine Kept.foldl_fst ?_ (fun _ _ _ => ?_)
    | with_reducible refine Kept.upd ?_ rfl rfl rfl rfl rfl rfl rfl rfl | extract_lets | dsimp -zeta only)

theorem State.ownerBlock_kept (s : State) (c : CtxIdx) (im : Sched) (e : NodeEntry) (n : Node) (m : Nat) :
    Kept s (State.ownerBlock s c im e n m) := by
  unfold State.ownerBlock
  try extract_lets
  repeat' (first
    | with_reducible exact Kept.refl _ | with_reducible assumption | with_reducible apply Kept.pre (State.setCtx_kept ..)
    | with_reducible refine Kept.ite ?_ ?_ | split | with_reducible refine Kept.upd ?_ rfl rfl rfl rfl rfl rfl rfl rfl
    | extract_lets | dsimp -zeta only)

theorem State.ownerStage_kept (s : State) (c : CtxIdx) (i : Nat) (e : NodeEntry) : Kept s (State.ownerStage s c i e) := by
  unfold State.ownerStage
  try extract_lets
  repeat' (first
    | with_reducible exact Kept.refl _ | with_reducible assumption | with_reducible apply Kept.pre (State.setCtx_kept ..)
    | with_reducible apply Kept.pre (State.ownerBlock_kept ..) | with_reducible refine Kept.ite ?_ ?_
    | with_reducible refine Kept.foldl ?_ (fun _ _ _ => ?_) | split
    | with_reducible refine Kept.foldl_snd ?_ (fun _ _ _ => ?_) | with_reducible refine Kept.foldl_trd ?_ (fun _ _ _ => ?_)
    | with_reducible refine Kept.foldl_fst ?_ (fun _ _ _ => ?_)
    | with_reducible refine Kept.upd ?_ rfl rfl rfl rfl rfl rfl rfl rfl | extract_lets | dsimp -zeta only)

theorem State.niFault_kept (s : State) (cause : Nat) : Kept s (State.niFault s cause) := by
  unfold State.niFault
  try extract_lets
  repeat' (first
    | with_reducible exact Kept.refl _ | with_reducible assumption
    | with_reducible apply Kept.pre (State.recordCause_kept ..)
    | with_reducible refine Kept.upd ?_ rfl rfl rfl rfl rfl rfl rfl rfl | extract_lets | dsimp -zeta only)

theorem State.tryReduce_kept (s : State) (c : CtxIdx) (i : Nat) (e : NodeEntry) : Kept s (State.tryReduce s c i e) := by
  unfold State.tryReduce
  try extract_lets
  repeat' (first
    | with_reducible exact Kept.refl _ | with_reducible assumption | with_reducible apply Kept.pre (State.emit_kept ..)
    | with_reducible apply Kept.pre (State.setCtx_kept ..) | with_reducible apply Kept.pre (State.sendPos_kept ..)
    | with_reducible apply Kept.pre (State.sendChunk_kept ..) | with_reducible apply Kept.pre (State.ownerStage_kept ..)
    | with_reducible apply Kept.pre (State.niFault_kept ..) | with_reducible refine Kept.ite ?_ ?_
    | with_reducible refine Kept.foldl ?_ (fun _ _ _ => ?_) | split
    | with_reducible refine Kept.foldl_snd ?_ (fun _ _ _ => ?_) | with_reducible refine Kept.foldl_trd ?_ (fun _ _ _ => ?_)
    | with_reducible refine Kept.foldl_fst ?_ (fun _ _ _ => ?_)
    | with_reducible refine Kept.upd ?_ rfl rfl rfl rfl rfl rfl rfl rfl | extract_lets | dsimp -zeta only)

theorem State.putNode_kept (s : State) (c : CtxIdx) (i : Nat) (e : NodeEntry) (n : Node) : Kept s (State.putNode s c i e n) := by
  unfold State.putNode
  try extract_lets
  repeat' (first
    | with_reducible exact Kept.refl _ | with_reducible assumption | with_reducible apply Kept.pre (State.setCtx_kept ..)
    | with_reducible apply Kept.pre (State.niFault_kept ..) | with_reducible apply Kept.pre (State.tryReduce_kept ..)
    | with_reducible refine Kept.ite ?_ ?_ | split | with_reducible refine Kept.upd ?_ rfl rfl rfl rfl rfl rfl rfl rfl
    | extract_lets | dsimp -zeta only)

theorem State.readSlot_kept (s : State) (c : CtxIdx) (im : Sched) (h : Handed) (seq : Nat) :
    Kept s (State.readSlot s c im h seq).2 := by
  unfold State.readSlot
  try extract_lets
  repeat' (first
    | with_reducible exact Kept.refl _ | with_reducible assumption | with_reducible apply Kept.pre (State.failItem_kept ..)
    | with_reducible apply Kept.pre (State.moduleRead_kept ..)
    | with_reducible refine Kept.trans ?_ (State.moduleRead_keptP (by with_reducible assumption)) | split
    | with_reducible refine Kept.upd ?_ rfl rfl rfl rfl rfl rfl rfl rfl | extract_lets | dsimp -zeta only)

theorem State.readSlot_keptP {s : State} {c : CtxIdx} {im : Sched} {h : Handed} {seq : Nat} {x y} (heqn : State.readSlot s c im h seq = (x, y)) :
    Kept s y := by
  have := State.readSlot_kept s c im h seq
  rwa [heqn] at this

theorem State.addOrdinal_kept (s : State) (c : CtxIdx) (im : Sched) (e : NodeEntry) (j k : Nat) (hs : List Handed) (n : Node) :
    Kept s (State.addOrdinal s c im e j k hs n).2 := by
  unfold State.addOrdinal
  try dsimp only
  repeat' (first
    | with_reducible exact Kept.refl _ | with_reducible assumption | with_reducible apply Kept.pre (State.readSlot_kept ..)
    | with_reducible refine Kept.trans ?_ (State.readSlot_keptP (by with_reducible assumption))
    | with_reducible refine Kept.ite ?_ ?_ | with_reducible refine Kept.foldl ?_ (fun _ _ _ => ?_) | split
    | with_reducible refine Kept.foldl_snd ?_ (fun _ _ _ => ?_) | with_reducible refine Kept.foldl_trd ?_ (fun _ _ _ => ?_)
    | with_reducible refine Kept.foldl_fst ?_ (fun _ _ _ => ?_)
    | with_reducible refine Kept.upd ?_ rfl rfl rfl rfl rfl rfl rfl rfl | dsimp only)

theorem State.addOrdinal_keptP {s : State} {c : CtxIdx} {im : Sched} {e : NodeEntry} {j : Nat} {k : Nat} {hs : List Handed} {n : Node} {x y} (heqn : State.addOrdinal s c im e j k hs n = (x, y)) :
    Kept s y := by
  have := State.addOrdinal_kept s c im e j k hs n
  rwa [heqn] at this

theorem State.addLocal_kept (s : State) (c : CtxIdx) (i : Nat) (e : NodeEntry) : Kept s (State.addLocal s c i e) := by
  unfold State.addLocal
  try extract_lets
  repeat' (first
    | with_reducible exact Kept.refl _ | with_reducible assumption | with_reducible apply Kept.pre (State.putNode_kept ..)
    | with_reducible apply Kept.pre (State.addOrdinal_kept ..)
    | with_reducible refine Kept.trans ?_ (State.addOrdinal_keptP (by with_reducible assumption))
    | with_reducible refine Kept.ite ?_ ?_ | with_reducible refine Kept.foldl ?_ (fun _ _ _ => ?_) | split
    | with_reducible refine Kept.foldl_snd ?_ (fun _ _ _ => ?_) | with_reducible refine Kept.foldl_trd ?_ (fun _ _ _ => ?_)
    | with_reducible refine Kept.foldl_fst ?_ (fun _ _ _ => ?_)
    | with_reducible refine Kept.upd ?_ rfl rfl rfl rfl rfl rfl rfl rfl | extract_lets | dsimp -zeta only)

theorem State.addLocals_kept (s : State) (c : CtxIdx) : Kept s (State.addLocals s c) := by
  unfold State.addLocals
  try extract_lets
  repeat' (first
    | with_reducible exact Kept.refl _ | with_reducible assumption | with_reducible apply Kept.pre (State.addLocal_kept ..)
    | with_reducible refine Kept.foldl ?_ (fun _ _ _ => ?_) | with_reducible refine Kept.foldl_snd ?_ (fun _ _ _ => ?_)
    | with_reducible refine Kept.foldl_trd ?_ (fun _ _ _ => ?_) | with_reducible refine Kept.foldl_fst ?_ (fun _ _ _ => ?_)
    | extract_lets | dsimp -zeta only)

theorem State.startNodes_kept (s : State) (c : CtxIdx) : Kept s (State.startNodes s c) := by
  unfold State.startNodes
  try extract_lets
  repeat' (first
    | with_reducible exact Kept.refl _ | with_reducible assumption | with_reducible apply Kept.pre (State.tryReduce_kept ..)
    | with_reducible refine Kept.ite ?_ ?_ | with_reducible refine Kept.foldl ?_ (fun _ _ _ => ?_) | split
    | with_reducible refine Kept.foldl_snd ?_ (fun _ _ _ => ?_) | with_reducible refine Kept.foldl_trd ?_ (fun _ _ _ => ?_)
    | with_reducible refine Kept.foldl_fst ?_ (fun _ _ _ => ?_) | extract_lets | dsimp -zeta only)

theorem State.recvColl_kept (s : State) (m : CollMsg) : Kept s (State.recvColl s m) := by
  unfold State.recvColl
  try extract_lets
  repeat' (first
    | with_reducible exact Kept.refl _ | with_reducible assumption | with_reducible apply Kept.pre (State.setCtx_kept ..)
    | with_reducible apply Kept.pre (State.putNode_kept ..) | with_reducible refine Kept.ite ?_ ?_
    | with_reducible refine Kept.foldl ?_ (fun _ _ _ => ?_) | split
    | with_reducible refine Kept.foldl_snd ?_ (fun _ _ _ => ?_) | with_reducible refine Kept.foldl_trd ?_ (fun _ _ _ => ?_)
    | with_reducible refine Kept.foldl_fst ?_ (fun _ _ _ => ?_)
    | with_reducible refine Kept.upd ?_ rfl rfl rfl rfl rfl rfl rfl rfl | extract_lets | dsimp -zeta only)

theorem State.recvFailedChunk_kept (s : State) (c : CtxIdx) (p chunk : Nat) : Kept s (State.recvFailedChunk s c p chunk) := by
  unfold State.recvFailedChunk
  try extract_lets
  repeat' (first
    | with_reducible exact Kept.refl _ | with_reducible assumption | with_reducible apply Kept.pre (State.putNode_kept ..)
    | with_reducible refine Kept.ite ?_ ?_ | split | with_reducible refine Kept.upd ?_ rfl rfl rfl rfl rfl rfl rfl rfl
    | extract_lets | dsimp -zeta only)

theorem State.writeBlock8_kept (s : State) (c : CtxIdx) (im : Sched) (shard : Nat) (d : Desc) (seq off : Nat) (bs : List (BitVec 272)) :
    Kept s (State.writeBlock8 s c im shard d seq off bs) := by
  unfold State.writeBlock8
  try extract_lets
  repeat' (first
    | with_reducible exact Kept.refl _ | with_reducible assumption | with_reducible apply Kept.pre (State.setCtx_kept ..)
    | with_reducible apply Kept.pre (State.writeBursts_kept ..) | extract_lets | dsimp -zeta only)

theorem State.stampCopy_kept (s : State) (c : CtxIdx) (p : ParamEntry) (seq : Nat) :
    Kept s (State.stampCopy s c p seq).2 := by
  unfold State.stampCopy
  try extract_lets
  repeat' (first
    | with_reducible exact Kept.refl _ | with_reducible assumption | with_reducible apply Kept.pre (State.setCtx_kept ..)
    | with_reducible apply Kept.pre (State.statePoison_kept ..) | with_reducible apply Kept.pre (State.mergeSlot_kept ..)
    | with_reducible refine Kept.trans ?_ (State.mergeSlot_keptP (by with_reducible assumption))
    | with_reducible refine Kept.ite ?_ ?_ | split | with_reducible refine Kept.upd ?_ rfl rfl rfl rfl rfl rfl rfl rfl
    | extract_lets | dsimp -zeta only)

theorem State.stampCopy_keptP {s : State} {c : CtxIdx} {p : ParamEntry} {seq : Nat} {x y} (heqn : State.stampCopy s c p seq = (x, y)) :
    Kept s y := by
  have := State.stampCopy_kept s c p seq
  rwa [heqn] at this

theorem State.poisonedBlock_kept (s : State) (c : CtxIdx) (keys groups : List Nat) : Kept s (State.poisonedBlock s c keys groups) := by
  unfold State.poisonedBlock
  dsimp only
  exact (State.statePoison_kept s).trans (State.setCtx_kept ..)

theorem State.updateBlock_kept (s : State) (c : CtxIdx) (param seq : Nat) : Kept s (State.updateBlock s c param seq) := by
  unfold State.updateBlock
  try extract_lets
  repeat' (first
    | with_reducible exact Kept.refl _ | with_reducible assumption | with_reducible apply Kept.pre (State.setCtx_kept ..)
    | with_reducible apply Kept.pre (State.recordCause_kept ..) | with_reducible apply Kept.pre (State.readBursts_kept ..)
    | with_reducible refine Kept.trans ?_ (State.readBursts_keptP (by with_reducible assumption))
    | with_reducible apply Kept.pre (State.writeBlock8_kept ..) | with_reducible apply Kept.pre (State.stampCopy_kept ..)
    | with_reducible refine Kept.trans ?_ (State.stampCopy_keptP (by with_reducible assumption))
    | with_reducible apply Kept.pre (State.poisonedBlock_kept ..) | with_reducible refine Kept.ite ?_ ?_
    | with_reducible refine Kept.foldl ?_ (fun _ _ _ => ?_) | split
    | with_reducible refine Kept.foldl_snd ?_ (fun _ _ _ => ?_) | with_reducible refine Kept.foldl_trd ?_ (fun _ _ _ => ?_)
    | with_reducible refine Kept.foldl_fst ?_ (fun _ _ _ => ?_)
    | with_reducible refine Kept.upd ?_ rfl rfl rfl rfl rfl rfl rfl rfl | extract_lets | dsimp -zeta only)

theorem State.writeQuant_kept (s : State) (c : CtxIdx) (im : Sched) (shard : Nat) (d : Desc) (seq off : Nat) (bursts : List (BitVec 272)) (scree : List (BitVec 32)) :
    Kept s (State.writeQuant s c im shard d seq off bursts scree) := by
  unfold State.writeQuant
  try extract_lets
  repeat' (first
    | with_reducible exact Kept.refl _ | with_reducible assumption | with_reducible apply Kept.pre (State.setCtx_kept ..)
    | with_reducible apply Kept.pre (State.writeBurst_kept ..) | with_reducible apply Kept.pre (State.statePoison_kept ..)
    | with_reducible apply Kept.pre (State.mergeSlot_kept ..)
    | with_reducible refine Kept.trans ?_ (State.mergeSlot_keptP (by with_reducible assumption))
    | with_reducible refine Kept.ite ?_ ?_ | with_reducible refine Kept.foldl ?_ (fun _ _ _ => ?_) | split
    | with_reducible refine Kept.foldl_snd ?_ (fun _ _ _ => ?_) | with_reducible refine Kept.foldl_trd ?_ (fun _ _ _ => ?_)
    | with_reducible refine Kept.foldl_fst ?_ (fun _ _ _ => ?_)
    | with_reducible refine Kept.upd ?_ rfl rfl rfl rfl rfl rfl rfl rfl | extract_lets | dsimp -zeta only)

theorem State.requantBlock_kept (s : State) (c : CtxIdx) (im : Sched) (param seq : Nat) (vals : List Dy) :
    Kept s (State.requantBlock s c im param seq vals) := by
  unfold State.requantBlock
  try extract_lets
  repeat' (first
    | with_reducible exact Kept.refl _ | with_reducible assumption | with_reducible apply Kept.pre (State.setCtx_kept ..)
    | with_reducible apply Kept.pre (State.statePoison_kept ..) | with_reducible apply Kept.pre (State.readBursts_kept ..)
    | with_reducible refine Kept.trans ?_ (State.readBursts_keptP (by with_reducible assumption))
    | with_reducible apply Kept.pre (State.writeBlock8_kept ..) | with_reducible apply Kept.pre (State.stampCopy_kept ..)
    | with_reducible refine Kept.trans ?_ (State.stampCopy_keptP (by with_reducible assumption))
    | with_reducible apply Kept.pre (State.writeQuant_kept ..) | with_reducible refine Kept.ite ?_ ?_
    | with_reducible refine Kept.foldl ?_ (fun _ _ _ => ?_) | split
    | with_reducible refine Kept.foldl_snd ?_ (fun _ _ _ => ?_) | with_reducible refine Kept.foldl_trd ?_ (fun _ _ _ => ?_)
    | with_reducible refine Kept.foldl_fst ?_ (fun _ _ _ => ?_)
    | with_reducible refine Kept.upd ?_ rfl rfl rfl rfl rfl rfl rfl rfl | extract_lets | dsimp -zeta only)

theorem State.pendingBlock_kept (s : State) (c : CtxIdx) (im : Sched) (param seq : Nat) :
    Kept s (State.pendingBlock s c im param seq).2 := by
  unfold State.pendingBlock
  try extract_lets
  repeat' (first
    | with_reducible exact Kept.refl _ | with_reducible assumption | with_reducible apply Kept.pre (State.readBursts_kept ..)
    | with_reducible refine Kept.trans ?_ (State.readBursts_keptP (by with_reducible assumption))
    | with_reducible apply Kept.pre (State.poisonedBlock_kept ..) | with_reducible refine Kept.ite ?_ ?_ | split
    | with_reducible refine Kept.upd ?_ rfl rfl rfl rfl rfl rfl rfl rfl | extract_lets | dsimp -zeta only)

theorem State.pendingBlock_keptP {s : State} {c : CtxIdx} {im : Sched} {param : Nat} {seq : Nat} {x y} (heqn : State.pendingBlock s c im param seq = (x, y)) :
    Kept s y := by
  have := State.pendingBlock_kept s c im param seq
  rwa [heqn] at this

theorem State.gatherBlocks_kept (s : State) (c : CtxIdx) (im : Sched) (e : NodeEntry) :
    Kept s (State.gatherBlocks s c im e).2.1 := by
  unfold State.gatherBlocks
  generalize ((List.range e.nmaster).filter _) = l
  suffices h : ∀ a : List (Nat × (BitVec 272 × List (BitVec 32))) × State × Bool, Kept s a.2.1 →
      Kept s (l.foldl (fun a j => match a.2.1.pendingBlock c im e.param (e.first + j) with
        | (some v, s) => (a.1 ++ [(j, v)], s, a.2.2)
        | (none, s) => (a.1, s, false)) a).2.1 from h _ (Kept.refl s)
  induction l with
  | nil => exact fun _ h => h
  | cons x l ih =>
    refine fun a h => ih _ ?_
    dsimp only
    split <;> rename_i heqn <;> exact h.trans (State.pendingBlock_keptP heqn)

theorem State.gatherBlocks_keptP {s : State} {c : CtxIdx} {im : Sched} {e : NodeEntry} {x y z} (heqn : State.gatherBlocks s c im e = (x, y, z)) :
    Kept s y := by
  have := State.gatherBlocks_kept s c im e
  rwa [heqn] at this

theorem State.sendGather_kept (s : State) (c : CtxIdx) (i : Nat) (e : NodeEntry) (bs : List (Nat × (BitVec 272 × List (BitVec 32)))) :
    Kept s (State.sendGather s c i e bs) := by
  unfold State.sendGather
  try extract_lets
  repeat' (first
    | with_reducible exact Kept.refl _ | with_reducible assumption | with_reducible apply Kept.pre (State.setCtx_kept ..)
    | with_reducible apply Kept.pre (State.sendChunk_kept ..)
    | with_reducible refine Kept.upd ?_ rfl rfl rfl rfl rfl rfl rfl rfl | extract_lets | dsimp -zeta only)

theorem State.startGathers_kept (s : State) (c : CtxIdx) : Kept s (State.startGathers s c) := by
  unfold State.startGathers
  try extract_lets
  repeat' (first
    | with_reducible exact Kept.refl _ | with_reducible assumption
    | with_reducible apply Kept.pre (State.gatherBlocks_kept ..)
    | with_reducible refine Kept.trans ?_ (State.gatherBlocks_keptP (by with_reducible assumption))
    | with_reducible apply Kept.pre (State.sendGather_kept ..) | with_reducible refine Kept.ite ?_ ?_
    | with_reducible refine Kept.foldl ?_ (fun _ _ _ => ?_) | split
    | with_reducible refine Kept.foldl_snd ?_ (fun _ _ _ => ?_) | with_reducible refine Kept.foldl_trd ?_ (fun _ _ _ => ?_)
    | with_reducible refine Kept.foldl_fst ?_ (fun _ _ _ => ?_)
    | with_reducible refine Kept.upd ?_ rfl rfl rfl rfl rfl rfl rfl rfl | extract_lets | dsimp -zeta only)

theorem State.requantGroup_kept (s : State) (c : CtxIdx) (param g : Nat) : Kept s (State.requantGroup s c param g) := by
  unfold State.requantGroup
  try extract_lets
  repeat' (first
    | with_reducible exact Kept.refl _ | with_reducible assumption | with_reducible apply Kept.pre (State.setCtx_kept ..)
    | with_reducible apply Kept.pre (State.readBursts_kept ..)
    | with_reducible refine Kept.trans ?_ (State.readBursts_keptP (by with_reducible assumption))
    | with_reducible apply Kept.pre (State.poisonedBlock_kept ..)
    | with_reducible apply Kept.pre (State.requantBlock_kept ..) | with_reducible apply Kept.pre (State.startGathers_kept ..)
    | with_reducible refine Kept.ite ?_ ?_ | with_reducible refine Kept.foldl ?_ (fun _ _ _ => ?_) | split
    | with_reducible refine Kept.foldl_snd ?_ (fun _ _ _ => ?_) | with_reducible refine Kept.foldl_trd ?_ (fun _ _ _ => ?_)
    | with_reducible refine Kept.foldl_fst ?_ (fun _ _ _ => ?_)
    | with_reducible refine Kept.upd ?_ rfl rfl rfl rfl rfl rfl rfl rfl | extract_lets | dsimp -zeta only)

theorem State.landGather_kept (s : State) (c : CtxIdx) (im : Sched) (param seq : Nat) (b : BitVec 272) (ents : List (BitVec 32)) :
    Kept s (State.landGather s c im param seq b ents) := by
  unfold State.landGather
  try extract_lets
  repeat' (first
    | with_reducible exact Kept.refl _ | with_reducible assumption | with_reducible apply Kept.pre (State.setCtx_kept ..)
    | with_reducible apply Kept.pre (State.stampCopy_kept ..)
    | with_reducible refine Kept.trans ?_ (State.stampCopy_keptP (by with_reducible assumption))
    | with_reducible apply Kept.pre (State.writeQuant_kept ..) | with_reducible refine Kept.ite ?_ ?_ | split
    | with_reducible refine Kept.upd ?_ rfl rfl rfl rfl rfl rfl rfl rfl | extract_lets | dsimp -zeta only)

theorem State.recvGather_kept (s : State) (m : CollMsg) : Kept s (State.recvGather s m) := by
  unfold State.recvGather
  try extract_lets
  repeat' (first
    | with_reducible exact Kept.refl _ | with_reducible assumption | with_reducible apply Kept.pre (State.setCtx_kept ..)
    | with_reducible apply Kept.pre (State.sendGather_kept ..) | with_reducible apply Kept.pre (State.landGather_kept ..)
    | with_reducible refine Kept.ite ?_ ?_ | with_reducible refine Kept.foldl ?_ (fun _ _ _ => ?_) | split
    | with_reducible refine Kept.foldl_snd ?_ (fun _ _ _ => ?_) | with_reducible refine Kept.foldl_trd ?_ (fun _ _ _ => ?_)
    | with_reducible refine Kept.foldl_fst ?_ (fun _ _ _ => ?_)
    | with_reducible refine Kept.upd ?_ rfl rfl rfl rfl rfl rfl rfl rfl | extract_lets | dsimp -zeta only)

theorem State.retryHeld_kept (s : State) (c : CtxIdx) : Kept s (State.retryHeld s c) := by
  unfold State.retryHeld
  try extract_lets
  repeat' (first
    | with_reducible exact Kept.refl _ | with_reducible assumption | with_reducible apply Kept.pre (State.setCtx_kept ..)
    | with_reducible apply Kept.pre (State.recvColl_kept ..) | with_reducible apply Kept.pre (State.recvGather_kept ..)
    | with_reducible refine Kept.ite ?_ ?_ | with_reducible refine Kept.foldl ?_ (fun _ _ _ => ?_) | split
    | with_reducible refine Kept.foldl_snd ?_ (fun _ _ _ => ?_) | with_reducible refine Kept.foldl_trd ?_ (fun _ _ _ => ?_)
    | with_reducible refine Kept.foldl_fst ?_ (fun _ _ _ => ?_)
    | with_reducible refine Kept.upd ?_ rfl rfl rfl rfl rfl rfl rfl rfl | extract_lets | dsimp -zeta only)

theorem State.settleNodes_kept (k : Nat) (s : State) (c : CtxIdx) : Kept s (State.settleNodes k s c) := by
  induction k generalizing s c with
  | zero => exact Kept.refl _
  | succ n ih =>
    unfold State.settleNodes
    try extract_lets
    repeat' (first
      | with_reducible exact Kept.refl _ | with_reducible assumption | with_reducible apply Kept.pre (ih ..)
      | with_reducible apply Kept.pre (State.addLocals_kept ..) | with_reducible apply Kept.pre (State.retryHeld_kept ..)
      | with_reducible refine Kept.ite ?_ ?_ | split | extract_lets | dsimp -zeta only)

theorem State.feedNodes_kept (s : State) (c : CtxIdx) : Kept s (State.feedNodes s c) := by
  unfold State.feedNodes
  try extract_lets
  repeat' (first
    | with_reducible exact Kept.refl _ | with_reducible assumption
    | with_reducible apply Kept.pre (State.settleNodes_kept ..) | extract_lets | dsimp -zeta only)

theorem State.retryOwn_kept (s : State) (c : CtxIdx) : Kept s (State.retryOwn s c) := by
  unfold State.retryOwn
  try extract_lets
  repeat' (first
    | with_reducible exact Kept.refl _ | with_reducible assumption | with_reducible apply Kept.pre (State.setCtx_kept ..)
    | with_reducible apply Kept.pre (State.ownerStage_kept ..) | with_reducible refine Kept.foldl ?_ (fun _ _ _ => ?_)
    | split | with_reducible refine Kept.foldl_snd ?_ (fun _ _ _ => ?_)
    | with_reducible refine Kept.foldl_trd ?_ (fun _ _ _ => ?_) | with_reducible refine Kept.foldl_fst ?_ (fun _ _ _ => ?_)
    | with_reducible refine Kept.upd ?_ rfl rfl rfl rfl rfl rfl rfl rfl | extract_lets | dsimp -zeta only)

end Sys2Proof.Machine
end

