-- ==== Sys2Proof/Laws/KeptTors.lean ====
section
/-! SUPPORT. What the shared operations keep (Laws/Kept): tors, loaders, streams, conversion and the array. -/

namespace Sys2Proof.Machine
open Sys2Proof

theorem State.issue_kept (s : State) (t : TorIdx) (w : BitVec 128) (f : CtxIdx → Tor → Tor) : Kept s (State.issue s t w f) := by
  unfold State.issue
  try extract_lets
  repeat' (first
    | with_reducible exact Kept.refl _ | with_reducible assumption | with_reducible apply Kept.pre (State.setTor_kept ..)
    | with_reducible refine Kept.ite ?_ ?_ | split | with_reducible refine Kept.upd ?_ rfl rfl rfl rfl rfl rfl rfl rfl
    | extract_lets | dsimp -zeta only)

theorem State.issueJump_kept (s : State) (t : TorIdx) (w : BitVec 128) (f : CtxIdx → Tor → Tor) :
    Kept s (State.issueJump s t w f) := by
  unfold State.issueJump
  try extract_lets
  repeat' (first
    | with_reducible exact Kept.refl _ | with_reducible assumption | with_reducible apply Kept.pre (State.setTor_kept ..)
    | with_reducible refine Kept.ite ?_ ?_ | split | with_reducible refine Kept.upd ?_ rfl rfl rfl rfl rfl rfl rfl rfl
    | extract_lets | dsimp -zeta only)

theorem State.issueWide_kept (s : State) (t : TorIdx) (w : BitVec 128) (f : CtxIdx → Sched → State) (hf : ∀ c im, Kept s (f c im)) :
    Kept s (State.issueWide s t w f) := by
  unfold State.issueWide
  dsimp only
  repeat'
    first
      | with_reducible exact Kept.refl _
      | exact hf _ _
      | split

theorem State.pcNext_kept (s : State) (t : TorIdx) : Kept s (State.pcNext s t) := by
  unfold State.pcNext
  try extract_lets
  repeat' (first
    | with_reducible exact Kept.refl _ | with_reducible assumption | with_reducible apply Kept.pre (State.setTor_kept ..)
    | extract_lets | dsimp -zeta only)

theorem State.stageTor_kept (s : State) (t : TorIdx) : Kept s (State.stageTor s t) := by
  unfold State.stageTor
  try extract_lets
  repeat' (first
    | with_reducible exact Kept.refl _ | with_reducible assumption | with_reducible apply Kept.pre (State.setTor_kept ..)
    | with_reducible apply Kept.pre (State.sendWithdraw_kept ..) | with_reducible refine Kept.ite ?_ ?_ | split
    | with_reducible refine Kept.upd ?_ rfl rfl rfl rfl rfl rfl rfl rfl | extract_lets | dsimp -zeta only)

theorem State.rowFailure_kept (s : State) (t : TorIdx) (p : Nat) : Kept s (State.rowFailure s t p) := by
  unfold State.rowFailure
  try extract_lets
  repeat' (first
    | with_reducible exact Kept.refl _ | with_reducible assumption | with_reducible apply Kept.pre (State.setTor_kept ..)
    | with_reducible apply Kept.pre (State.raise_kept ..) | with_reducible apply Kept.pre (State.stageTor_kept ..)
    | with_reducible refine Kept.ite ?_ ?_ | split | with_reducible refine Kept.upd ?_ rfl rfl rfl rfl rfl rfl rfl rfl
    | extract_lets | dsimp -zeta only)

theorem State.torFailure_kept (s : State) (t : TorIdx) : Kept s (State.torFailure s t) := by
  unfold State.torFailure
  try extract_lets
  repeat' (first
    | with_reducible exact Kept.refl _ | with_reducible assumption | with_reducible apply Kept.pre (State.setTor_kept ..)
    | with_reducible apply Kept.pre (State.stageTor_kept ..) | with_reducible refine Kept.ite ?_ ?_ | split
    | with_reducible refine Kept.upd ?_ rfl rfl rfl rfl rfl rfl rfl rfl | extract_lets | dsimp -zeta only)

theorem State.invalidateBuf_kept (s : State) (ridge : Nat) : Kept s (State.invalidateBuf s ridge) := by
  unfold State.invalidateBuf
  try extract_lets
  repeat' (first
    | with_reducible exact Kept.refl _ | with_reducible assumption | with_reducible refine Kept.ite ?_ ?_ | split
    | with_reducible refine Kept.upd ?_ rfl rfl rfl rfl rfl rfl rfl rfl | extract_lets | dsimp -zeta only)

theorem State.keepBuf_kept (s : State) (ridge addr : Nat) (d : Option (BitVec 272)) : Kept s (State.keepBuf s ridge addr d) := by
  unfold State.keepBuf
  try extract_lets
  repeat' (first
    | with_reducible exact Kept.refl _ | with_reducible assumption | with_reducible refine Kept.ite ?_ ?_ | split
    | with_reducible refine Kept.upd ?_ rfl rfl rfl rfl rfl rfl rfl rfl | extract_lets | dsimp -zeta only)

theorem State.portWrite_kept (s : State) (t : TorIdx) (addr : Nat) (d : BitVec 272) : Kept s (State.portWrite s t addr d) := by
  unfold State.portWrite
  try extract_lets
  repeat' (first
    | with_reducible exact Kept.refl _ | with_reducible assumption | with_reducible apply Kept.pre (State.writeBurst_kept ..)
    | with_reducible refine Kept.ite ?_ ?_ | split | with_reducible refine Kept.upd ?_ rfl rfl rfl rfl rfl rfl rfl rfl
    | extract_lets | dsimp -zeta only)

theorem State.completeWait_kept (s : State) (c : CtxIdx) (im : Sched) (t : TorIdx) (token count : Nat) (remote : Bool) :
    Kept s (State.completeWait s c im t token count remote) := by
  unfold State.completeWait
  try extract_lets
  repeat' (first
    | with_reducible exact Kept.refl _ | with_reducible assumption | with_reducible apply Kept.pre (State.setTor_kept ..)
    | with_reducible apply Kept.pre (State.setCtx_kept ..) | with_reducible apply Kept.pre (State.invalidateBuf_kept ..)
    | with_reducible refine Kept.ite ?_ ?_ | split | with_reducible refine Kept.upd ?_ rfl rfl rfl rfl rfl rfl rfl rfl
    | extract_lets | dsimp -zeta only)

theorem State.wakeToken_kept (s : State) (c : CtxIdx) (token : Nat) : Kept s (State.wakeToken s c token) := by
  unfold State.wakeToken
  try extract_lets
  repeat' (first
    | with_reducible exact Kept.refl _ | with_reducible assumption
    | with_reducible apply Kept.pre (State.completeWait_kept ..) | with_reducible refine Kept.ite ?_ ?_
    | with_reducible refine Kept.foldl ?_ (fun _ _ _ => ?_) | split
    | with_reducible refine Kept.foldl_snd ?_ (fun _ _ _ => ?_) | with_reducible refine Kept.foldl_trd ?_ (fun _ _ _ => ?_)
    | with_reducible refine Kept.foldl_fst ?_ (fun _ _ _ => ?_)
    | with_reducible refine Kept.upd ?_ rfl rfl rfl rfl rfl rfl rfl rfl | extract_lets | dsimp -zeta only)

theorem State.addToken_kept (s : State) (c : CtxIdx) (token inc : Nat) : Kept s (State.addToken s c token inc) := by
  unfold State.addToken
  try extract_lets
  repeat' (first
    | with_reducible exact Kept.refl _ | with_reducible assumption | with_reducible apply Kept.pre (State.setCtx_kept ..)
    | with_reducible apply Kept.pre (State.recordCause_kept ..) | with_reducible apply Kept.pre (State.wakeToken_kept ..)
    | with_reducible refine Kept.ite ?_ ?_ | split | with_reducible refine Kept.upd ?_ rfl rfl rfl rfl rfl rfl rfl rfl
    | extract_lets | dsimp -zeta only)

theorem State.sendFetch_kept (s : State) (c : CtxIdx) (f : PlaneFetch) : Kept s (State.sendFetch s c f) := by
  unfold State.sendFetch
  try extract_lets
  repeat' (first
    | with_reducible exact Kept.refl _ | with_reducible assumption | with_reducible apply Kept.pre (State.setCtx_kept ..)
    | with_reducible apply Kept.pre (State.tell_kept ..) | with_reducible refine Kept.upd ?_ rfl rfl rfl rfl rfl rfl rfl rfl
    | extract_lets | dsimp -zeta only)

theorem State.fetchPlanes_kept (s : State) (c : CtxIdx) (im : Sched) (d seq planes : Nat) :
    Kept s (State.fetchPlanes s c im d seq planes) := by
  unfold State.fetchPlanes
  try extract_lets
  repeat' (first
    | with_reducible exact Kept.refl _ | with_reducible assumption | with_reducible apply Kept.pre (State.sendFetch_kept ..)
    | with_reducible refine Kept.foldl ?_ (fun _ _ _ => ?_) | split
    | with_reducible refine Kept.foldl_snd ?_ (fun _ _ _ => ?_) | with_reducible refine Kept.foldl_trd ?_ (fun _ _ _ => ?_)
    | with_reducible refine Kept.foldl_fst ?_ (fun _ _ _ => ?_)
    | with_reducible refine Kept.upd ?_ rfl rfl rfl rfl rfl rfl rfl rfl | extract_lets | dsimp -zeta only)

theorem State.refetch_kept (s : State) (c : CtxIdx) (im : Sched) (p : Nat) : Kept s (State.refetch s c im p) := by
  unfold State.refetch
  try extract_lets
  repeat' (first
    | with_reducible exact Kept.refl _ | with_reducible assumption | with_reducible apply Kept.pre (State.setCtx_kept ..)
    | with_reducible apply Kept.pre (State.sendFetch_kept ..) | with_reducible refine Kept.foldl ?_ (fun _ _ _ => ?_) | split
    | with_reducible refine Kept.foldl_snd ?_ (fun _ _ _ => ?_) | with_reducible refine Kept.foldl_trd ?_ (fun _ _ _ => ?_)
    | with_reducible refine Kept.foldl_fst ?_ (fun _ _ _ => ?_)
    | with_reducible refine Kept.upd ?_ rfl rfl rfl rfl rfl rfl rfl rfl | extract_lets | dsimp -zeta only)

theorem State.deliver_kept (s : State) (c : CtxIdx) (im : Sched) (t : TorIdx) (l : LoadReq) (e : StreamEntry) (d : Desc) (base fine : List Arrival) (sb : Option Arrival) (scree : List (BitVec 32)) :
    Kept s (State.deliver s c im t l e d base fine sb scree) := by
  unfold State.deliver
  try extract_lets
  repeat' (first
    | with_reducible exact Kept.refl _ | with_reducible assumption | with_reducible apply Kept.pre (State.setTor_kept ..)
    | with_reducible apply Kept.pre (State.failItem_kept ..) | with_reducible refine Kept.ite ?_ ?_ | split
    | with_reducible refine Kept.upd ?_ rfl rfl rfl rfl rfl rfl rfl rfl | extract_lets | dsimp -zeta only)

theorem State.runLoader_kept (k : Nat) (s : State) (c : CtxIdx) (t : TorIdx) : Kept s (State.runLoader k s c t) := by
  induction k generalizing s c t with
  | zero => exact Kept.refl _
  | succ n ih =>
    unfold State.runLoader
    try extract_lets
    repeat' (first
      | with_reducible exact Kept.refl _ | with_reducible assumption | with_reducible apply Kept.pre (ih ..)
      | with_reducible apply Kept.pre (State.setTor_kept ..) | with_reducible apply Kept.pre (State.fetchPlanes_kept ..)
      | with_reducible apply Kept.pre (State.deliver_kept ..) | with_reducible refine Kept.ite ?_ ?_ | split
      | with_reducible refine Kept.upd ?_ rfl rfl rfl rfl rfl rfl rfl rfl | extract_lets | dsimp -zeta only)

theorem State.loadMore_kept (s : State) (c : CtxIdx) (t : TorIdx) : Kept s (State.loadMore s c t) := by
  unfold State.loadMore
  try extract_lets
  repeat' (first
    | with_reducible exact Kept.refl _ | with_reducible assumption | with_reducible apply Kept.pre (State.runLoader_kept ..)
    | extract_lets | dsimp -zeta only)

theorem State.dropLoads_kept (s : State) (c : CtxIdx) (im : Sched) (t : TorIdx) : Kept s (State.dropLoads s c im t) := by
  unfold State.dropLoads
  try extract_lets
  repeat' (first
    | with_reducible exact Kept.refl _ | with_reducible assumption | with_reducible apply Kept.pre (State.setTor_kept ..)
    | with_reducible refine Kept.ite ?_ ?_ | split | with_reducible refine Kept.upd ?_ rfl rfl rfl rfl rfl rfl rfl rfl
    | extract_lets | dsimp -zeta only)

theorem State.resumeSettle_kept (s : State) (c : CtxIdx) (d : Nat) : Kept s (State.resumeSettle s c d) := by
  unfold State.resumeSettle
  try extract_lets
  repeat' (first
    | with_reducible exact Kept.refl _ | with_reducible assumption | with_reducible apply Kept.pre (State.setTor_kept ..)
    | with_reducible apply Kept.pre (State.setCtx_kept ..) | with_reducible refine Kept.ite ?_ ?_
    | with_reducible refine Kept.foldl ?_ (fun _ _ _ => ?_) | split
    | with_reducible refine Kept.foldl_snd ?_ (fun _ _ _ => ?_) | with_reducible refine Kept.foldl_trd ?_ (fun _ _ _ => ?_)
    | with_reducible refine Kept.foldl_fst ?_ (fun _ _ _ => ?_)
    | with_reducible refine Kept.upd ?_ rfl rfl rfl rfl rfl rfl rfl rfl | extract_lets | dsimp -zeta only)

theorem State.settleRuns_kept (c : CtxIdx) (d : Nat) (k : Nat) (s : State) : Kept s (State.settleRuns c d k s) := by
  induction k generalizing c d s with
  | zero => exact Kept.refl _
  | succ n ih =>
    unfold State.settleRuns
    try extract_lets
    repeat' (first
      | with_reducible exact Kept.refl _ | with_reducible assumption | with_reducible apply Kept.pre (ih ..)
      | with_reducible apply Kept.pre (State.setCtx_kept ..) | with_reducible apply Kept.pre (State.addToken_kept ..)
      | with_reducible apply Kept.pre (State.resumeSettle_kept ..) | with_reducible refine Kept.ite ?_ ?_ | split
      | with_reducible refine Kept.upd ?_ rfl rfl rfl rfl rfl rfl rfl rfl | extract_lets | dsimp -zeta only)

theorem State.runSettle_kept (s : State) (c : CtxIdx) (d : Nat) : Kept s (State.runSettle s c d) :=
  State.settleRuns_kept c d 5 s

theorem State.pushLater_kept (s : State) (c : CtxIdx) (t : TorIdx) (op : LaterOp) : Kept s (State.pushLater s c t op) := by
  unfold State.pushLater
  try extract_lets
  repeat' (first
    | with_reducible exact Kept.refl _ | with_reducible assumption | with_reducible apply Kept.pre (State.setTor_kept ..)
    | with_reducible refine Kept.upd ?_ rfl rfl rfl rfl rfl rfl rfl rfl | extract_lets | dsimp -zeta only)

theorem State.doHand_kept (s : State) (c : CtxIdx) (im : Sched) (t : TorIdx) (desc tile chunk slot word : Nat) (failed : Bool) :
    Kept s (State.doHand s c im t desc tile chunk slot word failed) :=
  (State.setCtx_kept ..).trans (State.feedNodes_kept ..)

theorem State.sendCeil_kept (s : State) (c : CtxIdx) (im : Sched) (t : TorIdx) (tile desc : Nat) (void : Bool) :
    Kept s (State.sendCeil s c im t tile desc void) := by
  unfold State.sendCeil
  try extract_lets
  repeat' (first
    | with_reducible exact Kept.refl _ | with_reducible assumption | with_reducible refine Kept.ite ?_ ?_ | split
    | with_reducible refine Kept.upd ?_ rfl rfl rfl rfl rfl rfl rfl rfl | extract_lets | dsimp -zeta only)

theorem State.signalRemote_kept (s : State) (c : CtxIdx) (sys : BitVec 15) (token inc : Nat) :
    Kept s (State.signalRemote s c sys token inc) := by
  unfold State.signalRemote
  try extract_lets
  repeat' (first
    | with_reducible exact Kept.refl _ | with_reducible assumption | with_reducible apply Kept.pre (State.emit_kept ..)
    | with_reducible apply Kept.pre (State.raiseBlocked_kept ..) | with_reducible apply Kept.pre (State.tell_kept ..)
    | with_reducible refine Kept.ite ?_ ?_ | split | with_reducible refine Kept.upd ?_ rfl rfl rfl rfl rfl rfl rfl rfl
    | extract_lets | dsimp -zeta only)

theorem State.signalLocal_kept (s : State) (c : CtxIdx) (t : TorIdx) (token inc : Nat) :
    Kept s (State.signalLocal s c t token inc) := by
  unfold State.signalLocal
  try extract_lets
  repeat' (first
    | with_reducible exact Kept.refl _ | with_reducible assumption | with_reducible apply Kept.pre (State.setTor_kept ..)
    | with_reducible apply Kept.pre (State.addToken_kept ..) | with_reducible refine Kept.ite ?_ ?_ | split
    | with_reducible refine Kept.upd ?_ rfl rfl rfl rfl rfl rfl rfl rfl | extract_lets | dsimp -zeta only)

theorem State.doLater_kept (s : State) (c : CtxIdx) (im : Sched) (t : TorIdx) (op : LaterOp) : Kept s (State.doLater s c im t op) := by
  cases op with
  | signal => exact Kept.ite (State.signalRemote_kept ..) (State.signalLocal_kept ..)
  | hand => exact State.doHand_kept ..
  | failedHand => exact State.doHand_kept ..
  | ceilReport => exact State.sendCeil_kept ..
  | voidReport => exact State.sendCeil_kept ..
  | stepReport => exact ((State.setCtx_kept ..).trans (State.setTor_kept ..)).trans (State.feedNodes_kept ..)

theorem State.runLater_kept (k : Nat) (s : State) (c : CtxIdx) (t : TorIdx) : Kept s (State.runLater k s c t) := by
  induction k generalizing s c t with
  | zero => exact Kept.refl _
  | succ n ih =>
    unfold State.runLater
    try extract_lets
    repeat' (first
      | with_reducible exact Kept.refl _ | with_reducible assumption | with_reducible apply Kept.pre (ih ..)
      | with_reducible apply Kept.pre (State.setTor_kept ..) | with_reducible apply Kept.pre (State.doLater_kept ..)
      | with_reducible refine Kept.ite ?_ ?_ | split | with_reducible refine Kept.upd ?_ rfl rfl rfl rfl rfl rfl rfl rfl
      | extract_lets | dsimp -zeta only)

theorem State.settleLater_kept (s : State) (c : CtxIdx) (t : TorIdx) : Kept s (State.settleLater s c t) := by
  unfold State.settleLater
  try extract_lets
  repeat' (first
    | with_reducible exact Kept.refl _ | with_reducible assumption | with_reducible apply Kept.pre (State.runLater_kept ..)
    | extract_lets | dsimp -zeta only)

theorem State.progress_kept (s : State) (c : CtxIdx) (t : TorIdx) : Kept s (State.progress s c t) := by
  unfold State.progress
  try extract_lets
  repeat' (first
    | with_reducible exact Kept.refl _ | with_reducible assumption | with_reducible apply Kept.pre (State.loadMore_kept ..)
    | with_reducible apply Kept.pre (State.settleLater_kept ..) | extract_lets | dsimp -zeta only)

theorem State.failWord_kept (s : State) (c : CtxIdx) (im : Sched) (t : TorIdx) (cause : Nat) :
    Kept s (State.failWord s c im t cause) := by
  unfold State.failWord
  try extract_lets
  repeat' (first
    | with_reducible exact Kept.refl _ | with_reducible assumption | with_reducible apply Kept.pre (State.failItem_kept ..)
    | extract_lets | dsimp -zeta only)

theorem State.stopTor_kept (s : State) (c : CtxIdx) (im : Sched) (t : TorIdx) : Kept s (State.stopTor s c im t) := by
  unfold State.stopTor
  try extract_lets
  repeat' (first
    | with_reducible exact Kept.refl _ | with_reducible assumption | with_reducible apply Kept.pre (State.setTor_kept ..)
    | with_reducible apply Kept.pre (State.setCtx_kept ..) | with_reducible apply Kept.pre (State.pushLater_kept ..)
    | with_reducible apply Kept.pre (State.settleLater_kept ..) | with_reducible apply Kept.pre (State.failWord_kept ..)
    | with_reducible refine Kept.ite ?_ ?_ | with_reducible refine Kept.foldl ?_ (fun _ _ _ => ?_) | split
    | with_reducible refine Kept.foldl_snd ?_ (fun _ _ _ => ?_) | with_reducible refine Kept.foldl_trd ?_ (fun _ _ _ => ?_)
    | with_reducible refine Kept.foldl_fst ?_ (fun _ _ _ => ?_)
    | with_reducible refine Kept.upd ?_ rfl rfl rfl rfl rfl rfl rfl rfl | extract_lets | dsimp -zeta only)

theorem State.failPre_kept (s : State) (c : CtxIdx) (im : Sched) (t : TorIdx) : Kept s (State.failPre s c im t) := by
  unfold State.failPre
  try extract_lets
  repeat' (first
    | with_reducible exact Kept.refl _ | with_reducible assumption | with_reducible apply Kept.pre (State.setTor_kept ..)
    | with_reducible apply Kept.pre (State.failItem_kept ..) | with_reducible refine Kept.foldl ?_ (fun _ _ _ => ?_)
    | with_reducible refine Kept.foldl_snd ?_ (fun _ _ _ => ?_) | with_reducible refine Kept.foldl_trd ?_ (fun _ _ _ => ?_)
    | with_reducible refine Kept.foldl_fst ?_ (fun _ _ _ => ?_)
    | with_reducible refine Kept.upd ?_ rfl rfl rfl rfl rfl rfl rfl rfl | extract_lets | dsimp -zeta only)

theorem State.startTor_kept (s : State) (c : CtxIdx) (im : Sched) (t : TorIdx) : Kept s (State.startTor s c im t) := by
  unfold State.startTor
  try extract_lets
  repeat' (first
    | with_reducible exact Kept.refl _ | with_reducible assumption | with_reducible apply Kept.pre (State.setTor_kept ..)
    | with_reducible apply Kept.pre (State.progress_kept ..) | with_reducible apply Kept.pre (State.failPre_kept ..)
    | extract_lets | dsimp -zeta only)

theorem State.leaveCairn_kept (s : State) (c : CtxIdx) (t : TorIdx) : Kept s (State.leaveCairn s c t) := by
  unfold State.leaveCairn
  try extract_lets
  repeat' (first
    | with_reducible exact Kept.refl _ | with_reducible assumption | with_reducible apply Kept.pre (State.setTor_kept ..)
    | with_reducible apply Kept.pre (State.progress_kept ..) | with_reducible apply Kept.pre (State.startTor_kept ..) | split
    | with_reducible refine Kept.upd ?_ rfl rfl rfl rfl rfl rfl rfl rfl | extract_lets | dsimp -zeta only)

theorem State.failPass_kept (s : State) (c : CtxIdx) (im : Sched) (t : TorIdx) (old : Bool) (p : Pass) (cause row others : Nat) :
    Kept s (State.failPass s c im t old p cause row others) := by
  unfold State.failPass
  try extract_lets
  repeat' (first
    | with_reducible exact Kept.refl _ | with_reducible assumption | with_reducible apply Kept.pre (State.setTor_kept ..)
    | with_reducible apply Kept.pre (State.setCtx_kept ..) | with_reducible apply Kept.pre (State.failItem_kept ..)
    | with_reducible refine Kept.ite ?_ ?_ | with_reducible refine Kept.foldl ?_ (fun _ _ _ => ?_) | split
    | with_reducible refine Kept.foldl_snd ?_ (fun _ _ _ => ?_) | with_reducible refine Kept.foldl_trd ?_ (fun _ _ _ => ?_)
    | with_reducible refine Kept.foldl_fst ?_ (fun _ _ _ => ?_)
    | with_reducible refine Kept.upd ?_ rfl rfl rfl rfl rfl rfl rfl rfl | extract_lets | dsimp -zeta only)

theorem State.vector_kept (s : State) (t : TorIdx) (op : Byte) (o : VOp) (f : FpMode → F32 → F32 → F32 → FpRes) :
    Kept s (State.vector s t op o f) := by
  unfold State.vector
  try extract_lets
  repeat' (first
    | with_reducible exact Kept.refl _ | with_reducible assumption | with_reducible apply Kept.pre (State.issue_kept ..)
    | split | with_reducible refine Kept.upd ?_ rfl rfl rfl rfl rfl rfl rfl rfl | extract_lets | dsimp -zeta only)

theorem State.failEcc_kept (s : State) (c : CtxIdx) (im : Sched) (t : TorIdx) : Kept s (State.failEcc s c im t) := by
  unfold State.failEcc
  try extract_lets
  repeat' (first
    | with_reducible exact Kept.refl _ | with_reducible assumption | with_reducible apply Kept.pre (State.torFailure_kept ..)
    | with_reducible apply Kept.pre (State.failWord_kept ..) | extract_lets | dsimp -zeta only)

theorem State.skipRange_kept (s : State) (c : CtxIdx) (im : Sched) (t : TorIdx) (skip : Nat) :
    Kept s (State.skipRange s c im t skip) := by
  unfold State.skipRange
  try extract_lets
  repeat' (first
    | with_reducible exact Kept.refl _ | with_reducible assumption | with_reducible apply Kept.pre (State.setTor_kept ..)
    | with_reducible apply Kept.pre (State.setCtx_kept ..) | with_reducible apply Kept.pre (State.dropLoads_kept ..)
    | with_reducible apply Kept.pre (State.pushLater_kept ..) | with_reducible apply Kept.pre (State.progress_kept ..)
    | with_reducible refine Kept.ite ?_ ?_ | with_reducible refine Kept.foldl ?_ (fun _ _ _ => ?_) | split
    | with_reducible refine Kept.foldl_snd ?_ (fun _ _ _ => ?_) | with_reducible refine Kept.foldl_trd ?_ (fun _ _ _ => ?_)
    | with_reducible refine Kept.foldl_fst ?_ (fun _ _ _ => ?_)
    | with_reducible refine Kept.upd ?_ rfl rfl rfl rfl rfl rfl rfl rfl | extract_lets | dsimp -zeta only)

theorem State.scalar_kept (s : State) (t : TorIdx) (op : Byte) (o : SOp) (f : Word → Word → Word) :
    Kept s (State.scalar s t op o f) := by
  unfold State.scalar
  try extract_lets
  repeat' (first
    | with_reducible exact Kept.refl _ | with_reducible assumption | with_reducible apply Kept.pre (State.issue_kept ..)
    | with_reducible refine Kept.ite ?_ ?_ | split | extract_lets | dsimp -zeta only)

theorem State.predicate_kept (s : State) (t : TorIdx) (op : Byte) (o : POp) (f : BitVec 32 → BitVec 32 → BitVec 32) :
    Kept s (State.predicate s t op o f) := by
  unfold State.predicate
  try extract_lets
  repeat' (first
    | with_reducible exact Kept.refl _ | with_reducible assumption | with_reducible apply Kept.pre (State.issue_kept ..)
    | extract_lets | dsimp -zeta only)

theorem State.writeBlock_kept (s : State) (t : TorIdx) (d : Desc) (b : OutBlock) :
    Kept s (State.writeBlock s t d b).2 := by
  unfold State.writeBlock
  try extract_lets
  repeat' (first
    | with_reducible exact Kept.refl _ | with_reducible assumption
    | with_reducible apply Kept.pre (State.statePoison_kept ..) | with_reducible apply Kept.pre (State.mergeSlot_kept ..)
    | with_reducible refine Kept.trans ?_ (State.mergeSlot_keptP (by with_reducible assumption))
    | with_reducible apply Kept.pre (State.portWrite_kept ..) | with_reducible refine Kept.ite ?_ ?_
    | with_reducible refine Kept.foldl ?_ (fun _ _ _ => ?_) | split
    | with_reducible refine Kept.foldl_snd ?_ (fun _ _ _ => ?_) | with_reducible refine Kept.foldl_trd ?_ (fun _ _ _ => ?_)
    | with_reducible refine Kept.foldl_fst ?_ (fun _ _ _ => ?_)
    | with_reducible refine Kept.upd ?_ rfl rfl rfl rfl rfl rfl rfl rfl | extract_lets | dsimp -zeta only)

theorem State.writeBlock_keptP {s : State} {t : TorIdx} {d : Desc} {b : OutBlock} {x y} (heqn : State.writeBlock s t d b = (x, y)) :
    Kept s y := by
  have := State.writeBlock_kept s t d b
  rwa [heqn] at this

theorem State.writeBlocks_kept (s : State) (t : TorIdx) (d : Desc) (bs : List OutBlock) :
    Kept s (State.writeBlocks s t d bs).2 := by
  unfold State.writeBlocks
  try extract_lets
  repeat' (first
    | with_reducible exact Kept.refl _ | with_reducible assumption | with_reducible apply Kept.pre (State.writeBlock_kept ..)
    | with_reducible refine Kept.trans ?_ (State.writeBlock_keptP (by with_reducible assumption))
    | with_reducible refine Kept.foldl ?_ (fun _ _ _ => ?_) | with_reducible refine Kept.foldl_snd ?_ (fun _ _ _ => ?_)
    | with_reducible refine Kept.foldl_trd ?_ (fun _ _ _ => ?_) | with_reducible refine Kept.foldl_fst ?_ (fun _ _ _ => ?_)
    | extract_lets | dsimp -zeta only)

theorem State.writeBlocks_keptP {s : State} {t : TorIdx} {d : Desc} {bs : List OutBlock} {x y} (heqn : State.writeBlocks s t d bs = (x, y)) :
    Kept s y := by
  have := State.writeBlocks_kept s t d bs
  rwa [heqn] at this

theorem State.endWrite_kept (s : State) (c : CtxIdx) (im : Sched) (t : TorIdx) (poison : Bool) :
    Kept s (State.endWrite s c im t poison) := by
  unfold State.endWrite
  try extract_lets
  repeat' (first
    | with_reducible exact Kept.refl _ | with_reducible assumption | with_reducible apply Kept.pre (State.pcNext_kept ..)
    | with_reducible apply Kept.pre (State.failWord_kept ..) | with_reducible refine Kept.ite ?_ ?_ | split | extract_lets
    | dsimp -zeta only)

theorem State.storeConverted_kept (s : State) (c : CtxIdx) (im : Sched) (t port : TorIdx) (d : Desc) (qs : List (Nat × QBlock)) :
    Kept s (State.storeConverted s c im t port d qs) := by
  unfold State.storeConverted
  try extract_lets
  repeat' (first
    | with_reducible exact Kept.refl _ | with_reducible assumption | with_reducible apply Kept.pre (State.setCtx_kept ..)
    | with_reducible apply Kept.pre (State.writeBlocks_kept ..)
    | with_reducible refine Kept.trans ?_ (State.writeBlocks_keptP (by with_reducible assumption))
    | with_reducible apply Kept.pre (State.endWrite_kept ..) | extract_lets | dsimp -zeta only)

theorem State.convWord_kept (s : State) (t : TorIdx) (op : Byte) (o : ConvOp) (ecc : EccObs) (port : Desc → TorIdx) (blocks : State → CtxIdx → Sched → TorIdx → ConvOp → Option (List (Nat × QBlock))) :
    Kept s (State.convWord s t op o ecc port blocks) := by
  unfold State.convWord
  try extract_lets
  repeat' (first
    | with_reducible exact Kept.refl _ | with_reducible assumption | with_reducible apply Kept.pre (State.setTor_kept ..)
    | with_reducible apply Kept.pre (State.issueWide_kept _ _ _ _ fun _ _ => ?_)
    | with_reducible apply Kept.pre (State.pcNext_kept ..) | with_reducible apply Kept.pre (State.failWord_kept ..)
    | with_reducible apply Kept.pre (State.stopTor_kept ..) | with_reducible apply Kept.pre (State.failEcc_kept ..)
    | with_reducible apply Kept.pre (State.storeConverted_kept ..) | with_reducible refine Kept.ite ?_ ?_ | split
    | with_reducible refine Kept.upd ?_ rfl rfl rfl rfl rfl rfl rfl rfl | extract_lets | dsimp -zeta only)

theorem State.deqBlock_kept (s : State) (c : CtxIdx) (im : Sched) (desc : Nat) (planes seq : Nat) :
    Kept s (State.deqBlock s c im desc planes seq).2.2 := by
  unfold State.deqBlock
  try dsimp only
  repeat' (first
    | with_reducible exact Kept.refl _ | with_reducible assumption | with_reducible apply Kept.pre (State.readBursts_kept ..)
    | with_reducible refine Kept.trans ?_ (State.readBursts_keptP (by with_reducible assumption))
    | with_reducible refine Kept.ite ?_ ?_ | split | with_reducible refine Kept.upd ?_ rfl rfl rfl rfl rfl rfl rfl rfl
    | dsimp only)

theorem State.deqBlock_keptP {s : State} {c : CtxIdx} {im : Sched} {desc : Nat} {planes : Nat} {seq : Nat} {x z y} (heqn : State.deqBlock s c im desc planes seq = (x, z, y)) :
    Kept s y := by
  have := State.deqBlock_kept s c im desc planes seq
  rwa [heqn] at this

theorem State.deqBlocks_kept (s : State) (c : CtxIdx) (im : Sched) (t : TorIdx) (o : ConvOp) (k : Nat) (k' : Nat) :
    Kept s (State.deqBlocks s c im t o k k').2 := by
  induction k generalizing s c im t o k' with
  | zero => exact Kept.refl _
  | succ n ih =>
    unfold State.deqBlocks
    try extract_lets
    repeat' (first
      | with_reducible exact Kept.refl _ | with_reducible assumption | with_reducible apply Kept.pre (ih ..)
      | with_reducible apply Kept.pre (State.setTor_kept ..) | with_reducible apply Kept.pre (State.statePoison_kept ..)
      | with_reducible apply Kept.pre (State.deqBlock_kept ..)
      | with_reducible refine Kept.trans ?_ (State.deqBlock_keptP (by with_reducible assumption))
      | with_reducible refine Kept.ite ?_ ?_ | split | with_reducible refine Kept.upd ?_ rfl rfl rfl rfl rfl rfl rfl rfl
      | extract_lets | dsimp -zeta only)

theorem State.deqBlocks_keptP {s : State} {c : CtxIdx} {im : Sched} {t : TorIdx} {o : ConvOp} {k : Nat} {k' : Nat} {x y} (heqn : State.deqBlocks s c im t o k k' = (x, y)) :
    Kept s y := by
  have := State.deqBlocks_kept s c im t o k k'
  rwa [heqn] at this

theorem State.queueLoad_kept (s : State) (c : CtxIdx) (t : TorIdx) (stream : Nat) (pre : Bool) :
    Kept s (State.queueLoad s c t stream pre) := by
  unfold State.queueLoad
  try extract_lets
  repeat' (first
    | with_reducible exact Kept.refl _ | with_reducible assumption | with_reducible apply Kept.pre (State.setTor_kept ..)
    | with_reducible apply Kept.pre (State.progress_kept ..) | with_reducible apply Kept.pre (State.leaveCairn_kept ..)
    | with_reducible refine Kept.ite ?_ ?_ | split | with_reducible refine Kept.upd ?_ rfl rfl rfl rfl rfl rfl rfl rfl
    | extract_lets | dsimp -zeta only)

theorem State.drqBlocks_kept (s : State) (t : TorIdx) (d : Desc) (e : StreamEntry) (k : Nat) (k' : Nat) :
    Kept s (State.drqBlocks s t d e k k') := by
  induction k generalizing s t d e k' with
  | zero => exact Kept.refl _
  | succ n ih =>
    unfold State.drqBlocks
    try extract_lets
    repeat' (first
      | with_reducible exact Kept.refl _ | with_reducible assumption | with_reducible apply Kept.pre (ih ..)
      | with_reducible apply Kept.pre (State.portWrite_kept ..) | with_reducible refine Kept.foldl ?_ (fun _ _ _ => ?_)
      | split | with_reducible refine Kept.foldl_snd ?_ (fun _ _ _ => ?_)
      | with_reducible refine Kept.foldl_trd ?_ (fun _ _ _ => ?_) | with_reducible refine Kept.foldl_fst ?_ (fun _ _ _ => ?_)
      | extract_lets | dsimp -zeta only)

theorem State.tileWord_kept (s : State) (t : TorIdx) (conv : Bool) (o : TileOp) : Kept s (State.tileWord s t conv o) := by
  unfold State.tileWord
  try extract_lets
  repeat' (first
    | with_reducible exact Kept.refl _ | with_reducible assumption | with_reducible apply Kept.pre (State.setTor_kept ..)
    | with_reducible apply Kept.pre (State.issueWide_kept _ _ _ _ fun _ _ => ?_)
    | with_reducible apply Kept.pre (State.progress_kept ..) | with_reducible refine Kept.ite ?_ ?_ | split
    | with_reducible refine Kept.upd ?_ rfl rfl rfl rfl rfl rfl rfl rfl | extract_lets | dsimp -zeta only)

theorem State.failWith_kept (s : State) (c : CtxIdx) (im : Sched) (t : TorIdx) (old : Bool) (cs : List (TorIdx × Nat × Nat)) :
    Kept s (State.failWith s c im t old cs) := by
  unfold State.failWith
  try extract_lets
  repeat' (first
    | with_reducible exact Kept.refl _ | with_reducible assumption | with_reducible apply Kept.pre (State.rowFailure_kept ..)
    | with_reducible apply Kept.pre (State.torFailure_kept ..) | with_reducible apply Kept.pre (State.progress_kept ..)
    | with_reducible apply Kept.pre (State.failPass_kept ..) | with_reducible refine Kept.foldl ?_ (fun _ _ _ => ?_) | split
    | with_reducible refine Kept.foldl_snd ?_ (fun _ _ _ => ?_) | with_reducible refine Kept.foldl_trd ?_ (fun _ _ _ => ?_)
    | with_reducible refine Kept.foldl_fst ?_ (fun _ _ _ => ?_)
    | with_reducible refine Kept.upd ?_ rfl rfl rfl rfl rfl rfl rfl rfl | extract_lets | dsimp -zeta only)

theorem State.upsetDelays_kept (s : State) (g : List TorIdx) (cube : Bool) (us : List DelayUpset) :
    Kept s (State.upsetDelays s g cube us) := by
  unfold State.upsetDelays
  try extract_lets
  repeat' (first
    | with_reducible exact Kept.refl _ | with_reducible assumption | with_reducible apply Kept.pre (State.setTor_kept ..)
    | with_reducible refine Kept.foldl ?_ (fun _ _ _ => ?_) | split
    | with_reducible refine Kept.foldl_snd ?_ (fun _ _ _ => ?_) | with_reducible refine Kept.foldl_trd ?_ (fun _ _ _ => ?_)
    | with_reducible refine Kept.foldl_fst ?_ (fun _ _ _ => ?_)
    | with_reducible refine Kept.upd ?_ rfl rfl rfl rfl rfl rfl rfl rfl | extract_lets | dsimp -zeta only)

theorem State.enterPass_kept (s : State) (c : CtxIdx) (im : Sched) (u : TorIdx) : Kept s (State.enterPass s c im u) := by
  unfold State.enterPass
  try extract_lets
  repeat' (first
    | with_reducible exact Kept.refl _ | with_reducible assumption | with_reducible apply Kept.pre (State.setTor_kept ..)
    | with_reducible refine Kept.ite ?_ ?_ | split | with_reducible refine Kept.upd ?_ rfl rfl rfl rfl rfl rfl rfl rfl
    | extract_lets | dsimp -zeta only)

theorem State.drainQueues_kept (s : State) (g : List TorIdx) : Kept s (State.drainQueues s g) := by
  unfold State.drainQueues
  try extract_lets
  repeat' (first
    | with_reducible exact Kept.refl _ | with_reducible assumption | with_reducible apply Kept.pre (State.setTor_kept ..)
    | with_reducible refine Kept.foldl ?_ (fun _ _ _ => ?_) | with_reducible refine Kept.foldl_snd ?_ (fun _ _ _ => ?_)
    | with_reducible refine Kept.foldl_trd ?_ (fun _ _ _ => ?_) | with_reducible refine Kept.foldl_fst ?_ (fun _ _ _ => ?_)
    | with_reducible refine Kept.upd ?_ rfl rfl rfl rfl rfl rfl rfl rfl | extract_lets | dsimp -zeta only)

theorem State.freeze_kept (s : State) (g : List TorIdx) : Kept s (State.freeze s g) := by
  unfold State.freeze
  try extract_lets
  repeat' (first
    | with_reducible exact Kept.refl _ | with_reducible assumption | with_reducible apply Kept.pre (State.setTor_kept ..)
    | with_reducible apply Kept.pre (State.drainQueues_kept ..) | with_reducible refine Kept.foldl ?_ (fun _ _ _ => ?_)
    | with_reducible refine Kept.foldl_snd ?_ (fun _ _ _ => ?_) | with_reducible refine Kept.foldl_trd ?_ (fun _ _ _ => ?_)
    | with_reducible refine Kept.foldl_fst ?_ (fun _ _ _ => ?_)
    | with_reducible refine Kept.upd ?_ rfl rfl rfl rfl rfl rfl rfl rfl | extract_lets | dsimp -zeta only)

theorem State.takeWave_kept (s : State) (w : TorStep) : Kept s (State.takeWave s w) := by
  unfold State.takeWave
  try extract_lets
  repeat' (first
    | with_reducible exact Kept.refl _ | with_reducible assumption | with_reducible apply Kept.pre (State.setTor_kept ..)
    | with_reducible refine Kept.foldl ?_ (fun _ _ _ => ?_) | with_reducible refine Kept.foldl_snd ?_ (fun _ _ _ => ?_)
    | with_reducible refine Kept.foldl_trd ?_ (fun _ _ _ => ?_) | with_reducible refine Kept.foldl_fst ?_ (fun _ _ _ => ?_)
    | with_reducible refine Kept.upd ?_ rfl rfl rfl rfl rfl rfl rfl rfl | extract_lets | dsimp -zeta only)

theorem State.endBadWave_kept (s : State) (c : CtxIdx) (im : Sched) (t : TorIdx) (ws : List TorStep) (old reads : Bool) :
    Kept s (State.endBadWave s c im t ws old reads) := by
  unfold State.endBadWave
  try extract_lets
  repeat' (first
    | with_reducible exact Kept.refl _ | with_reducible assumption | with_reducible apply Kept.pre (State.failWith_kept ..)
    | with_reducible refine Kept.ite ?_ ?_ | split | extract_lets | dsimp -zeta only)

theorem State.enterDrain_kept (s : State) (old : Bool) (counts : Counts) (norm sat : Nat) (w : TorIdx × Pass × Drained) :
    Kept s (State.enterDrain s old counts norm sat w) := by
  unfold State.enterDrain
  try extract_lets
  repeat' (first
    | with_reducible exact Kept.refl _ | with_reducible assumption | with_reducible apply Kept.pre (State.setTor_kept ..)
    | with_reducible refine Kept.ite ?_ ?_ | split | with_reducible refine Kept.upd ?_ rfl rfl rfl rfl rfl rfl rfl rfl
    | extract_lets | dsimp -zeta only)

theorem State.rotateReady_kept (s : State) (c : CtxIdx) (im : Sched) (desc : Nat) (groups : List Nat) :
    Kept s (State.rotateReady s c im desc groups).2 := by
  unfold State.rotateReady
  try dsimp only
  repeat' (first
    | with_reducible exact Kept.refl _ | with_reducible assumption | with_reducible apply Kept.pre (State.setCtx_kept ..)
    | with_reducible apply Kept.pre (State.writeBlocks_kept ..)
    | with_reducible refine Kept.trans ?_ (State.writeBlocks_keptP (by with_reducible assumption))
    | with_reducible refine Kept.ite ?_ ?_ | with_reducible refine Kept.foldl ?_ (fun _ _ _ => ?_) | split
    | with_reducible refine Kept.foldl_snd ?_ (fun _ _ _ => ?_) | with_reducible refine Kept.foldl_trd ?_ (fun _ _ _ => ?_)
    | with_reducible refine Kept.foldl_fst ?_ (fun _ _ _ => ?_)
    | with_reducible refine Kept.upd ?_ rfl rfl rfl rfl rfl rfl rfl rfl | dsimp only)

theorem State.rotateReady_keptP {s : State} {c : CtxIdx} {im : Sched} {desc : Nat} {groups : List Nat} {x y} (heqn : State.rotateReady s c im desc groups = (x, y)) :
    Kept s y := by
  have := State.rotateReady_kept s c im desc groups
  rwa [heqn] at this

theorem State.releaseEntry_kept (s : State) (c : CtxIdx) (im : Sched) (t : TorIdx) (b : DrainBuf) :
    Kept s (State.releaseEntry s c im t b).2 := by
  unfold State.releaseEntry
  try extract_lets
  repeat' (first
    | with_reducible exact Kept.refl _ | with_reducible assumption | with_reducible apply Kept.pre (State.setTor_kept ..)
    | with_reducible apply Kept.pre (State.setCtx_kept ..) | with_reducible apply Kept.pre (State.writeBlocks_kept ..)
    | with_reducible refine Kept.trans ?_ (State.writeBlocks_keptP (by with_reducible assumption))
    | with_reducible apply Kept.pre (State.rotateReady_kept ..)
    | with_reducible refine Kept.trans ?_ (State.rotateReady_keptP (by with_reducible assumption))
    | with_reducible refine Kept.ite ?_ ?_ | with_reducible refine Kept.foldl ?_ (fun _ _ _ => ?_) | split
    | with_reducible refine Kept.foldl_snd ?_ (fun _ _ _ => ?_) | with_reducible refine Kept.foldl_trd ?_ (fun _ _ _ => ?_)
    | with_reducible refine Kept.foldl_fst ?_ (fun _ _ _ => ?_)
    | with_reducible refine Kept.upd ?_ rfl rfl rfl rfl rfl rfl rfl rfl | extract_lets | dsimp -zeta only)

theorem State.releaseEntry_keptP {s : State} {c : CtxIdx} {im : Sched} {t : TorIdx} {b : DrainBuf} {x y} (heqn : State.releaseEntry s c im t b = (x, y)) :
    Kept s y := by
  have := State.releaseEntry_kept s c im t b
  rwa [heqn] at this

theorem State.failTile_kept (s : State) (c : CtxIdx) (im : Sched) (t : TorIdx) (tile : Nat) :
    Kept s (State.failTile s c im t tile) := by
  unfold State.failTile
  try extract_lets
  repeat' (first
    | with_reducible exact Kept.refl _ | with_reducible assumption | with_reducible apply Kept.pre (State.setTor_kept ..)
    | with_reducible apply Kept.pre (State.setCtx_kept ..) | with_reducible apply Kept.pre (State.failItem_kept ..)
    | with_reducible refine Kept.ite ?_ ?_ | split | with_reducible refine Kept.upd ?_ rfl rfl rfl rfl rfl rfl rfl rfl
    | extract_lets | dsimp -zeta only)

end Sys2Proof.Machine
end

