-- ==== Sys2Proof/Laws/KeptContexts.lean ====
section
/-! SUPPORT. What the shared operations keep (Laws/Kept): residues, images, contexts and their feed rings. -/

namespace Sys2Proof.Machine
open Sys2Proof

theorem State.flbAdd_kept (s : State) (noWider jumps rung1 rung2 : Nat) : Kept s (State.flbAdd s noWider jumps rung1 rung2) := by
  unfold State.flbAdd
  try extract_lets
  repeat' (first
    | with_reducible exact Kept.refl _ | with_reducible assumption
    | with_reducible refine Kept.upd ?_ rfl rfl rfl rfl rfl rfl rfl rfl | extract_lets | dsimp -zeta only)

theorem State.reportNoWider_kept (s : State) (c : CtxIdx) (t : TorIdx) (n : Nat) : Kept s (State.reportNoWider s c t n) := by
  unfold State.reportNoWider
  try extract_lets
  repeat' (first
    | with_reducible exact Kept.refl _ | with_reducible assumption | with_reducible apply Kept.pre (State.setCtx_kept ..)
    | with_reducible apply Kept.pre (State.flbAdd_kept ..) | with_reducible refine Kept.ite ?_ ?_ | split
    | with_reducible refine Kept.upd ?_ rfl rfl rfl rfl rfl rfl rfl rfl | extract_lets | dsimp -zeta only)

theorem State.altBefore_kept (s : State) (c : CtxIdx) (im : Sched) (t : TorIdx) (tile skip : Nat) :
    Kept s (State.altBefore s c im t tile skip) := by
  unfold State.altBefore
  extract_lets r x n p r' l e storm want entry
  split
  · exact State.setTor_kept ..
  · clear_value entry
    cases entry with
    | some a =>
      exact (((State.setCtx_kept ..).trans (State.dropLoads_kept ..)).trans (State.setTor_kept ..)).trans (State.progress_kept ..)
    | none =>
      exact Kept.ite ((State.setCtx_kept ..).trans (State.setTor_kept ..))
        (((State.setCtx_kept ..).trans (State.setTor_kept ..)).trans (State.reportNoWider_kept ..))

theorem State.altAfter_kept (s : State) (c : CtxIdx) (im : Sched) (t : TorIdx) (tile : Nat) :
    Kept s (State.altAfter s c im t tile) := by
  unfold State.altAfter
  try extract_lets
  repeat' (first
    | with_reducible exact Kept.refl _ | with_reducible assumption | with_reducible apply Kept.pre (State.setTor_kept ..)
    | with_reducible apply Kept.pre (State.pcNext_kept ..) | with_reducible apply Kept.pre (State.reportNoWider_kept ..)
    | with_reducible refine Kept.ite ?_ ?_ | split | with_reducible refine Kept.upd ?_ rfl rfl rfl rfl rfl rfl rfl rfl
    | extract_lets | dsimp -zeta only)

theorem State.takeReport_kept (s : State) (r : CtxIdx × Nat × Nat × CeilReport) : Kept s (State.takeReport s r) := by
  unfold State.takeReport
  try extract_lets
  repeat' (first
    | with_reducible exact Kept.refl _ | with_reducible assumption | with_reducible apply Kept.pre (State.setCtx_kept ..)
    | with_reducible apply Kept.pre (State.runSettle_kept ..)
    | with_reducible refine Kept.upd ?_ rfl rfl rfl rfl rfl rfl rfl rfl | extract_lets | dsimp -zeta only)

theorem State.prefetchPlanes_kept (s : State) (c : CtxIdx) (im : Sched) (p : Nat) : Kept s (State.prefetchPlanes s c im p) := by
  unfold State.prefetchPlanes
  refine Kept.foldl (Kept.upd (Kept.refl s) rfl rfl rfl rfl rfl rfl rfl rfl) fun _ _ h => ?_
  exact Kept.foldl h fun _ _ h => h.trans (State.fetchPlanes_kept ..)

theorem State.shapeChanged_kept (s : State) : Kept s (State.shapeChanged s) := by
  unfold State.shapeChanged
  try extract_lets
  repeat' (first
    | with_reducible exact Kept.refl _ | with_reducible assumption
    | with_reducible refine Kept.upd ?_ rfl rfl rfl rfl rfl rfl rfl rfl | extract_lets | dsimp -zeta only)

theorem State.mapOutTor_kept (s : State) (t : TorIdx) : Kept s (State.mapOutTor s t) := by
  unfold State.mapOutTor
  try extract_lets
  repeat' (first
    | with_reducible exact Kept.refl _ | with_reducible assumption | with_reducible apply Kept.pre (State.setTor_kept ..)
    | with_reducible apply Kept.pre (State.shapeChanged_kept ..) | with_reducible refine Kept.ite ?_ ?_ | split
    | with_reducible refine Kept.upd ?_ rfl rfl rfl rfl rfl rfl rfl rfl | extract_lets | dsimp -zeta only)

theorem State.mapOutRow_kept (s : State) (t : TorIdx) (p : Nat) (source : BitVec 2) : Kept s (State.mapOutRow s t p source) := by
  unfold State.mapOutRow
  try extract_lets
  repeat' (first
    | with_reducible exact Kept.refl _ | with_reducible assumption | with_reducible apply Kept.pre (State.setTor_kept ..)
    | with_reducible apply Kept.pre (State.shapeChanged_kept ..) | with_reducible apply Kept.pre (State.mapOutTor_kept ..)
    | with_reducible refine Kept.ite ?_ ?_ | split | with_reducible refine Kept.upd ?_ rfl rfl rfl rfl rfl rfl rfl rfl
    | extract_lets | dsimp -zeta only)

theorem State.applyStaged_kept (s : State) (t : TorIdx) : Kept s (State.applyStaged s t) := by
  unfold State.applyStaged
  try extract_lets
  repeat' (first
    | with_reducible exact Kept.refl _ | with_reducible assumption | with_reducible apply Kept.pre (State.mapOutTor_kept ..)
    | with_reducible apply Kept.pre (State.mapOutRow_kept ..) | with_reducible refine Kept.ite ?_ ?_ | split | extract_lets
    | dsimp -zeta only)

theorem State.applyRepairs_kept (s : State) : Kept s (State.applyRepairs s) := by
  unfold State.applyRepairs
  try extract_lets
  repeat' (first
    | with_reducible exact Kept.refl _ | with_reducible assumption
    | with_reducible apply Kept.pre (State.applyStaged_kept ..) | with_reducible refine Kept.foldl ?_ (fun _ _ _ => ?_)
    | with_reducible refine Kept.foldl_snd ?_ (fun _ _ _ => ?_) | with_reducible refine Kept.foldl_trd ?_ (fun _ _ _ => ?_)
    | with_reducible refine Kept.foldl_fst ?_ (fun _ _ _ => ?_) | extract_lets | dsimp -zeta only)

theorem State.applyRepairSection_kept (s : State) (w : Wihorn) : Kept s (State.applyRepairSection s w) := by
  unfold State.applyRepairSection
  try extract_lets
  repeat' (first
    | with_reducible exact Kept.refl _ | with_reducible assumption | with_reducible apply Kept.pre (State.setTor_kept ..)
    | with_reducible apply Kept.pre (State.raise_kept ..) | with_reducible apply Kept.pre (State.mapOutRow_kept ..)
    | with_reducible refine Kept.ite ?_ ?_ | with_reducible refine Kept.foldl ?_ (fun _ _ _ => ?_) | split
    | with_reducible refine Kept.foldl_snd ?_ (fun _ _ _ => ?_) | with_reducible refine Kept.foldl_trd ?_ (fun _ _ _ => ?_)
    | with_reducible refine Kept.foldl_fst ?_ (fun _ _ _ => ?_)
    | with_reducible refine Kept.upd ?_ rfl rfl rfl rfl rfl rfl rfl rfl | extract_lets | dsimp -zeta only)

theorem State.refreshLinks_kept (s : State) : Kept s (State.refreshLinks s) := by
  unfold State.refreshLinks
  try extract_lets
  repeat' (first
    | with_reducible exact Kept.refl _ | with_reducible assumption
    | with_reducible apply Kept.pre (State.shapeChanged_kept ..) | with_reducible refine Kept.ite ?_ ?_ | split
    | with_reducible refine Kept.upd ?_ rfl rfl rfl rfl rfl rfl rfl rfl | extract_lets | dsimp -zeta only)

theorem State.refreshIfIdle_kept (s : State) : Kept s (State.refreshIfIdle s) := by
  unfold State.refreshIfIdle
  try extract_lets
  repeat' (first
    | with_reducible exact Kept.refl _ | with_reducible assumption
    | with_reducible apply Kept.pre (State.refreshLinks_kept ..) | with_reducible refine Kept.ite ?_ ?_ | split
    | extract_lets | dsimp -zeta only)

theorem State.declareContexts_kept (s : State) : Kept s (State.declareContexts s) := by
  unfold State.declareContexts
  try extract_lets
  repeat' (first
    | with_reducible exact Kept.refl _ | with_reducible assumption | with_reducible apply Kept.pre (State.setCtx_kept ..)
    | with_reducible refine Kept.ite ?_ ?_ | with_reducible refine Kept.foldl ?_ (fun _ _ _ => ?_) | split
    | with_reducible refine Kept.foldl_snd ?_ (fun _ _ _ => ?_) | with_reducible refine Kept.foldl_trd ?_ (fun _ _ _ => ?_)
    | with_reducible refine Kept.foldl_fst ?_ (fun _ _ _ => ?_)
    | with_reducible refine Kept.upd ?_ rfl rfl rfl rfl rfl rfl rfl rfl | extract_lets | dsimp -zeta only)

theorem State.noteLostTors_kept (s o : State) (w : Wihorn) : Kept s (State.noteLostTors s o w) := by
  unfold State.noteLostTors
  try extract_lets
  repeat' (first
    | with_reducible exact Kept.refl _ | with_reducible assumption | with_reducible apply Kept.pre (State.raise_kept ..)
    | with_reducible apply Kept.pre (State.sendWithdraw_kept ..) | with_reducible refine Kept.ite ?_ ?_ | split
    | extract_lets | dsimp -zeta only)

theorem State.applyWihorn_kept (s : State) (w : Wihorn) (source : BitVec 2) : Kept s (State.applyWihorn s w source) := by
  unfold State.applyWihorn
  try extract_lets
  repeat' (first
    | with_reducible exact Kept.refl _ | with_reducible assumption
    | with_reducible apply Kept.pre (State.shapeChanged_kept ..)
    | with_reducible apply Kept.pre (State.applyRepairSection_kept ..)
    | with_reducible apply Kept.pre (State.declareContexts_kept ..)
    | with_reducible apply Kept.pre (State.noteLostTors_kept ..) | with_reducible refine Kept.ite ?_ ?_ | split
    | with_reducible refine Kept.upd ?_ rfl rfl rfl rfl rfl rfl rfl rfl | extract_lets | dsimp -zeta only)

theorem State.reportRefusal_kept (s : State) (cause sect : Nat) : Kept s (State.reportRefusal s cause sect) := by
  unfold State.reportRefusal
  try extract_lets
  repeat' (first
    | with_reducible exact Kept.refl _ | with_reducible assumption
    | with_reducible refine Kept.upd ?_ rfl rfl rfl rfl rfl rfl rfl rfl | extract_lets | dsimp -zeta only)

theorem State.refuseImage_kept (s : State) (cause sect : Nat) : Kept s (State.refuseImage s cause sect) := by
  unfold State.refuseImage
  try extract_lets
  repeat' (first
    | with_reducible exact Kept.refl _ | with_reducible assumption
    | with_reducible apply Kept.pre (State.reportRefusal_kept ..)
    | with_reducible refine Kept.upd ?_ rfl rfl rfl rfl rfl rfl rfl rfl | extract_lets | dsimp -zeta only)

theorem State.switchover_kept (s : State) : Kept s (State.switchover s) := by
  unfold State.switchover
  try extract_lets
  repeat' (first
    | with_reducible exact Kept.refl _ | with_reducible assumption
    | with_reducible apply Kept.pre (State.applyWihorn_kept ..) | with_reducible apply Kept.pre (State.refuseImage_kept ..)
    | with_reducible refine Kept.ite ?_ ?_ | split | with_reducible refine Kept.upd ?_ rfl rfl rfl rfl rfl rfl rfl rfl
    | extract_lets | dsimp -zeta only)

theorem State.switchIfIdle_kept (s : State) : Kept s (State.switchIfIdle s) := by
  unfold State.switchIfIdle
  try extract_lets
  repeat' (first
    | with_reducible exact Kept.refl _ | with_reducible assumption | with_reducible apply Kept.pre (State.switchover_kept ..)
    | with_reducible refine Kept.ite ?_ ?_ | split | extract_lets | dsimp -zeta only)

theorem State.onIdle_kept (s : State) : Kept s (State.onIdle s) := by
  unfold State.onIdle
  try extract_lets
  repeat' (first
    | with_reducible exact Kept.refl _ | with_reducible assumption
    | with_reducible apply Kept.pre (State.returnPorts_kept ..) | with_reducible apply Kept.pre (State.applyRepairs_kept ..)
    | with_reducible apply Kept.pre (State.refreshLinks_kept ..) | with_reducible apply Kept.pre (State.switchIfIdle_kept ..)
    | with_reducible refine Kept.ite ?_ ?_ | split | extract_lets | dsimp -zeta only)

theorem State.stageImage_kept (s : State) : Kept s (State.stageImage s) := by
  unfold State.stageImage
  try extract_lets
  repeat' (first
    | with_reducible exact Kept.refl _ | with_reducible assumption | with_reducible apply Kept.pre (State.readBursts_kept ..)
    | with_reducible refine Kept.trans ?_ (State.readBursts_keptP (by with_reducible assumption))
    | with_reducible apply Kept.pre (State.refuseImage_kept ..) | with_reducible refine Kept.ite ?_ ?_ | split
    | with_reducible refine Kept.upd ?_ rfl rfl rfl rfl rfl rfl rfl rfl | extract_lets | dsimp -zeta only)

theorem State.discardImage_kept (s : State) : Kept s (State.discardImage s) := by
  unfold State.discardImage
  try extract_lets
  repeat' (first
    | with_reducible exact Kept.refl _ | with_reducible assumption | with_reducible refine Kept.ite ?_ ?_ | split
    | with_reducible refine Kept.upd ?_ rfl rfl rfl rfl rfl rfl rfl rfl | extract_lets | dsimp -zeta only)

theorem State.readBytes_kept (s : State) (source a n : Nat) :
    Kept s (State.readBytes s source a n).2.1 := by
  unfold State.readBytes
  try extract_lets
  repeat' (first
    | with_reducible exact Kept.refl _ | with_reducible assumption | with_reducible apply Kept.pre (State.readBursts_kept ..)
    | with_reducible refine Kept.trans ?_ (State.readBursts_keptP (by with_reducible assumption)) | extract_lets
    | dsimp -zeta only)

theorem State.readBytes_keptP {s : State} {source : Nat} {a : Nat} {n : Nat} {x y z} (heqn : State.readBytes s source a n = (x, y, z)) :
    Kept s y := by
  have := State.readBytes_kept s source a n
  rwa [heqn] at this

theorem State.writeBytes_kept (s : State) (a : Nat) (bs : List Byte) : Kept s (State.writeBytes s a bs) := by
  unfold State.writeBytes
  try extract_lets
  repeat' (first
    | with_reducible exact Kept.refl _ | with_reducible assumption | with_reducible apply Kept.pre (State.writeBurst_kept ..)
    | with_reducible refine Kept.ite ?_ ?_ | with_reducible refine Kept.foldl ?_ (fun _ _ _ => ?_) | split
    | with_reducible refine Kept.foldl_snd ?_ (fun _ _ _ => ?_) | with_reducible refine Kept.foldl_trd ?_ (fun _ _ _ => ?_)
    | with_reducible refine Kept.foldl_fst ?_ (fun _ _ _ => ?_) | extract_lets | dsimp -zeta only)

theorem State.hostBlocked_kept (s : State) : Kept s (State.hostBlocked s) := by
  unfold State.hostBlocked
  try extract_lets
  repeat' (first
    | with_reducible exact Kept.refl _ | with_reducible assumption
    | with_reducible apply Kept.pre (State.raiseBlocked_kept ..)
    | with_reducible refine Kept.upd ?_ rfl rfl rfl rfl rfl rfl rfl rfl | extract_lets | dsimp -zeta only)

theorem State.flushCpl_kept (k : Nat) (s : State) (c : CtxIdx) : Kept s (State.flushCpl k s c) := by
  induction k generalizing s c with
  | zero => exact Kept.refl _
  | succ n ih =>
    unfold State.flushCpl
    try extract_lets
    repeat' (first
      | with_reducible exact Kept.refl _ | with_reducible assumption | with_reducible apply Kept.pre (ih ..)
      | with_reducible apply Kept.pre (State.emit_kept ..) | with_reducible apply Kept.pre (State.setCtx_kept ..)
      | with_reducible apply Kept.pre (State.hostBlocked_kept ..) | with_reducible refine Kept.ite ?_ ?_ | split
      | with_reducible refine Kept.upd ?_ rfl rfl rfl rfl rfl rfl rfl rfl | extract_lets | dsimp -zeta only)

theorem State.flush_kept (s : State) (c : CtxIdx) : Kept s (State.flush s c) := by
  unfold State.flush
  try extract_lets
  repeat' (first
    | with_reducible exact Kept.refl _ | with_reducible assumption | with_reducible apply Kept.pre (State.flushCpl_kept ..)
    | extract_lets | dsimp -zeta only)

theorem State.post_kept (s : State) (c : CtxIdx) (r : CplRecord) : Kept s (State.post s c r) := by
  unfold State.post
  try extract_lets
  repeat' (first
    | with_reducible exact Kept.refl _ | with_reducible assumption | with_reducible apply Kept.pre (State.setCtx_kept ..)
    | with_reducible apply Kept.pre (State.flush_kept ..) | with_reducible refine Kept.ite ?_ ?_ | split
    | with_reducible refine Kept.upd ?_ rfl rfl rfl rfl rfl rfl rfl rfl | extract_lets | dsimp -zeta only)

theorem State.readLine_kept (s : State) (c : CtxIdx) : Kept s (State.readLine s c) := by
  unfold State.readLine
  try extract_lets
  repeat' (first
    | with_reducible exact Kept.refl _ | with_reducible assumption | with_reducible apply Kept.pre (State.emit_kept ..)
    | with_reducible apply Kept.pre (State.setCtx_kept ..) | with_reducible apply Kept.pre (State.hostBlocked_kept ..)
    | with_reducible refine Kept.ite ?_ ?_ | split | with_reducible refine Kept.upd ?_ rfl rfl rfl rfl rfl rfl rfl rfl
    | extract_lets | dsimp -zeta only)

theorem State.writeConsumer_kept (s : State) (c : CtxIdx) : Kept s (State.writeConsumer s c) := by
  unfold State.writeConsumer
  try extract_lets
  repeat' (first
    | with_reducible exact Kept.refl _ | with_reducible assumption | with_reducible apply Kept.pre (State.emit_kept ..)
    | with_reducible apply Kept.pre (State.setCtx_kept ..) | with_reducible apply Kept.pre (State.hostBlocked_kept ..)
    | with_reducible refine Kept.ite ?_ ?_ | split | with_reducible refine Kept.upd ?_ rfl rfl rfl rfl rfl rfl rfl rfl
    | extract_lets | dsimp -zeta only)

theorem State.consume_kept (s : State) (c : CtxIdx) : Kept s (State.consume s c) := by
  unfold State.consume
  try extract_lets
  repeat' (first
    | with_reducible exact Kept.refl _ | with_reducible assumption | with_reducible apply Kept.pre (State.setCtx_kept ..)
    | with_reducible apply Kept.pre (State.writeConsumer_kept ..)
    | with_reducible refine Kept.upd ?_ rfl rfl rfl rfl rfl rfl rfl rfl | extract_lets | dsimp -zeta only)

theorem State.endEntry_kept (s : State) (c : CtxIdx) (e : FeedEntry) (status cause : Nat) (detail : Word) :
    Kept s (State.endEntry s c e status cause detail) := by
  unfold State.endEntry
  try extract_lets
  repeat' (first
    | with_reducible exact Kept.refl _ | with_reducible assumption | with_reducible apply Kept.pre (State.post_kept ..)
    | extract_lets | dsimp -zeta only)

theorem State.refuseEntry_kept (s : State) (c : CtxIdx) (e : FeedEntry) (cause : Nat) :
    Kept s (State.refuseEntry s c e cause) := by
  unfold State.refuseEntry
  try extract_lets
  repeat' (first
    | with_reducible exact Kept.refl _ | with_reducible assumption | with_reducible apply Kept.pre (State.consume_kept ..)
    | with_reducible apply Kept.pre (State.endEntry_kept ..) | extract_lets | dsimp -zeta only)

theorem State.dropUnknown_kept (k : Nat) (s : State) (c : CtxIdx) : Kept s (State.dropUnknown k s c) := by
  induction k generalizing s c with
  | zero => exact Kept.refl _
  | succ n ih =>
    unfold State.dropUnknown
    try extract_lets
    repeat' (first
      | with_reducible exact Kept.refl _ | with_reducible assumption | with_reducible apply Kept.pre (ih ..)
      | with_reducible apply Kept.pre (State.refuseEntry_kept ..) | with_reducible refine Kept.ite ?_ ?_ | split
      | with_reducible refine Kept.upd ?_ rfl rfl rfl rfl rfl rfl rfl rfl | extract_lets | dsimp -zeta only)

theorem State.scanRing_kept (s : State) (c : CtxIdx) : Kept s (State.scanRing s c) := by
  unfold State.scanRing
  try extract_lets
  repeat' (first
    | with_reducible exact Kept.refl _ | with_reducible assumption
    | with_reducible apply Kept.pre (State.dropUnknown_kept ..) | extract_lets | dsimp -zeta only)

theorem State.storeSwb_kept (s : State) (c : CtxIdx) : Kept s (State.storeSwb s c) := by
  unfold State.storeSwb
  try extract_lets
  repeat' (first
    | with_reducible exact Kept.refl _ | with_reducible assumption | with_reducible apply Kept.pre (State.writeBytes_kept ..)
    | split | with_reducible refine Kept.upd ?_ rfl rfl rfl rfl rfl rfl rfl rfl | extract_lets | dsimp -zeta only)

theorem State.readUntil_kept (s : State) (source : Nat) (l : List Nat) :
    Kept s (State.readUntil s source l).2.1 := by
  induction l generalizing s source with
  | nil => exact Kept.refl _
  | cons x l ih =>
    unfold State.readUntil
    try extract_lets
    repeat' (first
      | with_reducible exact Kept.refl _ | with_reducible assumption | with_reducible apply Kept.pre (ih ..)
      | with_reducible apply Kept.pre (State.moduleRead_kept ..)
      | with_reducible refine Kept.trans ?_ (State.moduleRead_keptP (by with_reducible assumption)) | split
      | with_reducible refine Kept.upd ?_ rfl rfl rfl rfl rfl rfl rfl rfl | extract_lets | dsimp -zeta only)

theorem State.readUntil_keptP {s : State} {source : Nat} {l : List Nat} {x y z} (heqn : State.readUntil s source l = (x, y, z)) :
    Kept s y := by
  have := State.readUntil_kept s source l
  rwa [heqn] at this

theorem State.snapshot_kept (s : State) (c : CtxIdx) (im : Sched) :
    Kept s (State.snapshot s c im).2 := by
  unfold State.snapshot
  try extract_lets
  repeat' (first
    | with_reducible exact Kept.refl _ | with_reducible assumption | with_reducible apply Kept.pre (State.readUntil_kept ..)
    | with_reducible refine Kept.trans ?_ (State.readUntil_keptP (by with_reducible assumption))
    | with_reducible refine Kept.ite ?_ ?_ | split | with_reducible refine Kept.upd ?_ rfl rfl rfl rfl rfl rfl rfl rfl
    | extract_lets | dsimp -zeta only)

theorem State.snapshot_keptP {s : State} {c : CtxIdx} {im : Sched} {x y} (heqn : State.snapshot s c im = (x, y)) :
    Kept s y := by
  have := State.snapshot_kept s c im
  rwa [heqn] at this

theorem State.scrambleState_kept (s : State) (c : CtxIdx) (im : Sched) : Kept s (State.scrambleState s c im) := by
  unfold State.scrambleState
  try extract_lets
  repeat' (first
    | with_reducible exact Kept.refl _ | with_reducible assumption | with_reducible apply Kept.pre (State.takeFree_kept ..)
    | with_reducible refine Kept.trans ?_ (State.takeFree_keptP (by with_reducible assumption))
    | with_reducible apply Kept.pre (State.setCtx_kept ..) | with_reducible apply Kept.pre (State.writeBurst_kept ..)
    | with_reducible refine Kept.foldl ?_ (fun _ _ _ => ?_) | with_reducible refine Kept.foldl_snd ?_ (fun _ _ _ => ?_)
    | with_reducible refine Kept.foldl_trd ?_ (fun _ _ _ => ?_) | with_reducible refine Kept.foldl_fst ?_ (fun _ _ _ => ?_)
    | with_reducible refine Kept.upd ?_ rfl rfl rfl rfl rfl rfl rfl rfl | extract_lets | dsimp -zeta only)

theorem State.mergeOrPoison_kept (s : State) (b w : Nat) (words : List (BitVec 32)) :
    Kept s (State.mergeOrPoison s b w words) := by
  unfold State.mergeOrPoison
  try extract_lets
  repeat' (first
    | with_reducible exact Kept.refl _ | with_reducible assumption
    | with_reducible apply Kept.pre (State.statePoison_kept ..) | with_reducible apply Kept.pre (State.mergeSlot_kept ..)
    | with_reducible refine Kept.trans ?_ (State.mergeSlot_keptP (by with_reducible assumption)) | split
    | with_reducible refine Kept.upd ?_ rfl rfl rfl rfl rfl rfl rfl rfl | extract_lets | dsimp -zeta only)

theorem State.setStamps_kept (s : State) (c : CtxIdx) (p : ParamEntry) (seq st0 st1 : Nat) :
    Kept s (State.setStamps s c p seq st0 st1) := by
  unfold State.setStamps
  try extract_lets
  repeat' (first
    | with_reducible exact Kept.refl _ | with_reducible assumption | with_reducible apply Kept.pre (State.setCtx_kept ..)
    | with_reducible apply Kept.pre (State.mergeOrPoison_kept ..)
    | with_reducible refine Kept.upd ?_ rfl rfl rfl rfl rfl rfl rfl rfl | extract_lets | dsimp -zeta only)

theorem State.initRecords_kept (s : State) (im : Sched) : Kept s (State.initRecords s im) := by
  unfold State.initRecords
  try extract_lets
  repeat' (first
    | with_reducible exact Kept.refl _ | with_reducible assumption | with_reducible apply Kept.pre (State.takeFree_kept ..)
    | with_reducible refine Kept.trans ?_ (State.takeFree_keptP (by with_reducible assumption))
    | with_reducible apply Kept.pre (State.writeBurst_kept ..) | with_reducible refine Kept.ite ?_ ?_
    | with_reducible refine Kept.foldl ?_ (fun _ _ _ => ?_) | split
    | with_reducible refine Kept.foldl_snd ?_ (fun _ _ _ => ?_) | with_reducible refine Kept.foldl_trd ?_ (fun _ _ _ => ?_)
    | with_reducible refine Kept.foldl_fst ?_ (fun _ _ _ => ?_) | extract_lets | dsimp -zeta only)

theorem State.requantRestored_kept (s : State) (c : CtxIdx) (im : Sched) (i g : Nat) :
    Kept s (State.requantRestored s c im i g) := by
  unfold State.requantRestored
  try extract_lets
  repeat' (first
    | with_reducible exact Kept.refl _ | with_reducible assumption | with_reducible apply Kept.pre (State.setCtx_kept ..)
    | with_reducible apply Kept.pre (State.writeQuant_kept ..) | with_reducible refine Kept.ite ?_ ?_
    | with_reducible refine Kept.foldl ?_ (fun _ _ _ => ?_) | split
    | with_reducible refine Kept.foldl_snd ?_ (fun _ _ _ => ?_) | with_reducible refine Kept.foldl_trd ?_ (fun _ _ _ => ?_)
    | with_reducible refine Kept.foldl_fst ?_ (fun _ _ _ => ?_)
    | with_reducible refine Kept.upd ?_ rfl rfl rfl rfl rfl rfl rfl rfl | extract_lets | dsimp -zeta only)

theorem State.writeCkptBlock_kept (s : State) (a o : Nat) (body : List Byte) : Kept s (State.writeCkptBlock s a o body) := by
  unfold State.writeCkptBlock
  try extract_lets
  repeat' (first
    | with_reducible exact Kept.refl _ | with_reducible assumption
    | with_reducible apply Kept.pre (State.writeBursts_kept ..) | extract_lets | dsimp -zeta only)

theorem State.writeCkptBlocks_kept (s : State) (im : Sched) (body : List Byte) (o : Nat) (blocks : List (Nat × Nat)) :
    Kept s (State.writeCkptBlocks s im body o blocks).1 := by
  unfold State.writeCkptBlocks
  refine Kept.foldl_fst (Kept.refl s) ?_
  intro a b ha
  with_reducible apply Kept.foldl_fst ha
  intro a b ha
  dsimp only
  exact ha.trans (State.writeCkptBlock_kept ..)

theorem State.writeCkptBlocks_keptP {s : State} {im : Sched} {body : List Byte} {o : Nat} {blocks : List (Nat × Nat)} {x y}
    (h : State.writeCkptBlocks s im body o blocks = (y, x)) : Kept s y := by
  have := State.writeCkptBlocks_kept s im body o blocks
  rwa [h] at this

theorem State.writeCkptStamps_kept (s : State) (c : CtxIdx) (im : Sched) (body : List Byte) (o : Nat) (blocks : List (Nat × Nat)) :
    Kept s (State.writeCkptStamps s c im body o blocks).1 := by
  unfold State.writeCkptStamps
  refine Kept.foldl_fst (Kept.refl s) fun a b ha => ?_
  exact ha.trans (State.setStamps_kept ..)

theorem State.writeCkptStamps_keptP {s : State} {c : CtxIdx} {im : Sched} {body : List Byte} {o : Nat} {blocks : List (Nat × Nat)} {x y}
    (h : State.writeCkptStamps s c im body o blocks = (y, x)) : Kept s y := by
  have := State.writeCkptStamps_kept s c im body o blocks
  rwa [h] at this

theorem State.applyCkpt_kept (s : State) (c : CtxIdx) (im : Sched) (head body : List Byte) :
    Kept s (State.applyCkpt s c im head body) := by
  unfold State.applyCkpt
  try extract_lets
  repeat' (first
    | with_reducible exact Kept.refl _ | with_reducible assumption | with_reducible apply Kept.pre (State.setCtx_kept ..)
    | with_reducible apply Kept.pre (State.storeSwb_kept ..) | with_reducible apply Kept.pre (State.requantRestored_kept ..)
    | with_reducible apply Kept.pre (State.writeCkptBlocks_kept ..)
    | with_reducible refine Kept.trans ?_ (State.writeCkptBlocks_keptP (by with_reducible assumption))
    | with_reducible apply Kept.pre (State.writeCkptStamps_kept ..)
    | with_reducible refine Kept.trans ?_ (State.writeCkptStamps_keptP (by with_reducible assumption))
    | with_reducible refine Kept.foldl ?_ (fun _ _ _ => ?_) | with_reducible refine Kept.foldl_snd ?_ (fun _ _ _ => ?_)
    | with_reducible refine Kept.foldl_trd ?_ (fun _ _ _ => ?_) | with_reducible refine Kept.foldl_fst ?_ (fun _ _ _ => ?_)
    | with_reducible refine Kept.upd ?_ rfl rfl rfl rfl rfl rfl rfl rfl | extract_lets | dsimp -zeta only)

theorem State.tellBelay_kept (s : State) (c : CtxIdx) (p : Nat) (m : BelayMsg) : Kept s (State.tellBelay s c p m) := by
  unfold State.tellBelay
  try extract_lets
  repeat' (first
    | with_reducible exact Kept.refl _ | with_reducible assumption | with_reducible apply Kept.pre (State.tell_kept ..)
    | extract_lets | dsimp -zeta only)

theorem State.sendBelay_kept (s : State) (c : CtxIdx) (im : Sched) (b : Belay) : Kept s (State.sendBelay s c im b) := by
  unfold State.sendBelay
  try extract_lets
  repeat' (first
    | with_reducible exact Kept.refl _ | with_reducible assumption | with_reducible apply Kept.pre (State.failItem_kept ..)
    | with_reducible apply Kept.pre (State.readBytes_kept ..)
    | with_reducible refine Kept.trans ?_ (State.readBytes_keptP (by with_reducible assumption))
    | with_reducible apply Kept.pre (State.tellBelay_kept ..) | with_reducible refine Kept.ite ?_ ?_ | split
    | with_reducible refine Kept.upd ?_ rfl rfl rfl rfl rfl rfl rfl rfl | extract_lets | dsimp -zeta only)

theorem State.sendCopy_kept (s : State) (c : CtxIdx) (im : Sched) (v : Nat) : Kept s (State.sendCopy s c im v) := by
  unfold State.sendCopy
  try extract_lets
  repeat' (first
    | with_reducible exact Kept.refl _ | with_reducible assumption | with_reducible apply Kept.pre (State.tell_kept ..)
    | with_reducible apply Kept.pre (State.statePoison_kept ..) | with_reducible apply Kept.pre (State.readBursts_kept ..)
    | with_reducible refine Kept.trans ?_ (State.readBursts_keptP (by with_reducible assumption))
    | with_reducible refine Kept.ite ?_ ?_ | with_reducible refine Kept.foldl ?_ (fun _ _ _ => ?_) | split
    | with_reducible refine Kept.foldl_snd ?_ (fun _ _ _ => ?_) | with_reducible refine Kept.foldl_trd ?_ (fun _ _ _ => ?_)
    | with_reducible refine Kept.foldl_fst ?_ (fun _ _ _ => ?_)
    | with_reducible refine Kept.upd ?_ rfl rfl rfl rfl rfl rfl rfl rfl | extract_lets | dsimp -zeta only)

theorem State.sendAlone_kept (s : State) (c : CtxIdx) (im : Sched) (vs : List Nat) : Kept s (State.sendAlone s c im vs) := by
  unfold State.sendAlone
  try extract_lets
  repeat' (first
    | with_reducible exact Kept.refl _ | with_reducible assumption | with_reducible apply Kept.pre (State.tellBelay_kept ..)
    | with_reducible refine Kept.foldl ?_ (fun _ _ _ => ?_) | with_reducible refine Kept.foldl_snd ?_ (fun _ _ _ => ?_)
    | with_reducible refine Kept.foldl_trd ?_ (fun _ _ _ => ?_) | with_reducible refine Kept.foldl_fst ?_ (fun _ _ _ => ?_)
    | extract_lets | dsimp -zeta only)

theorem State.reportLoaded_kept (s : State) (c : CtxIdx) (im : Sched) : Kept s (State.reportLoaded s c im) := by
  unfold State.reportLoaded
  try extract_lets
  repeat' (first
    | with_reducible exact Kept.refl _ | with_reducible assumption | with_reducible apply Kept.pre (State.setCtx_kept ..)
    | with_reducible apply Kept.pre (State.tell_kept ..) | with_reducible refine Kept.ite ?_ ?_ | split
    | with_reducible refine Kept.upd ?_ rfl rfl rfl rfl rfl rfl rfl rfl | extract_lets | dsimp -zeta only)

theorem State.reportToSubjects_kept (s : State) (c : CtxIdx) (im : Sched) : Kept s (State.reportToSubjects s c im) := by
  unfold State.reportToSubjects
  try extract_lets
  repeat' (first
    | with_reducible exact Kept.refl _ | with_reducible assumption | with_reducible apply Kept.pre (State.tell_kept ..)
    | with_reducible refine Kept.ite ?_ ?_ | with_reducible refine Kept.foldl ?_ (fun _ _ _ => ?_) | split
    | with_reducible refine Kept.foldl_snd ?_ (fun _ _ _ => ?_) | with_reducible refine Kept.foldl_trd ?_ (fun _ _ _ => ?_)
    | with_reducible refine Kept.foldl_fst ?_ (fun _ _ _ => ?_) | extract_lets | dsimp -zeta only)

theorem State.serveLoaded_kept (s : State) (c : CtxIdx) (im : Sched) (v : Nat) : Kept s (State.serveLoaded s c im v) := by
  unfold State.serveLoaded
  try extract_lets
  repeat' (first
    | with_reducible exact Kept.refl _ | with_reducible assumption | with_reducible apply Kept.pre (State.sendBelay_kept ..)
    | with_reducible apply Kept.pre (State.sendCopy_kept ..) | with_reducible apply Kept.pre (State.sendAlone_kept ..)
    | with_reducible refine Kept.ite ?_ ?_ | with_reducible refine Kept.foldl ?_ (fun _ _ _ => ?_) | split
    | with_reducible refine Kept.foldl_snd ?_ (fun _ _ _ => ?_) | with_reducible refine Kept.foldl_trd ?_ (fun _ _ _ => ?_)
    | with_reducible refine Kept.foldl_fst ?_ (fun _ _ _ => ?_) | extract_lets | dsimp -zeta only)

theorem State.releaseTors_kept (s : State) (c : CtxIdx) (im : Sched) : Kept s (State.releaseTors s c im) :=
  Kept.foldl (Kept.refl s) fun _ _ h => Kept.ite (h.trans (State.setTor_kept ..)) (h.trans (State.startTor_kept ..))

theorem State.prepareStep_kept (s : State) (c : CtxIdx) : Kept s (State.prepareStep s c) := by
  unfold State.prepareStep
  try extract_lets
  repeat' (first
    | with_reducible exact Kept.refl _ | with_reducible assumption | with_reducible apply Kept.pre (State.setCtx_kept ..)
    | with_reducible apply Kept.pre (State.reportLoaded_kept ..) | split
    | with_reducible refine Kept.upd ?_ rfl rfl rfl rfl rfl rfl rfl rfl | extract_lets | dsimp -zeta only)

theorem State.beginStep_kept (s : State) (c : CtxIdx) (im : Sched) (belays : List Belay) :
    Kept s (State.beginStep s c im belays) := by
  unfold State.beginStep
  try extract_lets
  repeat' (first
    | with_reducible exact Kept.refl _ | with_reducible assumption | with_reducible apply Kept.pre (State.setCtx_kept ..)
    | with_reducible apply Kept.pre (State.startNodes_kept ..) | with_reducible apply Kept.pre (State.sendBelay_kept ..)
    | with_reducible apply Kept.pre (State.sendAlone_kept ..) | with_reducible apply Kept.pre (State.releaseTors_kept ..)
    | with_reducible refine Kept.ite ?_ ?_ | with_reducible refine Kept.foldl ?_ (fun _ _ _ => ?_) | split
    | with_reducible refine Kept.foldl_snd ?_ (fun _ _ _ => ?_) | with_reducible refine Kept.foldl_trd ?_ (fun _ _ _ => ?_)
    | with_reducible refine Kept.foldl_fst ?_ (fun _ _ _ => ?_)
    | with_reducible refine Kept.upd ?_ rfl rfl rfl rfl rfl rfl rfl rfl | extract_lets | dsimp -zeta only)

theorem State.tryStart_kept (s : State) (c : CtxIdx) : Kept s (State.tryStart s c) := by
  unfold State.tryStart
  try extract_lets
  repeat' (first
    | with_reducible exact Kept.refl _ | with_reducible assumption | with_reducible apply Kept.pre (State.setCtx_kept ..)
    | with_reducible apply Kept.pre (State.beginStep_kept ..) | with_reducible refine Kept.ite ?_ ?_ | split
    | with_reducible refine Kept.upd ?_ rfl rfl rfl rfl rfl rfl rfl rfl | extract_lets | dsimp -zeta only)

theorem State.haltTors_kept (s : State) (c : CtxIdx) : Kept s (State.haltTors s c) := by
  unfold State.haltTors
  try extract_lets
  repeat' (first
    | with_reducible exact Kept.refl _ | with_reducible assumption | with_reducible apply Kept.pre (State.setTor_kept ..)
    | with_reducible refine Kept.foldl ?_ (fun _ _ _ => ?_) | with_reducible refine Kept.foldl_snd ?_ (fun _ _ _ => ?_)
    | with_reducible refine Kept.foldl_trd ?_ (fun _ _ _ => ?_) | with_reducible refine Kept.foldl_fst ?_ (fun _ _ _ => ?_)
    | extract_lets | dsimp -zeta only)

theorem State.endRun_kept (s : State) (c : CtxIdx) (status : Nat) : Kept s (State.endRun s c status) := by
  unfold State.endRun
  try extract_lets
  repeat' (first
    | with_reducible exact Kept.refl _ | with_reducible assumption | with_reducible apply Kept.pre (State.setCtx_kept ..)
    | with_reducible apply Kept.pre (State.post_kept ..) | with_reducible refine Kept.foldl ?_ (fun _ _ _ => ?_) | split
    | with_reducible refine Kept.foldl_snd ?_ (fun _ _ _ => ?_) | with_reducible refine Kept.foldl_trd ?_ (fun _ _ _ => ?_)
    | with_reducible refine Kept.foldl_fst ?_ (fun _ _ _ => ?_)
    | with_reducible refine Kept.upd ?_ rfl rfl rfl rfl rfl rfl rfl rfl | extract_lets | dsimp -zeta only)

theorem State.abortRun_kept (s : State) (c : CtxIdx) : Kept s (State.abortRun s c) := by
  unfold State.abortRun
  try extract_lets
  repeat' (first
    | with_reducible exact Kept.refl _ | with_reducible assumption
    | with_reducible apply Kept.pre (State.abortWithdraw_kept ..) | with_reducible apply Kept.pre (State.onIdle_kept ..)
    | with_reducible apply Kept.pre (State.scanRing_kept ..) | with_reducible apply Kept.pre (State.haltTors_kept ..)
    | with_reducible apply Kept.pre (State.endRun_kept ..) | extract_lets | dsimp -zeta only)

theorem State.scrambleBuffer_kept (s : State) (c : CtxIdx) (e : FeedEntry) : Kept s (State.scrambleBuffer s c e) := by
  unfold State.scrambleBuffer
  try extract_lets
  repeat' (first
    | with_reducible exact Kept.refl _ | with_reducible assumption | with_reducible apply Kept.pre (State.takeFree_kept ..)
    | with_reducible refine Kept.trans ?_ (State.takeFree_keptP (by with_reducible assumption))
    | with_reducible apply Kept.pre (State.writeBytes_kept ..) | with_reducible refine Kept.ite ?_ ?_
    | with_reducible refine Kept.foldl ?_ (fun _ _ _ => ?_) | split
    | with_reducible refine Kept.foldl_snd ?_ (fun _ _ _ => ?_) | with_reducible refine Kept.foldl_trd ?_ (fun _ _ _ => ?_)
    | with_reducible refine Kept.foldl_fst ?_ (fun _ _ _ => ?_)
    | with_reducible refine Kept.upd ?_ rfl rfl rfl rfl rfl rfl rfl rfl | extract_lets | dsimp -zeta only)

theorem State.abortOp_kept (s : State) (c : CtxIdx) : Kept s (State.abortOp s c) := by
  unfold State.abortOp
  try extract_lets
  repeat' (first
    | with_reducible exact Kept.refl _ | with_reducible assumption | with_reducible apply Kept.pre (State.setCtx_kept ..)
    | with_reducible apply Kept.pre (State.endEntry_kept ..) | with_reducible apply Kept.pre (State.scrambleState_kept ..)
    | with_reducible apply Kept.pre (State.scrambleBuffer_kept ..) | split
    | with_reducible refine Kept.upd ?_ rfl rfl rfl rfl rfl rfl rfl rfl | extract_lets | dsimp -zeta only)

theorem State.holdCtx_kept (s : State) (c : CtxIdx) (b : Nat) : Kept s (State.holdCtx s c b) := by
  unfold State.holdCtx
  try extract_lets
  repeat' (first
    | with_reducible exact Kept.refl _ | with_reducible assumption | with_reducible apply Kept.pre (State.setCtx_kept ..)
    | with_reducible refine Kept.ite ?_ ?_ | split | with_reducible refine Kept.upd ?_ rfl rfl rfl rfl rfl rfl rfl rfl
    | extract_lets | dsimp -zeta only)

theorem State.teardownStart_kept (s : State) (c : CtxIdx) : Kept s (State.teardownStart s c) := by
  unfold State.teardownStart
  try extract_lets
  repeat' (first
    | with_reducible exact Kept.refl _ | with_reducible assumption | with_reducible apply Kept.pre (State.setCtx_kept ..)
    | with_reducible apply Kept.pre (State.abortWithdraw_kept ..) | with_reducible apply Kept.pre (State.endEntry_kept ..)
    | with_reducible apply Kept.pre (State.haltTors_kept ..) | with_reducible apply Kept.pre (State.endRun_kept ..)
    | with_reducible apply Kept.pre (State.abortOp_kept ..) | with_reducible refine Kept.ite ?_ ?_
    | with_reducible refine Kept.foldl ?_ (fun _ _ _ => ?_) | split
    | with_reducible refine Kept.foldl_snd ?_ (fun _ _ _ => ?_) | with_reducible refine Kept.foldl_trd ?_ (fun _ _ _ => ?_)
    | with_reducible refine Kept.foldl_fst ?_ (fun _ _ _ => ?_)
    | with_reducible refine Kept.upd ?_ rfl rfl rfl rfl rfl rfl rfl rfl | extract_lets | dsimp -zeta only)

theorem State.leavePosition_kept (s : State) : Kept s (State.leavePosition s) := by
  unfold State.leavePosition
  try extract_lets
  repeat' (first
    | with_reducible exact Kept.refl _ | with_reducible assumption | with_reducible apply Kept.pre (State.raise_kept ..)
    | with_reducible apply Kept.pre (State.onIdle_kept ..) | with_reducible apply Kept.pre (State.teardownStart_kept ..)
    | with_reducible refine Kept.foldl ?_ (fun _ _ _ => ?_) | with_reducible refine Kept.foldl_snd ?_ (fun _ _ _ => ?_)
    | with_reducible refine Kept.foldl_trd ?_ (fun _ _ _ => ?_) | with_reducible refine Kept.foldl_fst ?_ (fun _ _ _ => ?_)
    | extract_lets | dsimp -zeta only)

theorem State.lossEnds_kept (s : State) (c : CtxIdx) : Kept s (State.lossEnds s c) := by
  unfold State.lossEnds
  try extract_lets
  repeat' (first
    | with_reducible exact Kept.refl _ | with_reducible assumption
    | with_reducible apply Kept.pre (State.leavePosition_kept ..) | with_reducible refine Kept.ite ?_ ?_ | split
    | with_reducible refine Kept.upd ?_ rfl rfl rfl rfl rfl rfl rfl rfl | extract_lets | dsimp -zeta only)

theorem State.zeroRange_kept (s : State) (base size : Nat) : Kept s (State.zeroRange s base size) :=
  Kept.setCells _ (Kept.refl s) (memClear_wf _ _ _)

theorem State.dropBuffers_kept (s : State) (c : CtxIdx) : Kept s (State.dropBuffers s c) := by
  unfold State.dropBuffers
  dsimp only
  exact Kept.foldl (Kept.refl _) (fun _ _ h => Kept.ite (h.trans (State.invalidateBuf_kept ..)) h)

theorem State.teardownScrub_kept (s : State) (c : CtxIdx) : Kept s (State.teardownScrub s c) := by
  unfold State.teardownScrub
  try extract_lets
  repeat' (first
    | with_reducible exact Kept.refl _ | with_reducible assumption | with_reducible apply Kept.pre (State.setTor_kept ..)
    | with_reducible apply Kept.pre (State.setCtx_kept ..) | with_reducible apply Kept.pre (State.zeroRange_kept ..)
    | with_reducible apply Kept.pre (State.dropBuffers_kept ..) | with_reducible refine Kept.foldl ?_ (fun _ _ _ => ?_)
    | with_reducible refine Kept.foldl_snd ?_ (fun _ _ _ => ?_) | with_reducible refine Kept.foldl_trd ?_ (fun _ _ _ => ?_)
    | with_reducible refine Kept.foldl_fst ?_ (fun _ _ _ => ?_)
    | with_reducible refine Kept.upd ?_ rfl rfl rfl rfl rfl rfl rfl rfl | extract_lets | dsimp -zeta only)

theorem State.teardownEnd_kept (s : State) (c : CtxIdx) : Kept s (State.teardownEnd s c) := by
  unfold State.teardownEnd
  try extract_lets
  repeat' (first
    | with_reducible exact Kept.refl _ | with_reducible assumption | with_reducible apply Kept.pre (State.emit_kept ..)
    | with_reducible apply Kept.pre (State.setCtx_kept ..) | with_reducible apply Kept.pre (State.onIdle_kept ..)
    | with_reducible apply Kept.pre (State.lossEnds_kept ..) | with_reducible refine Kept.ite ?_ ?_ | split | extract_lets
    | dsimp -zeta only)

end Sys2Proof.Machine
end

