-- ==== Sys2Proof/Laws/KeptCairn.lean ====
section
/-! SUPPORT. What the shared operations keep (Laws/Kept): the cairn layer and the rows of links, memory and contexts. -/

namespace Sys2Proof.Machine
open Sys2Proof

theorem State.standIns_kept (s : State) (c : CtxIdx) (im : Sched) (p : Nat) : Kept s (State.standIns s c im p) := by
  unfold State.standIns
  try extract_lets
  repeat' (first
    | with_reducible exact Kept.refl _ | with_reducible assumption | with_reducible apply Kept.pre (State.setCtx_kept ..)
    | with_reducible apply Kept.pre (State.addToken_kept ..) | with_reducible refine Kept.ite ?_ ?_
    | with_reducible refine Kept.foldl ?_ (fun _ _ _ => ?_) | split
    | with_reducible refine Kept.foldl_snd ?_ (fun _ _ _ => ?_) | with_reducible refine Kept.foldl_trd ?_ (fun _ _ _ => ?_)
    | with_reducible refine Kept.foldl_fst ?_ (fun _ _ _ => ?_)
    | with_reducible refine Kept.upd ?_ rfl rfl rfl rfl rfl rfl rfl rfl | extract_lets | dsimp -zeta only)

theorem State.sendDigest_kept (s : State) (c : CtxIdx) (im : Sched) (shard : Nat) (ps : List Nat) :
    Kept s (State.sendDigest s c im shard ps) := by
  unfold State.sendDigest
  try extract_lets
  repeat' (first
    | with_reducible exact Kept.refl _ | with_reducible assumption | with_reducible apply Kept.pre (State.tellAll_kept ..)
    | extract_lets | dsimp -zeta only)

theorem State.sendTwins_kept (s : State) (c : CtxIdx) (im : Sched) : Kept s (State.sendTwins s c im) := by
  unfold State.sendTwins
  try extract_lets
  repeat' (first
    | with_reducible exact Kept.refl _ | with_reducible assumption | with_reducible apply Kept.pre (State.setCtx_kept ..)
    | with_reducible apply Kept.pre (State.sendDigest_kept ..) | with_reducible refine Kept.ite ?_ ?_
    | with_reducible refine Kept.foldl ?_ (fun _ _ _ => ?_) | split
    | with_reducible refine Kept.foldl_snd ?_ (fun _ _ _ => ?_) | with_reducible refine Kept.foldl_trd ?_ (fun _ _ _ => ?_)
    | with_reducible refine Kept.foldl_fst ?_ (fun _ _ _ => ?_)
    | with_reducible refine Kept.upd ?_ rfl rfl rfl rfl rfl rfl rfl rfl | extract_lets | dsimp -zeta only)

theorem State.declareIn_kept (s : State) (p : Nat) (c : CtxIdx) : Kept s (State.declareIn s p c) := by
  unfold State.declareIn
  try extract_lets
  repeat' (first
    | with_reducible exact Kept.refl _ | with_reducible assumption | with_reducible apply Kept.pre (State.setCtx_kept ..)
    | with_reducible apply Kept.pre (State.refetch_kept ..) | with_reducible apply Kept.pre (State.reportLoaded_kept ..)
    | with_reducible apply Kept.pre (State.standIns_kept ..) | with_reducible apply Kept.pre (State.sendTwins_kept ..)
    | with_reducible refine Kept.ite ?_ ?_ | split | with_reducible refine Kept.upd ?_ rfl rfl rfl rfl rfl rfl rfl rfl
    | extract_lets | dsimp -zeta only)

theorem State.tellDeclaration_kept (s : State) (p : Nat) : Kept s (State.tellDeclaration s p) := by
  unfold State.tellDeclaration
  try extract_lets
  repeat' (first
    | with_reducible exact Kept.refl _ | with_reducible assumption | with_reducible apply Kept.pre (State.tell_kept ..)
    | with_reducible refine Kept.foldl ?_ (fun _ _ _ => ?_) | with_reducible refine Kept.foldl_snd ?_ (fun _ _ _ => ?_)
    | with_reducible refine Kept.foldl_trd ?_ (fun _ _ _ => ?_) | with_reducible refine Kept.foldl_fst ?_ (fun _ _ _ => ?_)
    | extract_lets | dsimp -zeta only)

theorem State.declare_kept (s : State) (p ground : Nat) : Kept s (State.declare s p ground) := by
  unfold State.declare
  try extract_lets
  repeat' (first
    | with_reducible exact Kept.refl _ | with_reducible assumption | with_reducible apply Kept.pre (State.declareIn_kept ..)
    | with_reducible apply Kept.pre (State.tellDeclaration_kept ..) | with_reducible refine Kept.ite ?_ ?_
    | with_reducible refine Kept.foldl ?_ (fun _ _ _ => ?_) | split
    | with_reducible refine Kept.foldl_snd ?_ (fun _ _ _ => ?_) | with_reducible refine Kept.foldl_trd ?_ (fun _ _ _ => ?_)
    | with_reducible refine Kept.foldl_fst ?_ (fun _ _ _ => ?_)
    | with_reducible refine Kept.upd ?_ rfl rfl rfl rfl rfl rfl rfl rfl | extract_lets | dsimp -zeta only)

theorem State.declareSlot_kept (s : State) (q ground : Nat) : Kept s (State.declareSlot s q ground) := by
  unfold State.declareSlot
  try extract_lets
  repeat' (first
    | with_reducible exact Kept.refl _ | with_reducible assumption | with_reducible apply Kept.pre (State.declare_kept ..)
    | split | with_reducible refine Kept.upd ?_ rfl rfl rfl rfl rfl rfl rfl rfl | extract_lets | dsimp -zeta only)

theorem State.suspect_kept (s : State) (q : Nat) : Kept s (State.suspect s q) := by
  unfold State.suspect
  try extract_lets
  repeat' (first
    | with_reducible exact Kept.refl _ | with_reducible assumption | with_reducible apply Kept.pre (State.tellSlots_kept ..)
    | with_reducible apply Kept.pre (State.sendWithdraw_kept ..) | with_reducible apply Kept.pre (State.declareSlot_kept ..)
    | with_reducible refine Kept.ite ?_ ?_ | split | with_reducible refine Kept.upd ?_ rfl rfl rfl rfl rfl rfl rfl rfl
    | extract_lets | dsimp -zeta only)

theorem State.voidProposals_kept (s : State) (q : Nat) : Kept s (State.voidProposals s q) := by
  unfold State.voidProposals
  try extract_lets
  repeat' (first
    | with_reducible exact Kept.refl _ | with_reducible assumption | with_reducible refine Kept.ite ?_ ?_ | split
    | with_reducible refine Kept.upd ?_ rfl rfl rfl rfl rfl rfl rfl rfl | extract_lets | dsimp -zeta only)

theorem State.twinStage_kept (s : State) (c : CtxIdx) (im : Sched) :
    Kept s (State.twinStage s c im).1 := by
  unfold State.twinStage
  try extract_lets
  repeat' (first
    | with_reducible exact Kept.refl _ | with_reducible assumption | with_reducible apply Kept.pre (State.setCtx_kept ..)
    | with_reducible apply Kept.pre (State.sendDigest_kept ..) | with_reducible apply Kept.pre (State.sendTwins_kept ..)
    | with_reducible refine Kept.ite ?_ ?_ | with_reducible refine Kept.foldl ?_ (fun _ _ _ => ?_) | split
    | with_reducible refine Kept.foldl_snd ?_ (fun _ _ _ => ?_) | with_reducible refine Kept.foldl_trd ?_ (fun _ _ _ => ?_)
    | with_reducible refine Kept.foldl_fst ?_ (fun _ _ _ => ?_)
    | with_reducible refine Kept.upd ?_ rfl rfl rfl rfl rfl rfl rfl rfl | extract_lets | dsimp -zeta only)

theorem State.twinStage_keptP {s : State} {c : CtxIdx} {im : Sched} {y x} (heqn : State.twinStage s c im = (y, x)) :
    Kept s y := by
  have := State.twinStage_kept s c im
  rwa [heqn] at this

theorem State.tellBelayDigest_kept (s : State) (c : CtxIdx) (b : Belay) (d : Option (BitVec 64)) :
    Kept s (State.tellBelayDigest s c b d) := by
  unfold State.tellBelayDigest
  try extract_lets
  repeat' (first
    | with_reducible exact Kept.refl _ | with_reducible assumption | with_reducible apply Kept.pre (State.tellBelay_kept ..)
    | extract_lets | dsimp -zeta only)

theorem State.closeBelay_kept (s : State) (c : CtxIdx) (im : Sched) (b : Belay) :
    Kept s (State.closeBelay s c im b).1 := by
  unfold State.closeBelay
  try dsimp only
  repeat' (first
    | with_reducible exact Kept.refl _ | with_reducible assumption | with_reducible apply Kept.pre (State.failItem_kept ..)
    | with_reducible apply Kept.pre (State.tellBelayDigest_kept ..) | with_reducible refine Kept.ite ?_ ?_ | split
    | with_reducible refine Kept.upd ?_ rfl rfl rfl rfl rfl rfl rfl rfl | dsimp only)

theorem State.closeBelay_keptP {s : State} {c : CtxIdx} {im : Sched} {b : Belay} {y x} (heqn : State.closeBelay s c im b = (y, x)) :
    Kept s y := by
  have := State.closeBelay_kept s c im b
  rwa [heqn] at this

theorem State.sendSourceDigests_kept (s : State) (c : CtxIdx) (im : Sched) : Kept s (State.sendSourceDigests s c im) := by
  unfold State.sendSourceDigests
  try extract_lets
  repeat' (first
    | with_reducible exact Kept.refl _ | with_reducible assumption | with_reducible apply Kept.pre (State.tellBelay_kept ..)
    | with_reducible refine Kept.foldl ?_ (fun _ _ _ => ?_) | with_reducible refine Kept.foldl_snd ?_ (fun _ _ _ => ?_)
    | with_reducible refine Kept.foldl_trd ?_ (fun _ _ _ => ?_) | with_reducible refine Kept.foldl_fst ?_ (fun _ _ _ => ?_)
    | extract_lets | dsimp -zeta only)

theorem State.declareAll_kept (s : State) (ps : List Nat) : Kept s (State.declareAll s ps) := by
  unfold State.declareAll
  try extract_lets
  repeat' (first
    | with_reducible exact Kept.refl _ | with_reducible assumption | with_reducible apply Kept.pre (State.declare_kept ..)
    | with_reducible refine Kept.foldl ?_ (fun _ _ _ => ?_) | with_reducible refine Kept.foldl_snd ?_ (fun _ _ _ => ?_)
    | with_reducible refine Kept.foldl_trd ?_ (fun _ _ _ => ?_) | with_reducible refine Kept.foldl_fst ?_ (fun _ _ _ => ?_)
    | extract_lets | dsimp -zeta only)

theorem State.reduceAgain_kept (s : State) (c : CtxIdx) (im : Sched) (v : Verdict) : Kept s (State.reduceAgain s c im v) := by
  unfold State.reduceAgain
  try extract_lets
  repeat' (first
    | with_reducible exact Kept.refl _ | with_reducible assumption | with_reducible apply Kept.pre (State.setCtx_kept ..)
    | with_reducible apply Kept.pre (State.startNodes_kept ..) | with_reducible apply Kept.pre (State.feedNodes_kept ..)
    | with_reducible apply Kept.pre (State.declareAll_kept ..) | with_reducible refine Kept.foldl ?_ (fun _ _ _ => ?_)
    | split | with_reducible refine Kept.foldl_snd ?_ (fun _ _ _ => ?_)
    | with_reducible refine Kept.foldl_trd ?_ (fun _ _ _ => ?_) | with_reducible refine Kept.foldl_fst ?_ (fun _ _ _ => ?_)
    | with_reducible refine Kept.upd ?_ rfl rfl rfl rfl rfl rfl rfl rfl | extract_lets | dsimp -zeta only)

theorem State.switchIn_kept (s : State) (p : Nat) : Kept s (State.switchIn s p) := by
  unfold State.switchIn
  try extract_lets
  repeat' (first
    | with_reducible exact Kept.refl _ | with_reducible assumption | with_reducible apply Kept.pre (State.raise_kept ..)
    | with_reducible refine Kept.upd ?_ rfl rfl rfl rfl rfl rfl rfl rfl | extract_lets | dsimp -zeta only)

theorem memberStep_ranges (ps : List Nat) (g : Nat) (d : List Nat) (joins : List (BitVec 9 × BitVec 6)) (done : List Nat) (k : Cairn) :
    (memberStep ps g d joins done k).reportTimeout = k.reportTimeout ∧ (memberStep ps g d joins done k).hbTimeout = k.hbTimeout := by
  unfold memberStep
  extract_lets
  split
  extract_lets
  exact ⟨rfl, rfl⟩

theorem memberSteps_ranges (gs : List Nat) (ps d : List Nat) (joins : List (BitVec 9 × BitVec 6)) (done : List Nat) (k : Cairn) :
    (gs.foldl (fun k g => memberStep ps g d joins done k) k).reportTimeout = k.reportTimeout ∧
      (gs.foldl (fun k g => memberStep ps g d joins done k) k).hbTimeout = k.hbTimeout := by
  induction gs generalizing k with
  | nil => exact ⟨rfl, rfl⟩
  | cons g gs ih =>
    have h1 := memberStep_ranges ps g d joins done k
    have h2 := ih (memberStep ps g d joins done k)
    exact ⟨h2.1.trans h1.1, h2.2.trans h1.2⟩

theorem State.membership_kept (s : State) (v : Verdict) : Kept s (State.membership s v) := by
  unfold State.membership
  extract_lets d old gs k changed late lateSlot skip k2 s1 me
  have hk : k.reportTimeout = s.crn.reportTimeout ∧ k.hbTimeout = s.crn.hbTimeout := by
    with_reducible exact memberSteps_ranges ..
  clear_value k
  have hk2 : k2.reportTimeout = s.crn.reportTimeout ∧ k2.hbTimeout = s.crn.hbTimeout := hk
  clear_value k2
  have h1 : Kept s s1 := Kept.upd (Kept.refl s) rfl rfl rfl hk2.1 hk2.2 rfl rfl rfl
  clear_value s1
  repeat'
    first
      | with_reducible exact Kept.refl _
      | assumption
      | with_reducible apply Kept.pre (State.raise_kept ..)
      | with_reducible apply Kept.pre (State.switchIn_kept ..)
      | with_reducible refine Kept.ite ?_ ?_
      | split
      | with_reducible refine Kept.upd ?_ rfl rfl rfl rfl rfl rfl rfl rfl
      | dsimp only

theorem State.afterMembership_kept (s : State) (c : CtxIdx) (left : Bool) : Kept s (State.afterMembership s c left) := by
  unfold State.afterMembership
  try extract_lets
  repeat' (first
    | with_reducible exact Kept.refl _ | with_reducible assumption | with_reducible apply Kept.pre (State.raise_kept ..)
    | with_reducible apply Kept.pre (State.holdCtx_kept ..) | with_reducible apply Kept.pre (State.leavePosition_kept ..)
    | with_reducible refine Kept.ite ?_ ?_ | with_reducible refine Kept.foldl ?_ (fun _ _ _ => ?_) | split
    | with_reducible refine Kept.foldl_snd ?_ (fun _ _ _ => ?_) | with_reducible refine Kept.foldl_trd ?_ (fun _ _ _ => ?_)
    | with_reducible refine Kept.foldl_fst ?_ (fun _ _ _ => ?_)
    | with_reducible refine Kept.upd ?_ rfl rfl rfl rfl rfl rfl rfl rfl | extract_lets | dsimp -zeta only)

theorem State.effect3_kept (s : State) (c : CtxIdx) (n : Nat) : Kept s (State.effect3 s c n) := by
  unfold State.effect3
  try extract_lets
  repeat' (first
    | with_reducible exact Kept.refl _ | with_reducible assumption
    | with_reducible apply Kept.pre (State.returnPorts_kept ..) | with_reducible apply Kept.pre (State.applyRepairs_kept ..)
    | with_reducible apply Kept.pre (State.refreshLinks_kept ..) | with_reducible apply Kept.pre (State.switchover_kept ..)
    | with_reducible refine Kept.ite ?_ ?_ | split | extract_lets | dsimp -zeta only)

theorem State.followVerdict_kept (s : State) (v : Verdict) : Kept s (State.followVerdict s v) := by
  unfold State.followVerdict
  try extract_lets
  repeat' (first
    | with_reducible exact Kept.refl _ | with_reducible assumption
    | with_reducible apply Kept.pre (State.returnPorts_kept ..) | with_reducible apply Kept.pre (State.refreshLinks_kept ..)
    | with_reducible apply Kept.pre (State.membership_kept ..) | with_reducible apply Kept.pre (State.effect3_kept ..)
    | with_reducible refine Kept.ite ?_ ?_ | split | with_reducible refine Kept.upd ?_ rfl rfl rfl rfl rfl rfl rfl rfl
    | extract_lets | dsimp -zeta only)

theorem State.passVerdict_kept (s : State) (c : CtxIdx) (im : Sched) (v : Verdict) : Kept s (State.passVerdict s c im v) := by
  unfold State.passVerdict
  try extract_lets
  repeat' (first
    | with_reducible exact Kept.refl _ | with_reducible assumption | with_reducible apply Kept.pre (State.tellAll_kept ..)
    | with_reducible apply Kept.pre (State.tellSlots_kept ..) | extract_lets | dsimp -zeta only)

theorem State.actOnVerdict_kept (s : State) (v : Verdict) : Kept s (State.actOnVerdict s v) := by
  unfold State.actOnVerdict
  try extract_lets
  repeat' (first
    | with_reducible exact Kept.refl _ | with_reducible assumption | with_reducible apply Kept.pre (State.setCtx_kept ..)
    | with_reducible apply Kept.pre (State.reduceAgain_kept ..) | with_reducible apply Kept.pre (State.membership_kept ..)
    | with_reducible apply Kept.pre (State.afterMembership_kept ..)
    | with_reducible apply Kept.pre (State.followVerdict_kept ..) | with_reducible apply Kept.pre (State.passVerdict_kept ..)
    | with_reducible refine Kept.ite ?_ ?_ | split | with_reducible refine Kept.upd ?_ rfl rfl rfl rfl rfl rfl rfl rfl
    | extract_lets | dsimp -zeta only)

theorem State.gather_kept (s : State) (c : CtxIdx) : Kept s (State.gather s c) := by
  unfold State.gather
  try extract_lets
  repeat' (first
    | with_reducible exact Kept.refl _ | with_reducible assumption | with_reducible apply Kept.pre (State.setCtx_kept ..)
    | with_reducible apply Kept.pre (State.tellAll_kept ..) | with_reducible apply Kept.pre (State.actOnVerdict_kept ..)
    | with_reducible refine Kept.ite ?_ ?_ | split | with_reducible refine Kept.upd ?_ rfl rfl rfl rfl rfl rfl rfl rfl
    | extract_lets | dsimp -zeta only)

theorem State.gatherAll_kept (s : State) : Kept s (State.gatherAll s) := by
  unfold State.gatherAll
  try extract_lets
  repeat' (first
    | with_reducible exact Kept.refl _ | with_reducible assumption | with_reducible apply Kept.pre (State.gather_kept ..)
    | with_reducible refine Kept.foldl ?_ (fun _ _ _ => ?_) | with_reducible refine Kept.foldl_snd ?_ (fun _ _ _ => ?_)
    | with_reducible refine Kept.foldl_trd ?_ (fun _ _ _ => ?_) | with_reducible refine Kept.foldl_fst ?_ (fun _ _ _ => ?_)
    | extract_lets | dsimp -zeta only)

theorem State.minorityWithdraws_kept (s : State) (c : CtxIdx) (im : Sched) : Kept s (State.minorityWithdraws s c im) := by
  unfold State.minorityWithdraws
  try extract_lets
  repeat' (first
    | with_reducible exact Kept.refl _ | with_reducible assumption
    | with_reducible apply Kept.pre (State.sendWithdraw_kept ..) | with_reducible refine Kept.ite ?_ ?_ | split
    | with_reducible refine Kept.upd ?_ rfl rfl rfl rfl rfl rfl rfl rfl | extract_lets | dsimp -zeta only)

theorem State.openReport_kept (s : State) (c : CtxIdx) (im : Sched) : Kept s (State.openReport s c im) := by
  unfold State.openReport
  try extract_lets
  repeat' (first
    | with_reducible exact Kept.refl _ | with_reducible assumption | with_reducible apply Kept.pre (State.setCtx_kept ..)
    | with_reducible apply Kept.pre (State.tellSlots_kept ..) | with_reducible apply Kept.pre (State.closeBelay_kept ..)
    | with_reducible refine Kept.trans ?_ (State.closeBelay_keptP (by with_reducible assumption))
    | with_reducible apply Kept.pre (State.sendSourceDigests_kept ..)
    | with_reducible apply Kept.pre (State.actOnVerdict_kept ..) | with_reducible apply Kept.pre (State.gather_kept ..)
    | with_reducible apply Kept.pre (State.minorityWithdraws_kept ..) | with_reducible refine Kept.ite ?_ ?_
    | with_reducible refine Kept.foldl ?_ (fun _ _ _ => ?_) | split
    | with_reducible refine Kept.foldl_snd ?_ (fun _ _ _ => ?_) | with_reducible refine Kept.foldl_trd ?_ (fun _ _ _ => ?_)
    | with_reducible refine Kept.foldl_fst ?_ (fun _ _ _ => ?_)
    | with_reducible refine Kept.upd ?_ rfl rfl rfl rfl rfl rfl rfl rfl | extract_lets | dsimp -zeta only)

theorem State.reportTo_kept (s : State) (ps : List Nat) : Kept s (State.reportTo s ps) := by
  unfold State.reportTo
  try extract_lets
  repeat' (first
    | with_reducible exact Kept.refl _ | with_reducible assumption | with_reducible apply Kept.pre (State.tellSlots_kept ..)
    | with_reducible refine Kept.foldl ?_ (fun _ _ _ => ?_) | split
    | with_reducible refine Kept.foldl_snd ?_ (fun _ _ _ => ?_) | with_reducible refine Kept.foldl_trd ?_ (fun _ _ _ => ?_)
    | with_reducible refine Kept.foldl_fst ?_ (fun _ _ _ => ?_)
    | with_reducible refine Kept.upd ?_ rfl rfl rfl rfl rfl rfl rfl rfl | extract_lets | dsimp -zeta only)

theorem State.catchUpStep_kept (s : State) (c : CtxIdx) (im : Sched) (v : Verdict) : Kept s (State.catchUpStep s c im v) := by
  unfold State.catchUpStep
  try extract_lets
  repeat' (first
    | with_reducible exact Kept.refl _ | with_reducible assumption | with_reducible apply Kept.pre (State.setCtx_kept ..)
    | with_reducible apply Kept.pre (State.raise_kept ..) | with_reducible apply Kept.pre (State.sendWithdraw_kept ..)
    | with_reducible refine Kept.ite ?_ ?_ | split | with_reducible refine Kept.upd ?_ rfl rfl rfl rfl rfl rfl rfl rfl
    | extract_lets | dsimp -zeta only)

theorem State.cleanTors_kept (s : State) (c : CtxIdx) : Kept s (State.cleanTors s c) := by
  unfold State.cleanTors
  try extract_lets
  repeat' (first
    | with_reducible exact Kept.refl _ | with_reducible assumption | with_reducible apply Kept.pre (State.setTor_kept ..)
    | with_reducible refine Kept.foldl ?_ (fun _ _ _ => ?_) | with_reducible refine Kept.foldl_snd ?_ (fun _ _ _ => ?_)
    | with_reducible refine Kept.foldl_trd ?_ (fun _ _ _ => ?_) | with_reducible refine Kept.foldl_fst ?_ (fun _ _ _ => ?_)
    | extract_lets | dsimp -zeta only)

theorem State.forgetFailures_kept (s : State) (c : CtxIdx) : Kept s (State.forgetFailures s c) := by
  unfold State.forgetFailures
  try extract_lets
  repeat' (first
    | with_reducible exact Kept.refl _ | with_reducible assumption | with_reducible apply Kept.pre (State.setTor_kept ..)
    | with_reducible refine Kept.foldl ?_ (fun _ _ _ => ?_) | with_reducible refine Kept.foldl_snd ?_ (fun _ _ _ => ?_)
    | with_reducible refine Kept.foldl_trd ?_ (fun _ _ _ => ?_) | with_reducible refine Kept.foldl_fst ?_ (fun _ _ _ => ?_)
    | with_reducible refine Kept.upd ?_ rfl rfl rfl rfl rfl rfl rfl rfl | extract_lets | dsimp -zeta only)

theorem State.resetFlows_kept (s : State) (c : CtxIdx) : Kept s (State.resetFlows s c) := by
  unfold State.resetFlows
  try extract_lets
  repeat' (first
    | with_reducible exact Kept.refl _ | with_reducible assumption | with_reducible apply Kept.pre (State.setFlow_kept ..)
    | with_reducible refine Kept.foldl ?_ (fun _ _ _ => ?_) | split
    | with_reducible refine Kept.foldl_snd ?_ (fun _ _ _ => ?_) | with_reducible refine Kept.foldl_trd ?_ (fun _ _ _ => ?_)
    | with_reducible refine Kept.foldl_fst ?_ (fun _ _ _ => ?_)
    | with_reducible refine Kept.upd ?_ rfl rfl rfl rfl rfl rfl rfl rfl | extract_lets | dsimp -zeta only)

theorem State.effect1_kept (s : State) (c : CtxIdx) (im : Sched) (v : Verdict) : Kept s (State.effect1 s c im v) := by
  unfold State.effect1
  try extract_lets
  repeat' (first
    | with_reducible exact Kept.refl _ | with_reducible assumption | with_reducible apply Kept.pre (State.setCtx_kept ..)
    | with_reducible apply Kept.pre (State.storeSwb_kept ..)
    | with_reducible refine Kept.upd ?_ rfl rfl rfl rfl rfl rfl rfl rfl | extract_lets | dsimp -zeta only)

theorem State.effect4_kept (s : State) (c : CtxIdx) (im : Sched) (v : Verdict) : Kept s (State.effect4 s c im v) := by
  unfold State.effect4
  try extract_lets
  repeat' (first
    | with_reducible exact Kept.refl _ | with_reducible assumption | with_reducible apply Kept.pre (State.setCtx_kept ..)
    | with_reducible refine Kept.upd ?_ rfl rfl rfl rfl rfl rfl rfl rfl | extract_lets | dsimp -zeta only)

theorem State.effect5_kept (s : State) (c : CtxIdx) : Kept s (State.effect5 s c) := by
  unfold State.effect5
  try extract_lets
  repeat' (first
    | with_reducible exact Kept.refl _ | with_reducible assumption | with_reducible apply Kept.pre (State.setCtx_kept ..)
    | with_reducible apply Kept.pre (State.addToken_kept ..) | with_reducible refine Kept.foldl ?_ (fun _ _ _ => ?_)
    | with_reducible refine Kept.foldl_snd ?_ (fun _ _ _ => ?_) | with_reducible refine Kept.foldl_trd ?_ (fun _ _ _ => ?_)
    | with_reducible refine Kept.foldl_fst ?_ (fun _ _ _ => ?_)
    | with_reducible refine Kept.upd ?_ rfl rfl rfl rfl rfl rfl rfl rfl | extract_lets | dsimp -zeta only)

theorem State.pauseFront_kept (s : State) (c : CtxIdx) : Kept s (State.pauseFront s c) := by
  unfold State.pauseFront
  try extract_lets
  repeat' (first
    | with_reducible exact Kept.refl _ | with_reducible assumption | with_reducible apply Kept.pre (State.consume_kept ..)
    | with_reducible apply Kept.pre (State.endEntry_kept ..) | with_reducible apply Kept.pre (State.holdCtx_kept ..)
    | with_reducible refine Kept.ite ?_ ?_ | split | with_reducible refine Kept.upd ?_ rfl rfl rfl rfl rfl rfl rfl rfl
    | extract_lets | dsimp -zeta only)

theorem crnRanges_foldl {α : Type} {f : Cairn → α → Cairn} {q : Cairn}
    (hf : ∀ k x, (f k x).reportTimeout = k.reportTimeout ∧ (f k x).hbTimeout = k.hbTimeout) (l : List α) :
    (l.foldl f q).reportTimeout = q.reportTimeout ∧ (l.foldl f q).hbTimeout = q.hbTimeout := by
  induction l generalizing q with
  | nil => exact ⟨rfl, rfl⟩
  | cons x l ih => exact ⟨(ih (q := f q x)).1.trans (hf q x).1, (ih (q := f q x)).2.trans (hf q x).2⟩

theorem watchStep_ranges (rs : List CairnReport) (v : Verdict) (bs : List BelayPlan) (n k : Nat) (q : Cairn) :
    (watchStep rs v bs n k q).reportTimeout = q.reportTimeout ∧ (watchStep rs v bs n k q).hbTimeout = q.hbTimeout := by
  unfold watchStep
  extract_lets d q2
  have h2 : q2.reportTimeout = q.reportTimeout ∧ q2.hbTimeout = q.hbTimeout := ⟨rfl, rfl⟩
  clear_value q2 d
  rw [← h2.1, ← h2.2]
  refine crnRanges_foldl ?_ bs
  intro k x
  try dsimp only
  repeat'
    first
      | exact ⟨rfl, rfl⟩
      | split

theorem restoreStep_ranges (rs : List CairnReport) (v : Verdict) (bs : List BelayPlan) (q : Cairn) :
    (restoreStep rs v bs q).reportTimeout = q.reportTimeout ∧ (restoreStep rs v bs q).hbTimeout = q.hbTimeout := by
  unfold restoreStep
  split
  · exact ⟨rfl, rfl⟩
  · refine crnRanges_foldl ?_ bs
    intro k x
    try dsimp only
    split <;> exact ⟨rfl, rfl⟩

theorem setCrn_kept {s t : State} (k : Cairn) (h : Kept s t)
    (hk : k.reportTimeout = t.crn.reportTimeout ∧ k.hbTimeout = t.crn.hbTimeout) : Kept s { t with crn := k } :=
  Kept.upd h rfl rfl rfl hk.1 hk.2 rfl rfl rfl

theorem State.belayStep_kept (s : State) (rs : List CairnReport) (v : Verdict) (bs : List BelayPlan) (n k : Nat) :
    Kept s (State.belayStep s rs v bs n k) :=
  setCrn_kept _ (Kept.refl s) ⟨(restoreStep_ranges ..).1.trans (watchStep_ranges ..).1, (restoreStep_ranges ..).2.trans (watchStep_ranges ..).2⟩

theorem State.noteWatch_kept (s : State) : Kept s (State.noteWatch s) := by
  unfold State.noteWatch
  try extract_lets
  repeat' (first
    | with_reducible exact Kept.refl _ | with_reducible assumption
    | with_reducible refine Kept.upd ?_ rfl rfl rfl rfl rfl rfl rfl rfl | extract_lets | dsimp -zeta only)

theorem State.instantMembership_kept (s : State) (c : CtxIdx) (im : Sched) (v : Verdict) :
    Kept s (State.instantMembership s c im v) := by
  unfold State.instantMembership
  try extract_lets
  repeat' (first
    | with_reducible exact Kept.refl _ | with_reducible assumption | with_reducible apply Kept.pre (State.membership_kept ..)
    | with_reducible apply Kept.pre (State.catchUpStep_kept ..) | with_reducible apply Kept.pre (State.resetFlows_kept ..)
    | with_reducible apply Kept.pre (State.effect1_kept ..) | with_reducible apply Kept.pre (State.belayStep_kept ..)
    | with_reducible apply Kept.pre (State.noteWatch_kept ..) | with_reducible refine Kept.ite ?_ ?_ | split | extract_lets
    | dsimp -zeta only)

theorem State.passCairn_kept (s : State) (im : Sched) : Kept s (State.passCairn s im) := by
  unfold State.passCairn
  dsimp only
  exact Kept.foldl (Kept.refl _) fun _ _ h => Kept.ite h (Kept.ite (h.trans (State.setTor_kept ..)) (h.trans (State.setTor_kept ..)))

theorem State.instantTors_kept (s : State) (c : CtxIdx) (im : Sched) (v : Verdict) (n : Nat) (loses left : Bool) :
    Kept s (State.instantTors s c im v n loses left) := by
  unfold State.instantTors
  try extract_lets
  repeat' (first
    | with_reducible exact Kept.refl _ | with_reducible assumption | with_reducible apply Kept.pre (State.raise_kept ..)
    | with_reducible apply Kept.pre (State.returnPorts_kept ..) | with_reducible apply Kept.pre (State.applyRepairs_kept ..)
    | with_reducible apply Kept.pre (State.refreshLinks_kept ..) | with_reducible apply Kept.pre (State.dropBuffers_kept ..)
    | with_reducible apply Kept.pre (State.effect3_kept ..) | with_reducible apply Kept.pre (State.cleanTors_kept ..)
    | with_reducible apply Kept.pre (State.forgetFailures_kept ..) | with_reducible apply Kept.pre (State.effect4_kept ..)
    | with_reducible apply Kept.pre (State.effect5_kept ..) | with_reducible apply Kept.pre (State.passCairn_kept ..)
    | with_reducible refine Kept.ite ?_ ?_ | split | extract_lets | dsimp -zeta only)

theorem State.noteDecision_kept (s : State) (v : Verdict) (seq : Word) : Kept s (State.noteDecision s v seq) := by
  unfold State.noteDecision
  try extract_lets
  repeat' (first
    | with_reducible exact Kept.refl _ | with_reducible assumption
    | with_reducible apply Kept.pre (State.recordCause_kept ..) | with_reducible refine Kept.ite ?_ ?_ | split
    | with_reducible refine Kept.upd ?_ rfl rfl rfl rfl rfl rfl rfl rfl | extract_lets | dsimp -zeta only)

theorem State.postOutcome_kept (s : State) (c : CtxIdx) (x : Context) (commit : Bool) (seq : Word) :
    Kept s (State.postOutcome s c x commit seq) := by
  unfold State.postOutcome
  try extract_lets
  repeat' (first
    | with_reducible exact Kept.refl _ | with_reducible assumption | with_reducible apply Kept.pre (State.post_kept ..)
    | split | with_reducible refine Kept.upd ?_ rfl rfl rfl rfl rfl rfl rfl rfl | extract_lets | dsimp -zeta only)

theorem State.instantRecord_kept (s o : State) (c : CtxIdx) (im : Sched) (v : Verdict) :
    Kept s (State.instantRecord s o c im v).1 := by
  unfold State.instantRecord
  try dsimp only
  repeat' (first
    | with_reducible exact Kept.refl _ | with_reducible assumption | with_reducible apply Kept.pre (State.setCtx_kept ..)
    | with_reducible apply Kept.pre (State.raise_kept ..) | with_reducible apply Kept.pre (State.writeBytes_kept ..)
    | with_reducible apply Kept.pre (State.noteDecision_kept ..) | with_reducible apply Kept.pre (State.postOutcome_kept ..)
    | with_reducible refine Kept.ite ?_ ?_ | with_reducible refine Kept.foldl ?_ (fun _ _ _ => ?_) | split
    | with_reducible refine Kept.foldl_snd ?_ (fun _ _ _ => ?_) | with_reducible refine Kept.foldl_trd ?_ (fun _ _ _ => ?_)
    | with_reducible refine Kept.foldl_fst ?_ (fun _ _ _ => ?_) | dsimp only)

theorem State.instantRecord_keptP {s : State} {o : State} {c : CtxIdx} {im : Sched} {v : Verdict} {y x z} (heqn : State.instantRecord s o c im v = (y, x, z)) :
    Kept s y := by
  have := State.instantRecord_kept s o c im v
  rwa [heqn] at this

theorem State.afterInstant_kept (s : State) (c : CtxIdx) (n : Nat) (commit hold twice left : Bool) :
    Kept s (State.afterInstant s c n commit hold twice left) := by
  unfold State.afterInstant
  try extract_lets
  repeat' (first
    | with_reducible exact Kept.refl _ | with_reducible assumption | with_reducible apply Kept.pre (State.onIdle_kept ..)
    | with_reducible apply Kept.pre (State.readLine_kept ..) | with_reducible apply Kept.pre (State.scanRing_kept ..)
    | with_reducible apply Kept.pre (State.prepareStep_kept ..) | with_reducible apply Kept.pre (State.tryStart_kept ..)
    | with_reducible apply Kept.pre (State.endRun_kept ..) | with_reducible apply Kept.pre (State.holdCtx_kept ..)
    | with_reducible apply Kept.pre (State.declareIn_kept ..) | with_reducible apply Kept.pre (State.tellDeclaration_kept ..)
    | with_reducible apply Kept.pre (State.afterMembership_kept ..)
    | with_reducible apply Kept.pre (State.pauseFront_kept ..) | with_reducible refine Kept.ite ?_ ?_
    | with_reducible refine Kept.foldl ?_ (fun _ _ _ => ?_) | split
    | with_reducible refine Kept.foldl_snd ?_ (fun _ _ _ => ?_) | with_reducible refine Kept.foldl_trd ?_ (fun _ _ _ => ?_)
    | with_reducible refine Kept.foldl_fst ?_ (fun _ _ _ => ?_)
    | with_reducible refine Kept.upd ?_ rfl rfl rfl rfl rfl rfl rfl rfl | extract_lets | dsimp -zeta only)

theorem State.instant_kept (s : State) (c : CtxIdx) (im : Sched) (v : Verdict) : Kept s (State.instant s c im v) := by
  unfold State.instant
  try extract_lets
  repeat' (first
    | with_reducible exact Kept.refl _ | with_reducible assumption
    | with_reducible apply Kept.pre (State.instantMembership_kept ..)
    | with_reducible apply Kept.pre (State.instantTors_kept ..) | with_reducible apply Kept.pre (State.instantRecord_kept ..)
    | with_reducible refine Kept.trans ?_ (State.instantRecord_keptP (by with_reducible assumption))
    | with_reducible apply Kept.pre (State.afterInstant_kept ..) | extract_lets | dsimp -zeta only)

theorem State.enterLinks_kept (s : State) (n : BitVec 3) : Kept s (State.enterLinks s n) := by
  unfold State.enterLinks
  try extract_lets
  repeat' (first
    | with_reducible exact Kept.refl _ | with_reducible assumption
    | with_reducible refine Kept.upd ?_ rfl rfl rfl rfl rfl rfl rfl rfl | extract_lets | dsimp -zeta only)

theorem State.joinReady_kept (s : State) : Kept s (State.joinReady s) := by
  unfold State.joinReady
  try extract_lets
  repeat' (first
    | with_reducible exact Kept.refl _ | with_reducible assumption | with_reducible apply Kept.pre (State.enterLinks_kept ..)
    | with_reducible refine Kept.ite ?_ ?_ | split | with_reducible refine Kept.upd ?_ rfl rfl rfl rfl rfl rfl rfl rfl
    | extract_lets | dsimp -zeta only)

theorem State.checkPeers_kept (s : State) : Kept s (State.checkPeers s) := by
  unfold State.checkPeers
  try extract_lets
  repeat' (first
    | with_reducible exact Kept.refl _ | with_reducible assumption | with_reducible apply Kept.pre (State.raise_kept ..)
    | with_reducible apply Kept.pre (State.sendWithdraw_kept ..) | with_reducible apply Kept.pre (State.suspect_kept ..)
    | with_reducible refine Kept.ite ?_ ?_ | with_reducible refine Kept.foldl ?_ (fun _ _ _ => ?_) | split
    | with_reducible refine Kept.foldl_snd ?_ (fun _ _ _ => ?_) | with_reducible refine Kept.foldl_trd ?_ (fun _ _ _ => ?_)
    | with_reducible refine Kept.foldl_fst ?_ (fun _ _ _ => ?_)
    | with_reducible refine Kept.upd ?_ rfl rfl rfl rfl rfl rfl rfl rfl | extract_lets | dsimp -zeta only)

theorem State.checkMinimums_kept (s : State) : Kept s (State.checkMinimums s) := by
  unfold State.checkMinimums
  try extract_lets
  repeat' (first
    | with_reducible exact Kept.refl _ | with_reducible assumption | with_reducible apply Kept.pre (State.raise_kept ..)
    | with_reducible apply Kept.pre (State.sendWithdraw_kept ..) | with_reducible refine Kept.ite ?_ ?_ | split
    | with_reducible refine Kept.upd ?_ rfl rfl rfl rfl rfl rfl rfl rfl | extract_lets | dsimp -zeta only)

theorem State.noteSettled_kept (s : State) : Kept s (State.noteSettled s) := by
  unfold State.noteSettled
  try extract_lets
  repeat' (first
    | with_reducible exact Kept.refl _ | with_reducible assumption
    | with_reducible refine Kept.upd ?_ rfl rfl rfl rfl rfl rfl rfl rfl | extract_lets | dsimp -zeta only)

theorem State.planMismatch_kept (s : State) : Kept s (State.planMismatch s) := by
  unfold State.planMismatch
  try extract_lets
  repeat' (first
    | with_reducible exact Kept.refl _ | with_reducible assumption | with_reducible apply Kept.pre (State.raise_kept ..)
    | with_reducible apply Kept.pre (State.enterLinks_kept ..) | extract_lets | dsimp -zeta only)

theorem State.linkCheck_kept (s : State) : Kept s (State.linkCheck s) := by
  unfold State.linkCheck
  try extract_lets
  repeat' (first
    | with_reducible exact Kept.refl _ | with_reducible assumption | with_reducible apply Kept.pre (State.joinReady_kept ..)
    | with_reducible apply Kept.pre (State.checkPeers_kept ..) | with_reducible apply Kept.pre (State.checkMinimums_kept ..)
    | with_reducible apply Kept.pre (State.noteSettled_kept ..) | with_reducible apply Kept.pre (State.planMismatch_kept ..)
    | with_reducible refine Kept.ite ?_ ?_ | split | extract_lets | dsimp -zeta only)

theorem State.portChanged_kept (s : State) : Kept s (State.portChanged s) := by
  unfold State.portChanged
  try extract_lets
  repeat' (first
    | with_reducible exact Kept.refl _ | with_reducible assumption
    | with_reducible apply Kept.pre (State.sendRangeMap_kept ..)
    | with_reducible apply Kept.pre (State.refreshIfIdle_kept ..) | with_reducible apply Kept.pre (State.enterLinks_kept ..)
    | with_reducible apply Kept.pre (State.linkCheck_kept ..) | with_reducible refine Kept.ite ?_ ?_ | split | extract_lets
    | dsimp -zeta only)

theorem State.portMissing_kept (s : State) (n : Nat) : Kept s (State.portMissing s n) := by
  unfold State.portMissing
  try extract_lets
  repeat' (first
    | with_reducible exact Kept.refl _ | with_reducible assumption | with_reducible apply Kept.pre (State.setPort_kept ..)
    | with_reducible apply Kept.pre (State.raise_kept ..) | with_reducible refine Kept.ite ?_ ?_ | split
    | with_reducible refine Kept.upd ?_ rfl rfl rfl rfl rfl rfl rfl rfl | extract_lets | dsimp -zeta only)

theorem State.retrain_kept (s : State) (n : Nat) : Kept s (State.retrain s n) := by
  unfold State.retrain
  try extract_lets
  repeat' (first
    | with_reducible exact Kept.refl _ | with_reducible assumption | with_reducible apply Kept.pre (State.setPort_kept ..)
    | with_reducible refine Kept.upd ?_ rfl rfl rfl rfl rfl rfl rfl rfl | extract_lets | dsimp -zeta only)

theorem State.rediscover_kept (s : State) (n : Nat) : Kept s (State.rediscover s n) := by
  unfold State.rediscover
  try extract_lets
  repeat' (first
    | with_reducible exact Kept.refl _ | with_reducible assumption | with_reducible apply Kept.pre (State.retrain_kept ..)
    | with_reducible refine Kept.ite ?_ ?_ | split | extract_lets | dsimp -zeta only)

theorem State.dropPort_kept (s : State) (n : Nat) : Kept s (State.dropPort s n) := by
  unfold State.dropPort
  try extract_lets
  repeat' (first
    | with_reducible exact Kept.refl _ | with_reducible assumption | with_reducible apply Kept.pre (State.portDown_kept ..)
    | with_reducible apply Kept.pre (State.portChanged_kept ..) | with_reducible apply Kept.pre (State.portMissing_kept ..)
    | with_reducible refine Kept.ite ?_ ?_ | split | extract_lets | dsimp -zeta only)

theorem State.goBack_kept (s : State) (n : Nat) : Kept s (State.goBack s n) := by
  unfold State.goBack
  try extract_lets
  repeat' (first
    | with_reducible exact Kept.refl _ | with_reducible assumption | with_reducible apply Kept.pre (State.setPort_kept ..)
    | with_reducible apply Kept.pre (State.sendOut_kept ..) | with_reducible apply Kept.pre (State.dropPort_kept ..)
    | with_reducible refine Kept.ite ?_ ?_ | split | with_reducible refine Kept.upd ?_ rfl rfl rfl rfl rfl rfl rfl rfl
    | extract_lets | dsimp -zeta only)

theorem State.freeSlot_kept (s : State) (n kind : Nat) : Kept s (State.freeSlot s n kind) := by
  unfold State.freeSlot
  try extract_lets
  repeat' (first
    | with_reducible exact Kept.refl _ | with_reducible assumption | with_reducible apply Kept.pre (State.setPort_kept ..)
    | with_reducible refine Kept.upd ?_ rfl rfl rfl rfl rfl rfl rfl rfl | extract_lets | dsimp -zeta only)

theorem State.handOver_kept (s : State) (n : Nat) (k : Packet) (kind : Nat) : Kept s (State.handOver s n k kind) := by
  unfold State.handOver
  try extract_lets
  repeat' (first
    | with_reducible exact Kept.refl _ | with_reducible assumption | with_reducible apply Kept.pre (State.emit_kept ..)
    | with_reducible apply Kept.pre (State.freeSlot_kept ..) | extract_lets | dsimp -zeta only)

theorem State.sendFlowAck_kept (s : State) (slotFlow : Bool) (f : Nat) : Kept s (State.sendFlowAck s slotFlow f) := by
  unfold State.sendFlowAck
  try extract_lets
  repeat' (first
    | with_reducible exact Kept.refl _ | with_reducible assumption | with_reducible apply Kept.pre (State.setFlow_kept ..)
    | with_reducible apply Kept.pre (State.setSlotFlow_kept ..) | with_reducible apply Kept.pre (State.tell_kept ..)
    | with_reducible apply Kept.pre (State.tellSlot_kept ..) | with_reducible refine Kept.ite ?_ ?_ | split
    | with_reducible refine Kept.upd ?_ rfl rfl rfl rfl rfl rfl rfl rfl | extract_lets | dsimp -zeta only)

theorem State.ackIfDue_kept (s : State) (slotFlow : Bool) (f : Nat) : Kept s (State.ackIfDue s slotFlow f) := by
  unfold State.ackIfDue
  try extract_lets
  repeat' (first
    | with_reducible exact Kept.refl _ | with_reducible assumption
    | with_reducible apply Kept.pre (State.sendFlowAck_kept ..) | with_reducible refine Kept.ite ?_ ?_ | split | extract_lets
    | dsimp -zeta only)

theorem State.flowTest_kept (s : State) (n : Nat) (k : Packet) (kind : Nat) : Kept s (State.flowTest s n k kind) := by
  unfold State.flowTest
  try extract_lets
  repeat' (first
    | with_reducible exact Kept.refl _ | with_reducible assumption | with_reducible apply Kept.pre (State.setPort_kept ..)
    | with_reducible apply Kept.pre (State.setFlow_kept ..) | with_reducible apply Kept.pre (State.setSlotFlow_kept ..)
    | with_reducible apply Kept.pre (State.freeSlot_kept ..) | with_reducible apply Kept.pre (State.handOver_kept ..)
    | with_reducible apply Kept.pre (State.ackIfDue_kept ..) | with_reducible refine Kept.ite ?_ ?_ | split
    | with_reducible refine Kept.upd ?_ rfl rfl rfl rfl rfl rfl rfl rfl | extract_lets | dsimp -zeta only)

theorem State.consumePacket_kept (s : State) (n : Nat) (k : Packet) (kind : Nat) : Kept s (State.consumePacket s n k kind) := by
  unfold State.consumePacket
  try extract_lets
  repeat' (first
    | with_reducible exact Kept.refl _ | with_reducible assumption | with_reducible apply Kept.pre (State.setPort_kept ..)
    | with_reducible apply Kept.pre (State.freeSlot_kept ..) | with_reducible apply Kept.pre (State.handOver_kept ..)
    | with_reducible apply Kept.pre (State.flowTest_kept ..) | with_reducible refine Kept.ite ?_ ?_ | split
    | with_reducible refine Kept.upd ?_ rfl rfl rfl rfl rfl rfl rfl rfl | extract_lets | dsimp -zeta only)

theorem State.forwardPacket_kept (s : State) (n : Nat) (k : Packet) (kind : Nat) : Kept s (State.forwardPacket s n k kind) := by
  unfold State.forwardPacket
  try extract_lets
  repeat' (first
    | with_reducible exact Kept.refl _ | with_reducible assumption | with_reducible apply Kept.pre (State.setPort_kept ..)
    | with_reducible apply Kept.pre (State.pumpPort_kept ..) | with_reducible apply Kept.pre (State.queueOn_kept ..)
    | with_reducible apply Kept.pre (State.freeSlot_kept ..) | split
    | with_reducible refine Kept.upd ?_ rfl rfl rfl rfl rfl rfl rfl rfl | extract_lets | dsimp -zeta only)

theorem State.takeHeld_kept (s : State) (c : CtxIdx) : Kept s (State.takeHeld s c) := by
  unfold State.takeHeld
  try extract_lets
  repeat' (first
    | with_reducible exact Kept.refl _ | with_reducible assumption | with_reducible apply Kept.pre (State.setPort_kept ..)
    | with_reducible apply Kept.pre (State.consumePacket_kept ..) | with_reducible refine Kept.ite ?_ ?_
    | with_reducible refine Kept.foldl ?_ (fun _ _ _ => ?_) | split
    | with_reducible refine Kept.foldl_snd ?_ (fun _ _ _ => ?_) | with_reducible refine Kept.foldl_trd ?_ (fun _ _ _ => ?_)
    | with_reducible refine Kept.foldl_fst ?_ (fun _ _ _ => ?_)
    | with_reducible refine Kept.upd ?_ rfl rfl rfl rfl rfl rfl rfl rfl | extract_lets | dsimp -zeta only)

theorem State.flushSlot_kept (k : Nat) (s : State) (k' : Nat) : Kept s (State.flushSlot k s k') := by
  induction k generalizing s k' with
  | zero => exact Kept.refl _
  | succ n ih =>
    unfold State.flushSlot
    try extract_lets
    repeat' (first
      | with_reducible exact Kept.refl _ | with_reducible assumption | with_reducible apply Kept.pre (ih ..)
      | with_reducible apply Kept.pre (State.sendRouted_kept ..) | with_reducible apply Kept.pre (State.setSlotFlow_kept ..)
      | with_reducible refine Kept.ite ?_ ?_ | split | with_reducible refine Kept.upd ?_ rfl rfl rfl rfl rfl rfl rfl rfl
      | extract_lets | dsimp -zeta only)

theorem State.flushFlow_kept (k : Nat) (s : State) (k' : Nat) : Kept s (State.flushFlow k s k') := by
  induction k generalizing s k' with
  | zero => exact Kept.refl _
  | succ n ih =>
    unfold State.flushFlow
    try extract_lets
    repeat' (first
      | with_reducible exact Kept.refl _ | with_reducible assumption | with_reducible apply Kept.pre (ih ..)
      | with_reducible apply Kept.pre (State.sendRouted_kept ..) | with_reducible apply Kept.pre (State.setFlow_kept ..)
      | with_reducible refine Kept.ite ?_ ?_ | split | with_reducible refine Kept.upd ?_ rfl rfl rfl rfl rfl rfl rfl rfl
      | extract_lets | dsimp -zeta only)

theorem State.holdJoin_kept (s : State) (range slot : Nat) (d : Digest) : Kept s (State.holdJoin s range slot d) := by
  unfold State.holdJoin
  try extract_lets
  repeat' (first
    | with_reducible exact Kept.refl _ | with_reducible assumption
    | with_reducible refine Kept.upd ?_ rfl rfl rfl rfl rfl rfl rfl rfl | extract_lets | dsimp -zeta only)

theorem State.takeReportMsg_kept (s : State) (r : CairnReport) : Kept s (State.takeReportMsg s r) := by
  unfold State.takeReportMsg
  try extract_lets
  repeat' (first
    | with_reducible exact Kept.refl _ | with_reducible assumption | with_reducible apply Kept.pre (State.setCtx_kept ..)
    | with_reducible apply Kept.pre (State.gather_kept ..) | with_reducible refine Kept.ite ?_ ?_ | split
    | with_reducible refine Kept.upd ?_ rfl rfl rfl rfl rfl rfl rfl rfl | extract_lets | dsimp -zeta only)

theorem State.clearTimeout_kept (s : State) : Kept s (State.clearTimeout s) := by
  unfold State.clearTimeout
  try extract_lets
  repeat' (first
    | with_reducible exact Kept.refl _ | with_reducible assumption | with_reducible refine Kept.ite ?_ ?_ | split
    | with_reducible refine Kept.upd ?_ rfl rfl rfl rfl rfl rfl rfl rfl | extract_lets | dsimp -zeta only)

theorem State.takeSummary_kept (s : State) (g : Nat) (rs : List CairnReport) (joins : List (BitVec 6 × Digest)) :
    Kept s (State.takeSummary s g rs joins) := by
  unfold State.takeSummary
  try extract_lets
  repeat' (first
    | with_reducible exact Kept.refl _ | with_reducible assumption | with_reducible apply Kept.pre (State.setCtx_kept ..)
    | with_reducible apply Kept.pre (State.tellAll_kept ..) | with_reducible apply Kept.pre (State.gather_kept ..)
    | with_reducible apply Kept.pre (State.holdJoin_kept ..) | with_reducible apply Kept.pre (State.clearTimeout_kept ..)
    | with_reducible refine Kept.ite ?_ ?_ | with_reducible refine Kept.foldl ?_ (fun _ _ _ => ?_) | split
    | with_reducible refine Kept.foldl_snd ?_ (fun _ _ _ => ?_) | with_reducible refine Kept.foldl_trd ?_ (fun _ _ _ => ?_)
    | with_reducible refine Kept.foldl_fst ?_ (fun _ _ _ => ?_)
    | with_reducible refine Kept.upd ?_ rfl rfl rfl rfl rfl rfl rfl rfl | extract_lets | dsimp -zeta only)

theorem State.takeDigest_kept (s : State) (c : CtxIdx) (attempt shard rope : Nat) (d : BitVec 64) :
    Kept s (State.takeDigest s c attempt shard rope d) := by
  unfold State.takeDigest
  try extract_lets
  repeat' (first
    | with_reducible exact Kept.refl _ | with_reducible assumption | with_reducible apply Kept.pre (State.setCtx_kept ..)
    | with_reducible apply Kept.pre (State.twinStage_kept ..)
    | with_reducible refine Kept.trans ?_ (State.twinStage_keptP (by with_reducible assumption))
    | with_reducible apply Kept.pre (State.minorityWithdraws_kept ..) | with_reducible refine Kept.ite ?_ ?_ | split
    | with_reducible refine Kept.upd ?_ rfl rfl rfl rfl rfl rfl rfl rfl | extract_lets | dsimp -zeta only)

theorem State.performWrite_kept (s : State) (r : MemReq) (d : BitVec 272) : Kept s (State.performWrite s r d) := by
  unfold State.performWrite
  try extract_lets
  repeat' (first
    | with_reducible exact Kept.refl _ | with_reducible assumption | with_reducible apply Kept.pre (State.setRaw_kept ..)
    | with_reducible refine Kept.ite ?_ ?_ | split | with_reducible refine Kept.upd ?_ rfl rfl rfl rfl rfl rfl rfl rfl
    | extract_lets | dsimp -zeta only)

theorem State.grant_kept (s : State) (i : Nat) : Kept s (State.grant s i) := by
  unfold State.grant
  try extract_lets
  repeat' (first
    | with_reducible exact Kept.refl _ | with_reducible assumption | with_reducible apply Kept.pre (State.setSub_kept ..)
    | with_reducible apply Kept.pre (State.performWrite_kept ..) | with_reducible refine Kept.ite ?_ ?_ | split
    | with_reducible refine Kept.upd ?_ rfl rfl rfl rfl rfl rfl rfl rfl | extract_lets | dsimp -zeta only)

theorem State.arrive_kept (s : State) (t : TorIdx) (b : Nat) (d : Option (BitVec 272)) : Kept s (State.arrive s t b d) := by
  unfold State.arrive
  try extract_lets
  repeat' (first
    | with_reducible exact Kept.refl _ | with_reducible assumption | with_reducible apply Kept.pre (State.setTor_kept ..)
    | with_reducible apply Kept.pre (State.keepBuf_kept ..) | with_reducible apply Kept.pre (State.progress_kept ..)
    | with_reducible refine Kept.ite ?_ ?_ | with_reducible refine Kept.foldl ?_ (fun _ _ _ => ?_) | split
    | with_reducible refine Kept.foldl_snd ?_ (fun _ _ _ => ?_) | with_reducible refine Kept.foldl_trd ?_ (fun _ _ _ => ?_)
    | with_reducible refine Kept.foldl_fst ?_ (fun _ _ _ => ?_)
    | with_reducible refine Kept.upd ?_ rfl rfl rfl rfl rfl rfl rfl rfl | extract_lets | dsimp -zeta only)

theorem State.passesDone_kept (s : State) : Kept s (State.passesDone s) := by
  unfold State.passesDone
  try extract_lets
  repeat' (first
    | with_reducible exact Kept.refl _ | with_reducible assumption | with_reducible refine Kept.ite ?_ ?_ | split
    | with_reducible refine Kept.upd ?_ rfl rfl rfl rfl rfl rfl rfl rfl | extract_lets | dsimp -zeta only)

theorem State.scrubbed_kept (s : State) (i b : Nat) : Kept s (State.scrubbed s i b) := by
  unfold State.scrubbed
  try extract_lets
  repeat' (first
    | with_reducible exact Kept.refl _ | with_reducible assumption | with_reducible apply Kept.pre (State.setSub_kept ..)
    | with_reducible apply Kept.pre (State.passesDone_kept ..) | with_reducible refine Kept.ite ?_ ?_ | split
    | with_reducible refine Kept.upd ?_ rfl rfl rfl rfl rfl rfl rfl rfl | extract_lets | dsimp -zeta only)

theorem State.finishRead_kept (s : State) (i : Nat) (f : InFlight) (res : ReadRes) : Kept s (State.finishRead s i f res) := by
  unfold State.finishRead
  try extract_lets
  repeat' (first
    | with_reducible exact Kept.refl _ | with_reducible assumption
    | with_reducible apply Kept.pre (State.noteCorrected_kept ..) | with_reducible apply Kept.pre (State.statePoison_kept ..)
    | with_reducible apply Kept.pre (State.memUe_kept ..) | with_reducible apply Kept.pre (State.arrive_kept ..)
    | with_reducible apply Kept.pre (State.scrubbed_kept ..) | with_reducible refine Kept.ite ?_ ?_ | split
    | with_reducible refine Kept.upd ?_ rfl rfl rfl rfl rfl rfl rfl rfl | extract_lets | dsimp -zeta only)

theorem State.readDone_kept (s : State) (i : Nat) (flip : Burst) : Kept s (State.readDone s i flip) := by
  unfold State.readDone
  try extract_lets
  repeat' (first
    | with_reducible exact Kept.refl _ | with_reducible assumption | with_reducible apply Kept.pre (State.setSub_kept ..)
    | with_reducible apply Kept.pre (State.finishRead_kept ..) | split
    | with_reducible refine Kept.upd ?_ rfl rfl rfl rfl rfl rfl rfl rfl | extract_lets | dsimp -zeta only)

theorem State.snoopFor_kept (s : State) (r : MemReq) : Kept s (State.snoopFor s r) := by
  unfold State.snoopFor
  try extract_lets
  repeat' (first
    | with_reducible exact Kept.refl _ | with_reducible assumption | with_reducible apply Kept.pre (State.emit_kept ..)
    | with_reducible refine Kept.ite ?_ ?_ | split | with_reducible refine Kept.upd ?_ rfl rfl rfl rfl rfl rfl rfl rfl
    | extract_lets | dsimp -zeta only)

theorem State.hostRead_kept (s : State) (b : Nat) :
    Kept s (State.hostRead s b).2 := by
  unfold State.hostRead
  try extract_lets
  repeat' (first
    | with_reducible exact Kept.refl _ | with_reducible assumption
    | with_reducible apply Kept.pre (State.countServed_kept ..) | with_reducible apply Kept.pre (State.noteCorrected_kept ..)
    | split | with_reducible refine Kept.upd ?_ rfl rfl rfl rfl rfl rfl rfl rfl | extract_lets | dsimp -zeta only)

theorem State.hostRead_keptP {s : State} {b : Nat} {x y} (heqn : State.hostRead s b = (x, y)) :
    Kept s y := by
  have := State.hostRead_kept s b
  rwa [heqn] at this

theorem State.recordUes_kept (s : State) (source : Nat) (rs : List (Nat × ReadRes)) : Kept s (State.recordUes s source rs) := by
  unfold State.recordUes
  try dsimp only
  repeat' (first
    | with_reducible exact Kept.refl _ | with_reducible assumption | with_reducible apply Kept.pre (State.memUe_kept ..)
    | with_reducible refine Kept.ite ?_ ?_ | split | with_reducible refine Kept.upd ?_ rfl rfl rfl rfl rfl rfl rfl rfl
    | dsimp only)

theorem State.trackLine_kept (s : State) (line : Nat) : Kept s (State.trackLine s line) := by
  unfold State.trackLine
  try extract_lets
  repeat' (first
    | with_reducible exact Kept.refl _ | with_reducible assumption | with_reducible apply Kept.pre (State.emit_kept ..)
    | with_reducible refine Kept.ite ?_ ?_ | split | with_reducible refine Kept.upd ?_ rfl rfl rfl rfl rfl rfl rfl rfl
    | extract_lets | dsimp -zeta only)

theorem State.notePoisonRead_kept (s : State) (rs : List ReadRes) : Kept s (State.notePoisonRead s rs) := by
  unfold State.notePoisonRead
  try extract_lets
  repeat' (first
    | with_reducible exact Kept.refl _ | with_reducible assumption | with_reducible refine Kept.ite ?_ ?_ | split
    | with_reducible refine Kept.upd ?_ rfl rfl rfl rfl rfl rfl rfl rfl | extract_lets | dsimp -zeta only)

theorem State.hostStore_kept (s : State) (b : Nat) (p : BitVec 256) (poison : Bool) : Kept s (State.hostStore s b p poison) := by
  unfold State.hostStore
  try extract_lets
  repeat' (first
    | with_reducible exact Kept.refl _ | with_reducible assumption | with_reducible apply Kept.pre (State.serveWrite_kept ..)
    | with_reducible refine Kept.ite ?_ ?_ | split | extract_lets | dsimp -zeta only)

theorem State.hostWrite_kept (s : State) (hpa : Nat) (data : BitVec 512) (poison : Bool) :
    Kept s (State.hostWrite s hpa data poison) := by
  unfold State.hostWrite
  try extract_lets
  repeat' (first
    | with_reducible exact Kept.refl _ | with_reducible assumption | with_reducible apply Kept.pre (State.hostStore_kept ..)
    | with_reducible refine Kept.ite ?_ ?_ | split | with_reducible refine Kept.upd ?_ rfl rfl rfl rfl rfl rfl rfl rfl
    | extract_lets | dsimp -zeta only)

theorem State.dropLine_kept (s : State) (hpa : Nat) : Kept s (State.dropLine s hpa) := by
  unfold State.dropLine
  try extract_lets
  repeat' (first
    | with_reducible exact Kept.refl _ | with_reducible assumption | with_reducible apply Kept.pre (State.setCtx_kept ..)
    | with_reducible apply Kept.pre (State.readLine_kept ..) | with_reducible refine Kept.foldl ?_ (fun _ _ _ => ?_)
    | with_reducible refine Kept.foldl_snd ?_ (fun _ _ _ => ?_) | with_reducible refine Kept.foldl_trd ?_ (fun _ _ _ => ?_)
    | with_reducible refine Kept.foldl_fst ?_ (fun _ _ _ => ?_)
    | with_reducible refine Kept.upd ?_ rfl rfl rfl rfl rfl rfl rfl rfl | extract_lets | dsimp -zeta only)

theorem State.progressAll_kept (s : State) (c : CtxIdx) (im : Sched) : Kept s (State.progressAll s c im) := by
  unfold State.progressAll
  try extract_lets
  repeat' (first
    | with_reducible exact Kept.refl _ | with_reducible assumption | with_reducible apply Kept.pre (State.progress_kept ..)
    | with_reducible refine Kept.ite ?_ ?_ | with_reducible refine Kept.foldl ?_ (fun _ _ _ => ?_) | split
    | with_reducible refine Kept.foldl_snd ?_ (fun _ _ _ => ?_) | with_reducible refine Kept.foldl_trd ?_ (fun _ _ _ => ?_)
    | with_reducible refine Kept.foldl_fst ?_ (fun _ _ _ => ?_) | extract_lets | dsimp -zeta only)

theorem State.landBursts_kept (s : State) (b : Nat) (bursts : List (BitVec 272)) : Kept s (State.landBursts s b bursts) := by
  unfold State.landBursts
  try extract_lets
  repeat' (first
    | with_reducible exact Kept.refl _ | with_reducible assumption | with_reducible apply Kept.pre (State.serveWrite_kept ..)
    | with_reducible refine Kept.foldl ?_ (fun _ _ _ => ?_) | with_reducible refine Kept.foldl_snd ?_ (fun _ _ _ => ?_)
    | with_reducible refine Kept.foldl_trd ?_ (fun _ _ _ => ?_) | with_reducible refine Kept.foldl_fst ?_ (fun _ _ _ => ?_)
    | extract_lets | dsimp -zeta only)

theorem State.releaseCatchUp_kept (s : State) (c : CtxIdx) (im : Sched) (was : Bool) :
    Kept s (State.releaseCatchUp s c im was) := by
  unfold State.releaseCatchUp
  try extract_lets
  repeat' (first
    | with_reducible exact Kept.refl _ | with_reducible assumption
    | with_reducible apply Kept.pre (State.releaseTors_kept ..) | with_reducible refine Kept.ite ?_ ?_ | split | extract_lets
    | dsimp -zeta only)

theorem State.finishCopy_kept (s : State) (c : CtxIdx) (im : Sched) : Kept s (State.finishCopy s c im) := by
  unfold State.finishCopy
  try extract_lets
  repeat' (first
    | with_reducible exact Kept.refl _ | with_reducible assumption | with_reducible apply Kept.pre (State.setCtx_kept ..)
    | with_reducible apply Kept.pre (State.releaseCatchUp_kept ..)
    | with_reducible refine Kept.upd ?_ rfl rfl rfl rfl rfl rfl rfl rfl | extract_lets | dsimp -zeta only)

theorem State.landItem_kept (s : State) (c : CtxIdx) (im : Sched) (it : CopyItem) : Kept s (State.landItem s c im it) := by
  unfold State.landItem
  try extract_lets
  repeat' (first
    | with_reducible exact Kept.refl _ | with_reducible assumption | with_reducible apply Kept.pre (State.setCtx_kept ..)
    | with_reducible apply Kept.pre (State.writeBursts_kept ..) | with_reducible apply Kept.pre (State.mergeOrPoison_kept ..)
    | with_reducible apply Kept.pre (State.setStamps_kept ..) | with_reducible refine Kept.ite ?_ ?_
    | with_reducible refine Kept.foldl ?_ (fun _ _ _ => ?_) | split
    | with_reducible refine Kept.foldl_snd ?_ (fun _ _ _ => ?_) | with_reducible refine Kept.foldl_trd ?_ (fun _ _ _ => ?_)
    | with_reducible refine Kept.foldl_fst ?_ (fun _ _ _ => ?_)
    | with_reducible refine Kept.upd ?_ rfl rfl rfl rfl rfl rfl rfl rfl | extract_lets | dsimp -zeta only)

theorem State.takeBelayState_kept (s : State) (c : CtxIdx) (im : Sched) (subject : Nat) (model : Digest) (entries : List (Nat × BitVec 64)) (ceil : List (Nat × BitVec 8)) (run : BitVec 8) (pos : Word) :
    Kept s (State.takeBelayState s c im subject model entries ceil run pos) := by
  unfold State.takeBelayState
  try extract_lets
  repeat' (first
    | with_reducible exact Kept.refl _ | with_reducible assumption | with_reducible apply Kept.pre (State.setCtx_kept ..)
    | with_reducible apply Kept.pre (State.raise_kept ..) | with_reducible apply Kept.pre (State.storeSwb_kept ..)
    | with_reducible apply Kept.pre (State.releaseCatchUp_kept ..) | with_reducible refine Kept.ite ?_ ?_
    | with_reducible refine Kept.foldl ?_ (fun _ _ _ => ?_) | split
    | with_reducible refine Kept.foldl_snd ?_ (fun _ _ _ => ?_) | with_reducible refine Kept.foldl_trd ?_ (fun _ _ _ => ?_)
    | with_reducible refine Kept.foldl_fst ?_ (fun _ _ _ => ?_)
    | with_reducible refine Kept.upd ?_ rfl rfl rfl rfl rfl rfl rfl rfl | extract_lets | dsimp -zeta only)

theorem State.hostDone_kept (s : State) (c : CtxIdx) : Kept s (State.hostDone s c) := by
  unfold State.hostDone
  try extract_lets
  repeat' (first
    | with_reducible exact Kept.refl _ | with_reducible assumption | with_reducible apply Kept.pre (State.setCtx_kept ..)
    | with_reducible refine Kept.upd ?_ rfl rfl rfl rfl rfl rfl rfl rfl | extract_lets | dsimp -zeta only)

theorem State.hostAsk_kept (s : State) (c : CtxIdx) (o : Output) : Kept s (State.hostAsk s c o) := by
  unfold State.hostAsk
  try extract_lets
  repeat' (first
    | with_reducible exact Kept.refl _ | with_reducible assumption | with_reducible apply Kept.pre (State.emit_kept ..)
    | with_reducible apply Kept.pre (State.setCtx_kept ..) | with_reducible refine Kept.ite ?_ ?_ | split
    | with_reducible refine Kept.upd ?_ rfl rfl rfl rfl rfl rfl rfl rfl | extract_lets | dsimp -zeta only)

theorem State.ringWrite_kept (s : State) (c : CtxIdx) (value : Word) : Kept s (State.ringWrite s c value) := by
  unfold State.ringWrite
  try extract_lets
  repeat' (first
    | with_reducible exact Kept.refl _ | with_reducible assumption | with_reducible apply Kept.pre (State.setCtx_kept ..)
    | with_reducible apply Kept.pre (State.readLine_kept ..) | with_reducible refine Kept.ite ?_ ?_ | split
    | with_reducible refine Kept.upd ?_ rfl rfl rfl rfl rfl rfl rfl rfl | extract_lets | dsimp -zeta only)

theorem State.takeLine_kept (s : State) (c : CtxIdx) (producer head : Word) (entries : List (List Byte)) :
    Kept s (State.takeLine s c producer head entries) := by
  unfold State.takeLine
  try extract_lets
  repeat' (first
    | with_reducible exact Kept.refl _ | with_reducible assumption | with_reducible apply Kept.pre (State.emits_kept ..)
    | with_reducible apply Kept.pre (State.setCtx_kept ..) | with_reducible apply Kept.pre (State.hostBlocked_kept ..)
    | with_reducible apply Kept.pre (State.flush_kept ..) | with_reducible apply Kept.pre (State.scanRing_kept ..)
    | with_reducible apply Kept.pre (State.tryStart_kept ..) | with_reducible refine Kept.ite ?_ ?_ | split
    | with_reducible refine Kept.upd ?_ rfl rfl rfl rfl rfl rfl rfl rfl | extract_lets | dsimp -zeta only)

theorem State.askBuffer_kept (s : State) (c : CtxIdx) (e : FeedEntry) : Kept s (State.askBuffer s c e) := by
  unfold State.askBuffer
  try extract_lets
  repeat' (first
    | with_reducible exact Kept.refl _ | with_reducible assumption | with_reducible apply Kept.pre (State.hostAsk_kept ..)
    | with_reducible refine Kept.ite ?_ ?_ | split | extract_lets | dsimp -zeta only)

theorem State.bufferBytes_kept (s : State) (c : CtxIdx) (e : FeedEntry) (r : HostRead (List Byte)) :
    Kept s (State.bufferBytes s c e r).2 := by
  unfold State.bufferBytes
  try extract_lets
  repeat' (first
    | with_reducible exact Kept.refl _ | with_reducible assumption | with_reducible apply Kept.pre (State.readBytes_kept ..)
    | with_reducible refine Kept.trans ?_ (State.readBytes_keptP (by with_reducible assumption))
    | with_reducible apply Kept.pre (State.hostDone_kept ..) | with_reducible refine Kept.ite ?_ ?_ | split
    | with_reducible refine Kept.upd ?_ rfl rfl rfl rfl rfl rfl rfl rfl | extract_lets | dsimp -zeta only)

theorem State.bufferBytes_keptP {s : State} {c : CtxIdx} {e : FeedEntry} {r : HostRead (List Byte)} {x y} (heqn : State.bufferBytes s c e r = (x, y)) :
    Kept s y := by
  have := State.bufferBytes_kept s c e r
  rwa [heqn] at this

theorem State.loadCatchUp_kept (s : State) (c : CtxIdx) : Kept s (State.loadCatchUp s c) := by
  unfold State.loadCatchUp
  try extract_lets
  repeat' (first
    | with_reducible exact Kept.refl _ | with_reducible assumption | with_reducible apply Kept.pre (State.setCtx_kept ..)
    | with_reducible refine Kept.ite ?_ ?_ | split | with_reducible refine Kept.upd ?_ rfl rfl rfl rfl rfl rfl rfl rfl
    | extract_lets | dsimp -zeta only)

theorem State.retake_kept (s : State) : Kept s (State.retake s) := by
  unfold State.retake
  try extract_lets
  repeat' (first
    | with_reducible exact Kept.refl _ | with_reducible assumption | with_reducible refine Kept.ite ?_ ?_ | split
    | with_reducible refine Kept.upd ?_ rfl rfl rfl rfl rfl rfl rfl rfl | extract_lets | dsimp -zeta only)

theorem State.finishLoad_kept (s : State) (c : CtxIdx) (e : FeedEntry) (im : Sched) : Kept s (State.finishLoad s c e im) := by
  unfold State.finishLoad
  try extract_lets
  repeat' (first
    | with_reducible exact Kept.refl _ | with_reducible assumption | with_reducible apply Kept.pre (State.setCtx_kept ..)
    | with_reducible apply Kept.pre (State.endEntry_kept ..) | with_reducible apply Kept.pre (State.scanRing_kept ..)
    | with_reducible apply Kept.pre (State.storeSwb_kept ..) | with_reducible apply Kept.pre (State.initRecords_kept ..)
    | with_reducible apply Kept.pre (State.reportToSubjects_kept ..)
    | with_reducible apply Kept.pre (State.prepareStep_kept ..) | with_reducible apply Kept.pre (State.loadCatchUp_kept ..)
    | with_reducible apply Kept.pre (State.retake_kept ..)
    | with_reducible refine Kept.upd ?_ rfl rfl rfl rfl rfl rfl rfl rfl | extract_lets | dsimp -zeta only)

theorem State.failLoad_kept (s : State) (c : CtxIdx) (e : FeedEntry) (cause : Nat) (detail : Word) :
    Kept s (State.failLoad s c e cause detail) := by
  unfold State.failLoad
  try extract_lets
  repeat' (first
    | with_reducible exact Kept.refl _ | with_reducible assumption | with_reducible apply Kept.pre (State.setCtx_kept ..)
    | with_reducible apply Kept.pre (State.endEntry_kept ..) | with_reducible apply Kept.pre (State.scanRing_kept ..)
    | with_reducible refine Kept.upd ?_ rfl rfl rfl rfl rfl rfl rfl rfl | extract_lets | dsimp -zeta only)

theorem State.stepList_kept (s : State) (e : FeedEntry) (im : Sched) (r : HostRead (List (BitVec 128))) :
    Kept s (State.stepList s e im r).2 := by
  unfold State.stepList
  try extract_lets
  repeat' (first
    | with_reducible exact Kept.refl _ | with_reducible assumption | with_reducible apply Kept.pre (State.readBytes_kept ..)
    | with_reducible refine Kept.trans ?_ (State.readBytes_keptP (by with_reducible assumption))
    | with_reducible refine Kept.ite ?_ ?_ | split | with_reducible refine Kept.upd ?_ rfl rfl rfl rfl rfl rfl rfl rfl
    | extract_lets | dsimp -zeta only)

theorem State.stepList_keptP {s : State} {e : FeedEntry} {im : Sched} {r : HostRead (List (BitVec 128))} {x y} (heqn : State.stepList s e im r = (x, y)) :
    Kept s y := by
  have := State.stepList_kept s e im r
  rwa [heqn] at this

theorem State.askInputs_kept (s : State) (c : CtxIdx) (im : Sched) (q : StepEntry) : Kept s (State.askInputs s c im q) := by
  unfold State.askInputs
  try extract_lets
  repeat' (first
    | with_reducible exact Kept.refl _ | with_reducible assumption | with_reducible apply Kept.pre (State.hostAsk_kept ..)
    | with_reducible refine Kept.ite ?_ ?_ | with_reducible refine Kept.foldl ?_ (fun _ _ _ => ?_) | split
    | with_reducible refine Kept.foldl_snd ?_ (fun _ _ _ => ?_) | with_reducible refine Kept.foldl_trd ?_ (fun _ _ _ => ?_)
    | with_reducible refine Kept.foldl_fst ?_ (fun _ _ _ => ?_) | extract_lets | dsimp -zeta only)

theorem State.inputBytes_kept (s : State) (c : CtxIdx) (d : BitVec 128) (r : HostRead (List Byte)) :
    Kept s (State.inputBytes s c d r).2 := by
  unfold State.inputBytes
  try extract_lets
  repeat' (first
    | with_reducible exact Kept.refl _ | with_reducible assumption | with_reducible apply Kept.pre (State.readBytes_kept ..)
    | with_reducible refine Kept.trans ?_ (State.readBytes_keptP (by with_reducible assumption))
    | with_reducible apply Kept.pre (State.hostDone_kept ..) | with_reducible refine Kept.ite ?_ ?_ | split
    | with_reducible refine Kept.upd ?_ rfl rfl rfl rfl rfl rfl rfl rfl | extract_lets | dsimp -zeta only)

theorem State.inputBytes_keptP {s : State} {c : CtxIdx} {d : BitVec 128} {r : HostRead (List Byte)} {x y} (heqn : State.inputBytes s c d r = (x, y)) :
    Kept s y := by
  have := State.inputBytes_kept s c d r
  rwa [heqn] at this

theorem State.dropStep_kept (s : State) (c : CtxIdx) (q : StepEntry) : Kept s (State.dropStep s c q) := by
  unfold State.dropStep
  try extract_lets
  repeat' (first
    | with_reducible exact Kept.refl _ | with_reducible assumption | with_reducible apply Kept.pre (State.setCtx_kept ..)
    | with_reducible apply Kept.pre (State.post_kept ..) | with_reducible apply Kept.pre (State.writeConsumer_kept ..)
    | with_reducible apply Kept.pre (State.scanRing_kept ..) | with_reducible apply Kept.pre (State.tryStart_kept ..)
    | with_reducible refine Kept.upd ?_ rfl rfl rfl rfl rfl rfl rfl rfl | extract_lets | dsimp -zeta only)

theorem State.beginCkpt_kept (s : State) (c : CtxIdx) (im : Sched) (e : FeedEntry) : Kept s (State.beginCkpt s c im e) := by
  unfold State.beginCkpt
  try extract_lets
  repeat' (first
    | with_reducible exact Kept.refl _ | with_reducible assumption | with_reducible apply Kept.pre (State.setCtx_kept ..)
    | with_reducible apply Kept.pre (State.statePoison_kept ..) | with_reducible apply Kept.pre (State.writeBytes_kept ..)
    | with_reducible apply Kept.pre (State.endEntry_kept ..) | with_reducible apply Kept.pre (State.snapshot_kept ..)
    | with_reducible refine Kept.trans ?_ (State.snapshot_keptP (by with_reducible assumption))
    | with_reducible apply Kept.pre (State.hostAsk_kept ..) | with_reducible refine Kept.ite ?_ ?_ | split
    | with_reducible refine Kept.upd ?_ rfl rfl rfl rfl rfl rfl rfl rfl | extract_lets | dsimp -zeta only)

theorem State.nextCkpt_kept (s : State) (c : CtxIdx) (im : Sched) (l : List FeedEntry) : Kept s (State.nextCkpt s c im l) := by
  induction l generalizing s c im with
  | nil => exact Kept.refl _
  | cons x l ih =>
    unfold State.nextCkpt
    try extract_lets
    repeat' (first
      | with_reducible exact Kept.refl _ | with_reducible assumption | with_reducible apply Kept.pre (ih ..)
      | with_reducible apply Kept.pre (State.setCtx_kept ..) | with_reducible apply Kept.pre (State.beginCkpt_kept ..)
      | split | with_reducible refine Kept.upd ?_ rfl rfl rfl rfl rfl rfl rfl rfl | extract_lets | dsimp -zeta only)

theorem State.postAbort_kept (s : State) (c : CtxIdx) (status : Nat) : Kept s (State.postAbort s c status) := by
  unfold State.postAbort
  try extract_lets
  repeat' (first
    | with_reducible exact Kept.refl _ | with_reducible assumption | with_reducible apply Kept.pre (State.post_kept ..)
    | extract_lets | dsimp -zeta only)

theorem State.abortReq_kept (s : State) (c : CtxIdx) : Kept s (State.abortReq s c) := by
  unfold State.abortReq
  try extract_lets
  repeat' (first
    | with_reducible exact Kept.refl _ | with_reducible assumption | with_reducible apply Kept.pre (State.setCtx_kept ..)
    | with_reducible apply Kept.pre (State.scanRing_kept ..) | with_reducible apply Kept.pre (State.abortRun_kept ..)
    | with_reducible apply Kept.pre (State.abortOp_kept ..) | with_reducible apply Kept.pre (State.nextCkpt_kept ..)
    | with_reducible apply Kept.pre (State.postAbort_kept ..) | with_reducible refine Kept.ite ?_ ?_ | split
    | with_reducible refine Kept.upd ?_ rfl rfl rfl rfl rfl rfl rfl rfl | extract_lets | dsimp -zeta only)

theorem State.resetCxl_kept (s : State) : Kept s (State.resetCxl s) := by
  unfold State.resetCxl
  try extract_lets
  repeat' (first
    | with_reducible exact Kept.refl _ | with_reducible assumption | with_reducible apply Kept.pre (State.setCtx_kept ..)
    | with_reducible refine Kept.foldl ?_ (fun _ _ _ => ?_) | with_reducible refine Kept.foldl_snd ?_ (fun _ _ _ => ?_)
    | with_reducible refine Kept.foldl_trd ?_ (fun _ _ _ => ?_) | with_reducible refine Kept.foldl_fst ?_ (fun _ _ _ => ?_)
    | with_reducible refine Kept.upd ?_ rfl rfl rfl rfl rfl rfl rfl rfl | extract_lets | dsimp -zeta only)

theorem State.reissueCtx_kept (s : State) (c : CtxIdx) : Kept s (State.reissueCtx s c) := by
  unfold State.reissueCtx
  try extract_lets
  repeat' (first
    | with_reducible exact Kept.refl _ | with_reducible assumption | with_reducible apply Kept.pre (State.setCtx_kept ..)
    | with_reducible apply Kept.pre (State.readLine_kept ..) | with_reducible apply Kept.pre (State.snapshot_kept ..)
    | with_reducible refine Kept.trans ?_ (State.snapshot_keptP (by with_reducible assumption))
    | with_reducible apply Kept.pre (State.hostAsk_kept ..) | with_reducible apply Kept.pre (State.askBuffer_kept ..)
    | with_reducible refine Kept.ite ?_ ?_ | with_reducible refine Kept.foldl ?_ (fun _ _ _ => ?_) | split
    | with_reducible refine Kept.foldl_snd ?_ (fun _ _ _ => ?_) | with_reducible refine Kept.foldl_trd ?_ (fun _ _ _ => ?_)
    | with_reducible refine Kept.foldl_fst ?_ (fun _ _ _ => ?_)
    | with_reducible refine Kept.upd ?_ rfl rfl rfl rfl rfl rfl rfl rfl | extract_lets | dsimp -zeta only)

end Sys2Proof.Machine
end

