-- ==== Sys2Proof/Laws/KeptService.lean ====
section
/-! SUPPORT. What the shared operations keep (Laws/Kept): reset and bring-up, dumps, register writes, management and
security. -/

namespace Sys2Proof.Machine
open Sys2Proof

theorem Kept.cleared {s t u : State} (h : Kept s t) (h1 : u.pending = t.pending) (h2 : u.fuses = t.fuses)
    (h3 : u.rangesHeld = true) (h4 : memWf u.mem.cells = true) : Kept s u :=
  h.trans ⟨h1, fun k => ⟨by simpa only [State.slot0Kept, h2] using k, by rw [h2]; exact Fuses.keeps_refl _⟩, fun _ => h3, fun _ => h4⟩

theorem State.enterReset_kept (s : State) : Kept s (State.enterReset s) := by
  unfold State.enterReset
  split
  rename_i b t heq
  have h : Kept s t := by
    have e : t = (b, t).2 := rfl
    rw [e, ← heq]
    split
    · exact State.takeFree_kept s 1
    · exact Kept.refl _
  dsimp only
  exact Kept.cleared h rfl rfl rfl rfl

theorem State.losePower_kept (s : State) : Kept s (State.losePower s) := by
  unfold State.losePower
  try extract_lets
  repeat' (first
    | with_reducible exact Kept.refl _ | with_reducible assumption | with_reducible apply Kept.pre (State.enterReset_kept ..)
    | with_reducible refine Kept.upd ?_ rfl rfl rfl rfl rfl rfl rfl rfl | extract_lets | dsimp -zeta only)

theorem State.sensePins_kept (s : State) : Kept s (State.sensePins s) := by
  unfold State.sensePins
  try extract_lets
  repeat' (first
    | with_reducible exact Kept.refl _ | with_reducible assumption
    | with_reducible refine Kept.upd ?_ rfl rfl rfl rfl rfl rfl rfl rfl | extract_lets | dsimp -zeta only)

theorem State.filtered_kept (s : State) (us : BitVec 16) :
    Kept s (State.filtered s us).2 := by
  unfold State.filtered
  try extract_lets
  repeat' (first
    | with_reducible exact Kept.refl _ | with_reducible assumption | with_reducible apply Kept.pre (State.takeFree_kept ..)
    | with_reducible refine Kept.trans ?_ (State.takeFree_keptP (by with_reducible assumption))
    | with_reducible refine Kept.ite ?_ ?_ | split | extract_lets | dsimp -zeta only)

theorem State.filtered_keptP {s : State} {us : BitVec 16} {x y} (heqn : State.filtered s us = (x, y)) :
    Kept s y := by
  have := State.filtered_kept s us
  rwa [heqn] at this

theorem State.tryBringUp_kept (s : State) (source : BitVec 2) : Kept s (State.tryBringUp s source) := by
  unfold State.tryBringUp
  try extract_lets
  repeat' (first
    | with_reducible exact Kept.refl _ | with_reducible assumption | with_reducible refine Kept.ite ?_ ?_ | split
    | with_reducible refine Kept.upd ?_ rfl rfl rfl rfl rfl rfl rfl rfl | extract_lets | dsimp -zeta only)

theorem State.meanPower_kept (s : State) (ws : List (BitVec 16)) :
    Kept s (State.meanPower s ws).2 := by
  unfold State.meanPower
  try extract_lets
  repeat' (first
    | with_reducible exact Kept.refl _ | with_reducible assumption | with_reducible apply Kept.pre (State.takeFree_kept ..)
    | with_reducible refine Kept.trans ?_ (State.takeFree_keptP (by with_reducible assumption))
    | with_reducible refine Kept.ite ?_ ?_ | with_reducible refine Kept.foldl ?_ (fun _ _ _ => ?_) | split
    | with_reducible refine Kept.foldl_snd ?_ (fun _ _ _ => ?_) | with_reducible refine Kept.foldl_trd ?_ (fun _ _ _ => ?_)
    | with_reducible refine Kept.foldl_fst ?_ (fun _ _ _ => ?_) | extract_lets | dsimp -zeta only)

theorem State.meanPower_keptP {s : State} {ws : List (BitVec 16)} {x y} (heqn : State.meanPower s ws = (x, y)) :
    Kept s y := by
  have := State.meanPower_kept s ws
  rwa [heqn] at this

theorem State.supply_kept (s : State) :
    Kept s (State.supply s).2 := by
  unfold State.supply
  try extract_lets
  repeat' (first
    | with_reducible exact Kept.refl _ | with_reducible assumption | with_reducible apply Kept.pre (State.takeFree_kept ..)
    | with_reducible refine Kept.trans ?_ (State.takeFree_keptP (by with_reducible assumption))
    | with_reducible refine Kept.ite ?_ ?_ | split | extract_lets | dsimp -zeta only)

theorem State.supply_keptP {s : State} {x y} (heqn : State.supply s = (x, y)) :
    Kept s y := by
  have := State.supply_kept s
  rwa [heqn] at this

theorem State.govern_kept (s : State) (past : Bool) : Kept s (State.govern s past) := by
  unfold State.govern
  try extract_lets
  repeat' (first
    | with_reducible exact Kept.refl _ | with_reducible assumption | with_reducible apply Kept.pre (State.takeFree_kept ..)
    | with_reducible refine Kept.trans ?_ (State.takeFree_keptP (by with_reducible assumption))
    | with_reducible apply Kept.pre (State.raise_kept ..) | with_reducible apply Kept.pre (State.supply_kept ..)
    | with_reducible refine Kept.trans ?_ (State.supply_keptP (by with_reducible assumption))
    | with_reducible refine Kept.ite ?_ ?_ | split | with_reducible refine Kept.upd ?_ rfl rfl rfl rfl rfl rfl rfl rfl
    | extract_lets | dsimp -zeta only)

theorem State.noteStart_kept (s : State) (e : StartEntry) : Kept s (State.noteStart s e) := by
  unfold State.noteStart
  try extract_lets
  repeat' (first
    | with_reducible exact Kept.refl _ | with_reducible assumption
    | with_reducible refine Kept.upd ?_ rfl rfl rfl rfl rfl rfl rfl rfl | extract_lets | dsimp -zeta only)

theorem State.selectOptions_kept (s : State) : Kept s (State.selectOptions s) := by
  unfold State.selectOptions
  try extract_lets
  repeat' (first
    | with_reducible exact Kept.refl _ | with_reducible assumption | with_reducible refine Kept.ite ?_ ?_ | split
    | with_reducible refine Kept.upd ?_ rfl rfl rfl rfl rfl rfl rfl rfl | extract_lets | dsimp -zeta only)

theorem State.applyFuseRepairs_kept (s : State) : Kept s (State.applyFuseRepairs s) := by
  unfold State.applyFuseRepairs
  try extract_lets
  repeat' (first
    | with_reducible exact Kept.refl _ | with_reducible assumption | with_reducible apply Kept.pre (State.mapOutTor_kept ..)
    | with_reducible apply Kept.pre (State.mapOutRow_kept ..) | with_reducible refine Kept.foldl ?_ (fun _ _ _ => ?_) | split
    | with_reducible refine Kept.foldl_snd ?_ (fun _ _ _ => ?_) | with_reducible refine Kept.foldl_trd ?_ (fun _ _ _ => ?_)
    | with_reducible refine Kept.foldl_fst ?_ (fun _ _ _ => ?_)
    | with_reducible refine Kept.upd ?_ rfl rfl rfl rfl rfl rfl rfl rfl | extract_lets | dsimp -zeta only)

theorem State.bootStep2_kept (s : State) : Kept s (State.bootStep2 s) := by
  unfold State.bootStep2
  try extract_lets
  repeat' (first
    | with_reducible exact Kept.refl _ | with_reducible assumption | with_reducible apply Kept.pre (State.raise_kept ..)
    | with_reducible apply Kept.pre (State.noteStart_kept ..) | with_reducible apply Kept.pre (State.selectOptions_kept ..)
    | with_reducible refine Kept.ite ?_ ?_ | split | with_reducible refine Kept.upd ?_ rfl rfl rfl rfl rfl rfl rfl rfl
    | extract_lets | dsimp -zeta only)

theorem State.bootStep3_kept (s : State) : Kept s (State.bootStep3 s) := by
  unfold State.bootStep3
  try extract_lets
  repeat' (first
    | with_reducible exact Kept.refl _ | with_reducible assumption | with_reducible apply Kept.pre (State.failStart_kept ..)
    | with_reducible refine Kept.ite ?_ ?_ | split | with_reducible refine Kept.upd ?_ rfl rfl rfl rfl rfl rfl rfl rfl
    | extract_lets | dsimp -zeta only)

theorem State.beginLinks_kept (s : State) : Kept s (State.beginLinks s) := by
  unfold State.beginLinks
  try extract_lets
  repeat' (first
    | with_reducible exact Kept.refl _ | with_reducible assumption | with_reducible apply Kept.pre (State.setPort_kept ..)
    | with_reducible apply Kept.pre (State.raise_kept ..) | with_reducible apply Kept.pre (State.linkCheck_kept ..)
    | with_reducible refine Kept.ite ?_ ?_ | with_reducible refine Kept.foldl ?_ (fun _ _ _ => ?_) | split
    | with_reducible refine Kept.foldl_snd ?_ (fun _ _ _ => ?_) | with_reducible refine Kept.foldl_trd ?_ (fun _ _ _ => ?_)
    | with_reducible refine Kept.foldl_fst ?_ (fun _ _ _ => ?_)
    | with_reducible refine Kept.upd ?_ rfl rfl rfl rfl rfl rfl rfl rfl | extract_lets | dsimp -zeta only)

theorem State.bootWith_kept (s : State) (w : Wihorn) (src : BitVec 2) : Kept s (State.bootWith s w src) := by
  unfold State.bootWith
  try extract_lets
  repeat' (first
    | with_reducible exact Kept.refl _ | with_reducible assumption
    | with_reducible apply Kept.pre (State.applyWihorn_kept ..) | with_reducible apply Kept.pre (State.beginLinks_kept ..)
    | with_reducible refine Kept.upd ?_ rfl rfl rfl rfl rfl rfl rfl rfl | extract_lets | dsimp -zeta only)

theorem State.bootImages_kept (s : State) (l : List (List Byte × BitVec 2)) : Kept s (State.bootImages s l) := by
  induction l generalizing s with
  | nil => exact State.failStart_kept ..
  | cons x l ih =>
    unfold State.bootImages
    split
    · exact ih s
    · split
      · exact State.bootWith_kept ..
      · exact (State.reportRefusal_kept ..).trans (ih _)

theorem State.bootStep4_kept (s : State) : Kept s (State.bootStep4 s) := by
  unfold State.bootStep4
  try extract_lets
  repeat' (first
    | with_reducible exact Kept.refl _ | with_reducible assumption | with_reducible apply Kept.pre (State.bootImages_kept ..)
    | with_reducible refine Kept.ite ?_ ?_ | split | extract_lets | dsimp -zeta only)

theorem State.selfCheck_kept (s : State) (fs : List SelfCheckFault) : Kept s (State.selfCheck s fs) := by
  unfold State.selfCheck
  try extract_lets
  repeat' (first
    | with_reducible exact Kept.refl _ | with_reducible assumption | with_reducible apply Kept.pre (State.mapOutTor_kept ..)
    | with_reducible apply Kept.pre (State.mapOutRow_kept ..) | with_reducible refine Kept.ite ?_ ?_
    | with_reducible refine Kept.foldl ?_ (fun _ _ _ => ?_) | split
    | with_reducible refine Kept.foldl_snd ?_ (fun _ _ _ => ?_) | with_reducible refine Kept.foldl_trd ?_ (fun _ _ _ => ?_)
    | with_reducible refine Kept.foldl_fst ?_ (fun _ _ _ => ?_)
    | with_reducible refine Kept.upd ?_ rfl rfl rfl rfl rfl rfl rfl rfl | extract_lets | dsimp -zeta only)

theorem State.noteHang_kept (s : State) (block : BitVec 16) (kind : BitVec 4) (lastProgress : BitVec 32) :
    Kept s (State.noteHang s block kind lastProgress) := by
  unfold State.noteHang
  try extract_lets
  repeat' (first
    | with_reducible exact Kept.refl _ | with_reducible assumption
    | with_reducible refine Kept.upd ?_ rfl rfl rfl rfl rfl rfl rfl rfl | extract_lets | dsimp -zeta only)

theorem State.secondHang_kept (s : State) (block : BitVec 16) (kind : BitVec 4) (lastProgress : BitVec 32) :
    Kept s (State.secondHang s block kind lastProgress) := by
  unfold State.secondHang
  try extract_lets
  repeat' (first
    | with_reducible exact Kept.refl _ | with_reducible assumption
    | with_reducible apply Kept.pre (State.recordCause_kept ..) | with_reducible apply Kept.pre (State.suspect_kept ..)
    | with_reducible apply Kept.pre (State.noteHang_kept ..) | with_reducible refine Kept.ite ?_ ?_ | split
    | with_reducible refine Kept.upd ?_ rfl rfl rfl rfl rfl rfl rfl rfl | extract_lets | dsimp -zeta only)

theorem State.accessError_kept (s : State) (kind : BitVec 2) (offset : BitVec 26) : Kept s (State.accessError s kind offset) := by
  unfold State.accessError
  try extract_lets
  repeat' (first
    | with_reducible exact Kept.refl _ | with_reducible assumption | with_reducible refine Kept.ite ?_ ?_ | split
    | with_reducible refine Kept.upd ?_ rfl rfl rfl rfl rfl rfl rfl rfl | extract_lets | dsimp -zeta only)

theorem State.resetTor_kept (s : State) (t : TorIdx) : Kept s (State.resetTor s t) := by
  unfold State.resetTor
  try extract_lets
  repeat' (first
    | with_reducible exact Kept.refl _ | with_reducible assumption | with_reducible apply Kept.pre (State.setTor_kept ..)
    | extract_lets | dsimp -zeta only)

theorem State.blockEffect_kept (s : State) (b : BitVec 16) : Kept s (State.blockEffect s b) := by
  unfold State.blockEffect
  try extract_lets
  repeat' (first
    | with_reducible exact Kept.refl _ | with_reducible assumption | with_reducible apply Kept.pre (State.setCtx_kept ..)
    | with_reducible apply Kept.pre (State.setPort_kept ..) | with_reducible apply Kept.pre (State.retrain_kept ..)
    | with_reducible apply Kept.pre (State.resetCxl_kept ..) | with_reducible apply Kept.pre (State.resetTor_kept ..)
    | with_reducible refine Kept.ite ?_ ?_ | with_reducible refine Kept.foldl ?_ (fun _ _ _ => ?_) | split
    | with_reducible refine Kept.foldl_snd ?_ (fun _ _ _ => ?_) | with_reducible refine Kept.foldl_trd ?_ (fun _ _ _ => ?_)
    | with_reducible refine Kept.foldl_fst ?_ (fun _ _ _ => ?_)
    | with_reducible refine Kept.upd ?_ rfl rfl rfl rfl rfl rfl rfl rfl | extract_lets | dsimp -zeta only)

theorem State.goBlock_kept (s : State) (b : BitVec 16) : Kept s (State.goBlock s b) := by
  unfold State.goBlock
  try extract_lets
  repeat' (first
    | with_reducible exact Kept.refl _ | with_reducible assumption
    | with_reducible apply Kept.pre (State.blockEffect_kept ..) | with_reducible refine Kept.ite ?_ ?_ | split
    | with_reducible refine Kept.upd ?_ rfl rfl rfl rfl rfl rfl rfl rfl | extract_lets | dsimp -zeta only)

theorem State.staleRange_kept (s : State) (b n : Nat) : Kept s (State.staleRange s b n) := by
  unfold State.staleRange
  try extract_lets
  repeat' (first
    | with_reducible exact Kept.refl _ | with_reducible assumption | with_reducible refine Kept.ite ?_ ?_ | split
    | with_reducible refine Kept.upd ?_ rfl rfl rfl rfl rfl rfl rfl rfl | extract_lets | dsimp -zeta only)

theorem keysAbove_pairwise {α : Type} (m : SMap α) :
    (keysAbove none m = true ↔ m.Pairwise (fun a b => a.1 < b.1)) ∧
      ∀ b, keysAbove (some b) m = true ↔ (∀ e ∈ m, b < e.1) ∧ m.Pairwise (fun a b => a.1 < b.1) := by
  induction m with
  | nil => simp [keysAbove]
  | cons p t ih =>
    obtain ⟨k, w⟩ := p
    constructor
    · simp only [keysAbove, (ih.2 k), List.pairwise_cons]
    · intro b
      simp only [keysAbove, (ih.2 k), List.pairwise_cons, Bool.and_eq_true, decide_eq_true_eq, List.mem_cons, forall_eq_or_imp]
      constructor
      · intro h; exact ⟨⟨h.1, fun e he => Nat.lt_trans h.1 (h.2.1 e he)⟩, h.2⟩
      · intro h; exact ⟨h.1.1, h.2⟩

theorem memWf_iff (m : Memory) : memWf m = true ↔ m.Pairwise (fun a b => a.1 < b.1) ∧ ∀ e ∈ m, e.2 ≠ 0 := by
  simp [memWf, mapWf, (keysAbove_pairwise m).1]

theorem zipIdx_rising {α : Type} (l : List α) (n : Nat) : (l.zipIdx n).Pairwise (fun a b => a.2 < b.2) := by
  induction l generalizing n with
  | nil => simp
  | cons a l ih =>
    rw [List.zipIdx_cons, List.pairwise_cons]
    refine ⟨?_, ih (n + 1)⟩
    intro e he
    have := List.mem_zipIdx (x := e.1) (i := e.2) he
    omega

theorem chunks32_length (n : Nat) (bs : List Byte) : (chunks32 n bs).length ≤ n := by
  induction n generalizing bs with
  | zero => simp [chunks32]
  | succ n ih => cases bs <;> simp [chunks32, ih]

theorem burstCells_rising (b : Nat) (bs : List Byte) :
    (burstCells b bs).Pairwise (fun x y => x.1 < y.1) ∧
      ∀ e ∈ burstCells b bs, e.2 ≠ 0 ∧ 36 * b ≤ e.1 ∧ e.1 < 36 * (b + (bs.length + 31) / 32) := by
  have hl : ∀ x : Burst, (leBytes 36 x).length = 36 := by intro x; simp [leBytes]
  have hin : ∀ (c : List Byte × Nat) (e : Host.Cell), e ∈ ((leBytes 36 (encodeBurst (mkBurst 0 0 (ofLe 256 c.1)))).zipIdx.map
      (fun r => (36 * (b + c.2) + r.2, r.1))).filter (fun e => decide (e.2 ≠ 0)) →
      e.2 ≠ 0 ∧ 36 * (b + c.2) ≤ e.1 ∧ e.1 < 36 * (b + c.2) + 36 := by
    intro c e he
    rw [List.mem_filter, List.mem_map] at he
    obtain ⟨⟨r, hr, rfl⟩, h2⟩ := he
    have := List.mem_zipIdx (x := r.1) (i := r.2) hr
    rw [hl] at this
    refine ⟨by simpa using h2, ?_, ?_⟩ <;> dsimp only <;> omega
  constructor
  · unfold burstCells
    rw [List.pairwise_flatMap]
    constructor
    · intro c _
      refine List.Pairwise.filter _ ?_
      rw [List.pairwise_map]
      exact (zipIdx_rising _ 0).imp (by intro x y h; dsimp only; omega)
    · refine (zipIdx_rising _ 0).imp ?_
      intro c d hcd x hx y hy
      have h1 := hin c x hx
      have h2 := hin d y hy
      omega
  · intro e he
    unfold burstCells at he
    rw [List.mem_flatMap] at he
    obtain ⟨c, hc, he⟩ := he
    have h1 := hin c e he
    have h2 := List.mem_zipIdx (x := c.1) (i := c.2) hc
    have h3 := chunks32_length ((bs.length + 31) / 32) bs
    exact ⟨h1.1, by omega, by omega⟩

theorem writeDump_wf (m : Memory) (b : Nat) (bs : List Byte) (h : memWf m = true) :
    memWf (m.filter (fun e => decide (e.1 < 36 * b)) ++ burstCells b bs
      ++ m.filter (fun e => decide (36 * (b + (bs.length + 31) / 32) ≤ e.1))) = true := by
  rw [memWf_iff] at h ⊢
  have hb := burstCells_rising b bs
  rw [List.pairwise_append, List.pairwise_append]
  refine ⟨⟨⟨h.1.filter _, hb.1, ?_⟩, h.1.filter _, ?_⟩, ?_⟩
  · intro x hx y hy
    have h1 := (List.mem_filter.mp hx).2
    have h2 := (hb.2 y hy).2.1
    simp only [decide_eq_true_eq] at h1
    omega
  · intro x hx y hy
    have h1 := (List.mem_filter.mp hy).2
    simp only [decide_eq_true_eq] at h1
    rcases List.mem_append.mp hx with hx | hx
    · have h2 := (List.mem_filter.mp hx).2
      simp only [decide_eq_true_eq] at h2
      omega
    · have h2 := (hb.2 x hx).2.2
      omega
  · intro e he
    rcases List.mem_append.mp he with he | he
    · rcases List.mem_append.mp he with he | he
      · exact h.2 e (List.mem_filter.mp he).1
      · exact (hb.2 e he).1
    · exact h.2 e (List.mem_filter.mp he).1

theorem State.writeDump_kept (s : State) (a : Nat) (bs : List Byte) : Kept s (State.writeDump s a bs) := by
  refine Kept.trans ?_ (State.staleRange_kept ..)
  refine Kept.foldl (Kept.foldl (Kept.setCells _ (Kept.refl s) (writeDump_wf _ _ _)) fun u _ h => ?_) fun _ _ h => Kept.ite h (h.trans (State.countServed_kept ..))
  exact h.trans ((Kept.setCells _ (Kept.refl u) (memSetBytes_wf _ _ _)).trans (State.queueRequest_kept ..))

theorem State.dumpSuspect_kept (s : State) : Kept s (State.dumpSuspect s) := by
  unfold State.dumpSuspect
  try extract_lets
  repeat' (first
    | with_reducible exact Kept.refl _ | with_reducible assumption | with_reducible apply Kept.pre (State.suspect_kept ..)
    | with_reducible refine Kept.upd ?_ rfl rfl rfl rfl rfl rfl rfl rfl | extract_lets | dsimp -zeta only)

theorem State.dumpFinish_kept (s : State) : Kept s (State.dumpFinish s) := by
  unfold State.dumpFinish
  try extract_lets
  repeat' (first
    | with_reducible exact Kept.refl _ | with_reducible assumption | with_reducible apply Kept.pre (State.raise_kept ..)
    | with_reducible apply Kept.pre (State.driveFault_kept ..) | with_reducible apply Kept.pre (State.suspect_kept ..)
    | with_reducible apply Kept.pre (State.writeDump_kept ..) | with_reducible apply Kept.pre (State.dumpSuspect_kept ..)
    | with_reducible refine Kept.ite ?_ ?_ | split | with_reducible refine Kept.upd ?_ rfl rfl rfl rfl rfl rfl rfl rfl
    | extract_lets | dsimp -zeta only)

theorem State.dumpNote_kept (s : State) (status len : Nat) : Kept s (State.dumpNote s status len) := by
  unfold State.dumpNote
  try extract_lets
  repeat' (first
    | with_reducible exact Kept.refl _ | with_reducible assumption | with_reducible apply Kept.pre (State.dumpFinish_kept ..)
    | with_reducible refine Kept.ite ?_ ?_ | split | with_reducible refine Kept.upd ?_ rfl rfl rfl rfl rfl rfl rfl rfl
    | extract_lets | dsimp -zeta only)

theorem State.dumpPassHung_kept (s : State) : Kept s (State.dumpPassHung s) := by
  unfold State.dumpPassHung
  try extract_lets
  repeat' (first
    | with_reducible exact Kept.refl _ | with_reducible assumption | with_reducible apply Kept.pre (State.dumpNote_kept ..)
    | with_reducible refine Kept.ite ?_ ?_ | split | extract_lets | dsimp -zeta only)

theorem State.writeW1c_kept (s : State) (o : Nat) (v : Word) : Kept s (State.writeW1c s o v) := by
  unfold State.writeW1c
  try extract_lets
  repeat' (first
    | with_reducible exact Kept.refl _ | with_reducible assumption | with_reducible refine Kept.ite ?_ ?_ | split
    | with_reducible refine Kept.upd ?_ rfl rfl rfl rfl rfl rfl rfl rfl | extract_lets | dsimp -zeta only)

theorem State.writeWindow_kept (s : State) (v : Word) : Kept s (State.writeWindow s v) := by
  unfold State.writeWindow
  try extract_lets
  repeat' (first
    | with_reducible exact Kept.refl _ | with_reducible assumption
    | with_reducible refine Kept.upd ?_ rfl rfl rfl rfl rfl rfl rfl rfl | extract_lets | dsimp -zeta only)

theorem State.writeCtx_kept (s : State) (o : Nat) (v : Word) : Kept s (State.writeCtx s o v) := by
  unfold State.writeCtx
  try extract_lets
  repeat' (first
    | with_reducible exact Kept.refl _ | with_reducible assumption | with_reducible apply Kept.pre (State.setCtx_kept ..)
    | with_reducible apply Kept.pre (State.onIdle_kept ..) | with_reducible apply Kept.pre (State.flush_kept ..)
    | with_reducible apply Kept.pre (State.teardownStart_kept ..) | with_reducible apply Kept.pre (State.ringWrite_kept ..)
    | with_reducible apply Kept.pre (State.abortReq_kept ..) | with_reducible refine Kept.ite ?_ ?_ | split
    | with_reducible refine Kept.upd ?_ rfl rfl rfl rfl rfl rfl rfl rfl | extract_lets | dsimp -zeta only)

theorem heldIn_range (v : Word) (a len lo hi w : Nat) (h : lo ≤ hi) (hw : hi < 2 ^ w) :
    lo ≤ (heldIn v a len lo hi w).toNat ∧ (heldIn v a len lo hi w).toNat ≤ hi := by
  have hc : lo ≤ clampNat (field v a len) lo hi ∧ clampNat (field v a len) lo hi ≤ hi := by
    unfold clampNat; omega
  unfold heldIn
  rw [BitVec.toNat_ofNat, Nat.mod_eq_of_lt (by omega)]
  exact hc

theorem deadlinesHeld_set (l : List (BitVec 32)) (k : Nat) (v : Word) (h : deadlinesHeld l = true) :
    deadlinesHeld (l.set k (heldIn v 0 32 (deadlineRange k).1 (deadlineRange k).2 32)) = true := by
  unfold deadlinesHeld at h ⊢
  simp only [Bool.and_eq_true, List.length_set, List.all_eq_true, List.mem_range, decide_eq_true_eq] at h ⊢
  refine ⟨h.1, fun j hj => ?_⟩
  have hl : l.length = 7 := by simpa using h.1
  by_cases hk : k = j
  · subst hk
    have e : nth 0 (l.set k (heldIn v 0 32 (deadlineRange k).1 (deadlineRange k).2 32)) k
        = heldIn v 0 32 (deadlineRange k).1 (deadlineRange k).2 32 := by
      simp [nth, hl, hj]
    rw [e]
    refine heldIn_range _ _ _ _ _ _ ?_ ?_ <;> unfold deadlineRange <;> (repeat' split) <;> decide
  · have e : nth 0 (l.set k (heldIn v 0 32 (deadlineRange k).1 (deadlineRange k).2 32)) j = nth 0 l j := by
      simp [nth, hk]
    rw [e]
    exact h.2 j hj

theorem Kept.ranged {s u : State} (h1 : u.pending = s.pending) (h2 : u.fuses = s.fuses) (h3 : u.mem.cells = s.mem.cells)
    (h : s.rangesHeld = true → u.rangesHeld = true) : Kept s u :=
  ⟨h1, fun k => ⟨by simpa only [State.slot0Kept, h2] using k, by rw [h2]; exact Fuses.keeps_refl _⟩, h, fun k => by rwa [h3]⟩

theorem State.writeFields_kept (s : State) (o : Nat) (v : Word) : Kept s (State.writeFields s o v) := by
  unfold State.writeFields
  split
  · refine Kept.ranged rfl rfl rfl fun h => ?_
    simp only [State.rangesHeld, Bool.and_eq_true] at h ⊢
    exact ⟨⟨⟨⟨⟨⟨⟨⟨deadlinesHeld_set _ _ _ h.1.1.1.1.1.1.1.1, h.1.1.1.1.1.1.1.2⟩, h.1.1.1.1.1.1.2⟩, h.1.1.1.1.1.2⟩, h.1.1.1.1.2⟩, h.1.1.1.2⟩, h.1.1.2⟩,
      h.1.2⟩, h.2⟩
  · split
    · dsimp only
      have h1 : Kept s { s with err := { s.err with blockId := v.extractLsb' 0 16 } } := Kept.upd (Kept.refl s) rfl rfl rfl rfl rfl rfl rfl rfl
      exact Kept.ite (h1.trans (State.goBlock_kept ..)) h1
    · dsimp only
      refine Kept.ite (Kept.trans ?_ (State.discardImage_kept ..)) ?_ <;>
        exact Kept.ite (State.stageImage_kept ..) (Kept.refl s)
    · exact Kept.upd (Kept.refl s) rfl rfl rfl rfl rfl rfl rfl rfl
    · exact Kept.upd (Kept.refl s) rfl rfl rfl rfl rfl rfl rfl rfl
    · refine Kept.ranged rfl rfl rfl fun h => ?_
      have r := heldIn_range v 0 16 1000 42915 16 (by decide) (by decide)
      simp only [State.rangesHeld, Bool.and_eq_true, decide_eq_true_eq] at h ⊢
      exact ⟨⟨⟨⟨h.1.1.1.1, r.1⟩, r.2⟩, h.1.2⟩, h.2⟩
    · dsimp only
      have h1 : Kept s { s with links := { s.links with control := v.extractLsb' 8 7 } } := Kept.upd (Kept.refl s) rfl rfl rfl rfl rfl rfl rfl rfl
      exact Kept.ite (h1.trans (State.rediscover_kept ..)) h1
    · refine Kept.ranged rfl rfl rfl fun h => ?_
      have r1 := heldIn_range v 32 32 1000000 1000000000 32 (by decide) (by decide)
      have r2 := heldIn_range v 0 32 200000 100000000 32 (by decide) (by decide)
      simp only [State.rangesHeld, Bool.and_eq_true, decide_eq_true_eq] at h ⊢
      exact ⟨⟨⟨⟨⟨⟨⟨⟨h.1.1.1.1.1.1.1.1, r1.1⟩, r1.2⟩, r2.1⟩, r2.2⟩, h.1.1.1.2⟩, h.1.1.2⟩, h.1.2⟩, h.2⟩
    · exact State.writeWindow_kept ..
    · exact Kept.refl s

theorem State.countAccess_kept (s : State) (who : Requester) (kind : BitVec 2) (o : BitVec 26) :
    Kept s (State.countAccess s who kind o) := by
  unfold State.countAccess
  try extract_lets
  repeat' (first
    | with_reducible exact Kept.refl _ | with_reducible assumption
    | with_reducible apply Kept.pre (State.accessError_kept ..) | split
    | with_reducible refine Kept.upd ?_ rfl rfl rfl rfl rfl rfl rfl rfl | extract_lets | dsimp -zeta only)

theorem State.standardRead_kept (s : State) (o n : Nat) : Kept s (State.standardRead s o n) := by
  unfold State.standardRead
  try extract_lets
  repeat' (first
    | with_reducible exact Kept.refl _ | with_reducible assumption | with_reducible apply Kept.pre (State.takeFree_kept ..)
    | with_reducible refine Kept.trans ?_ (State.takeFree_keptP (by with_reducible assumption))
    | with_reducible apply Kept.pre (State.emit_kept ..) | with_reducible refine Kept.ite ?_ ?_ | split | extract_lets
    | dsimp -zeta only)

theorem State.say_kept (s : State) (what : String) (data : List Byte) : Kept s (State.say s what data) := by
  unfold State.say
  try extract_lets
  repeat' (first
    | with_reducible exact Kept.refl _ | with_reducible assumption | with_reducible apply Kept.pre (State.emit_kept ..)
    | extract_lets | dsimp -zeta only)

theorem State.refuseCmd_kept (s : State) (why : String) : Kept s (State.refuseCmd s why) := by
  unfold State.refuseCmd
  try extract_lets
  repeat' (first
    | with_reducible exact Kept.refl _ | with_reducible assumption | with_reducible apply Kept.pre (State.emit_kept ..)
    | extract_lets | dsimp -zeta only)

theorem State.sensor_kept (s : State) (id : Sensor) :
    Kept s (State.sensor s id).2 := by
  unfold State.sensor
  try extract_lets
  repeat' (first
    | with_reducible exact Kept.refl _ | with_reducible assumption | with_reducible apply Kept.pre (State.takeFree_kept ..)
    | with_reducible refine Kept.trans ?_ (State.takeFree_keptP (by with_reducible assumption))
    | with_reducible refine Kept.foldl ?_ (fun _ _ _ => ?_) | split
    | with_reducible refine Kept.foldl_snd ?_ (fun _ _ _ => ?_) | with_reducible refine Kept.foldl_trd ?_ (fun _ _ _ => ?_)
    | with_reducible refine Kept.foldl_fst ?_ (fun _ _ _ => ?_)
    | with_reducible refine Kept.upd ?_ rfl rfl rfl rfl rfl rfl rfl rfl | extract_lets | dsimp -zeta only)

theorem State.sensor_keptP {s : State} {id : Sensor} {x y} (heqn : State.sensor s id = (x, y)) :
    Kept s y := by
  have := State.sensor_kept s id
  rwa [heqn] at this

theorem keysKeep_set (l : List KeySlot) (i : Nat) (k : KeySlot) (h : keyKeeps (nth {} l i, k) = true) :
    (l.zip (l.set i k)).all keyKeeps = true := by
  induction l generalizing i with
  | nil => simp
  | cons a l ih =>
    cases i with
    | zero =>
      simp only [List.set_cons_zero, List.zip_cons_cons, List.all_cons, Bool.and_eq_true]
      exact ⟨by simpa [nth] using h, keysKeep_refl l⟩
    | succ i =>
      simp only [List.set_cons_succ, List.zip_cons_cons, List.all_cons, Bool.and_eq_true]
      refine ⟨?_, ih i (by simpa [nth] using h)⟩
      have := keysKeep_refl [a]
      simpa using this

theorem State.setKey_kept (s : State) (i : Nat) (k : KeySlot) (hi : i ≠ 0) (h : keyKeeps (nth {} s.fuses.keys i, k) = true) :
    Kept s (State.setKey s i k) := by
  refine Kept.trans ?_ (State.raise_kept ..)
  refine ⟨rfl, fun h0 => ⟨?_, ?_⟩, id, id⟩
  · cases i with
    | zero => exact absurd rfl hi
    | succ i =>
      unfold State.slot0Kept at h0 ⊢
      dsimp only
      revert h0
      cases s.fuses.keys with
      | nil => exact id
      | cons a l => exact id
  · simp only [Fuses.keeps, keysKeep_set _ _ _ h, List.length_set]
    cases s.fuses.debugOpened <;> simp

theorem State.writeSlot_kept (s : State) (c : Component) (b : Bool) (bs : List Byte) : Kept s (State.writeSlot s c b bs) := by
  unfold State.writeSlot
  try extract_lets
  repeat' (first
    | with_reducible exact Kept.refl _ | with_reducible assumption | split
    | with_reducible refine Kept.upd ?_ rfl rfl rfl rfl rfl rfl rfl rfl | extract_lets | dsimp -zeta only)

theorem State.signed_kept (s : State) (what : String) (nonce body : List Byte) : Kept s (State.signed s what nonce body) := by
  unfold State.signed
  try extract_lets
  repeat' (first
    | with_reducible exact Kept.refl _ | with_reducible assumption | with_reducible apply Kept.pre (State.takeFree_kept ..)
    | with_reducible refine Kept.trans ?_ (State.takeFree_keptP (by with_reducible assumption))
    | with_reducible apply Kept.pre (State.say_kept ..) | extract_lets | dsimp -zeta only)

theorem State.endExtest_kept (s : State) : Kept s (State.endExtest s) := by
  unfold State.endExtest
  try extract_lets
  repeat' (first
    | with_reducible exact Kept.refl _ | with_reducible assumption
    | with_reducible refine Kept.upd ?_ rfl rfl rfl rfl rfl rfl rfl rfl | extract_lets | dsimp -zeta only)

theorem State.openFuse_kept (s : State) (h : HostPort) (x : Security) :
    Kept s { s with host := h, fuses := { s.fuses with debugOpened := true }, sec := x } :=
  ⟨rfl, fun h0 => ⟨h0, by simp [Fuses.keeps, keysKeep_refl]⟩, id, id⟩

theorem State.openDebug_kept (s : State) : Kept s (State.openDebug s) := by
  unfold State.openDebug
  dsimp only
  with_reducible apply Kept.pre (State.raise_kept ..)
  with_reducible apply Kept.pre (State.openFuse_kept ..)
  with_reducible refine Kept.foldl ?_ (fun _ _ _ => ?_)
  · with_reducible refine Kept.foldl (Kept.refl s) (fun _ _ h => ?_)
    with_reducible exact h.trans (State.setCtx_kept ..)
  · rename_i h
    with_reducible exact h.trans (State.setTor_kept ..)

end Sys2Proof.Machine
end

