-- ==== Sys2Proof/WellFormed.lean ====
section
/-! DEFINITION. Which commands the outside world can form: operands inside the ranges the spec gives them. The meanings
are total all the same; what lies outside these ranges has no effect or is counted as its rule says. -/

namespace Sys2Proof

/-- A link port 0 … 95 (R186). -/
def portOk (p : BitVec 7) : Bool := decide (p.toNat < 96)

/-- A module slot 0 … 32 of a range (R20). -/
def slotOk (q : BitVec 6) : Bool := decide (q.toNat ≤ 32)

/-- The plane of a plane fetch, 1 or 2 (R151). -/
def planeOk (p : BitVec 2) : Bool := p == 1 || p == 2

/-- A burst address inside populated memory (R161). -/
def burstOk (a : BitVec 36) : Bool := decide (a.toNat < 0xC00000000)

/-- The count of a fixed list. -/
def lengthIs {α : Type} (l : List α) (n : Nat) : Bool := l.length == n

/-- A block ID of Table 13-10. -/
def blockOk (b : BitVec 16) : Bool :=
  let i := (b.extractLsb' 0 13).toNat
  match (b.extractLsb' 13 3).toNat with
  | 0 => true
  | 1 => decide (i < 128)
  | 2 => decide (i < 128)
  | 3 => decide (i < 96)
  | 4 => decide (i < 4)
  | 5 => decide (i < 5)
  | 6 => decide (i < 5)
  | _ => false

/-- A delay copy of logical row 0 … 3: three bits hold one delay of 0 … 7 (R102). -/
def delayOk (u : DelayUpset) : Bool := decide (u.bit.toNat < 3)

/-- A bit of a 160-bit exact register (R84). -/
def registerOk (u : RegisterUpset) : Bool := decide (u.bit.toNat < 160)

/-- A host address that names a whole 64-byte line. -/
def lineOk (hpa : Word) : Bool := hpa.toNat % 64 == 0

/-- The command is one that the outside world can form. -/
def Instr.wellFormed : Instr → Bool
  | .thermalSensorRead dies packages => lengthIs dies 5 && lengthIs packages 32
  | .boardPwrgd _ _ => true
  | .hostMemRead a => lineOk a
  | .hostMemWrite a _ => lineOk a
  | .hostMemPartialWrite a _ _ => lineOk a
  | .hostMemPoisonWrite a _ => lineOk a
  | .memoryRequest r => burstOk r.addr
  | .slotMerge a first ws _ => burstOk a && decide (first.toNat + ws.length ≤ 8)
  | .tilePassStart _ bs cs => bs.all delayOk && cs.all delayOk
  | .tilePassEnd _ us _ => us.all registerOk
  | .linkTrainingDone p _ _ => portOk p
  | .packetReceive p k _ _ => portOk p && decide (k.payload.length ≤ 4096)
  | .controlFrame p _ _ _ _ _ _ => portOk p
  | .controlFrameSend p => portOk p
  | .retryTimeout p => portOk p
  | .laneLockLoss p => portOk p
  | .controlFrameTimeout p => portOk p
  | .portRetrain p => portOk p
  | .claimSend p => portOk p
  | .claim p _ => portOk p
  | .discoveryTimeout p => portOk p
  | .rediscover p => portOk p
  | .uncorrectableCodeword p => portOk p
  | .rangeMap q counts => slotOk q && lengthIs counts 33
  | .heartbeat q => slotOk q
  | .hbTimeout q => slotOk q
  | .reportTimeout q => slotOk q
  | .propose a b => slotOk a && slotOk b
  | .withdraw q => slotOk q
  | .join q _ => slotOk q
  | .fetchReq _ _ a p => burstOk a && planeOk p
  | .fetchData _ a p _ => burstOk a && planeOk p
  | .hangTimeout b _ _ => blockOk b
  | .readMoraine _ _ n => decide (n.toNat ≤ 4096)
  | .writeOptionBytes c => lengthIs c 4096
  | .enrolKey k _ _ _ _ => k != 0
  | .revokeKey k _ _ => k != 0
  | .getSensorReading (.dieTemp d) => decide (d.toNat < 5)
  | .bringUpStepDone _ _ fs => fs.all (fun f => match f with | .row _ r => decide (r.toNat ≤ 4) | .store _ => true)
  | .debugAccess (.memRead a) => burstOk a
  | .debugAccess (.memWrite a _) => burstOk a
  | _ => true

end Sys2Proof
end

