-- ==== Sys2Proof/Tests/Slice0.lean ====
section
/-! SUPPORT. Tests: ill-formed commands that the checks refuse, worked examples of the spec, and for each statement a
state and operands that meet its hypotheses. -/

set_option Elab.async false

namespace Sys2Proof.Tests
open Sys2Proof Sys2Proof.Machine

/-! ## Well-formed commands -/

theorem test_wf_dies : (Instr.thermalSensorRead [0] (List.replicate 32 0)).wellFormed = false := by decide
theorem test_wf_packages : (Instr.thermalSensorRead [0, 0, 0, 0, 0] []).wellFormed = false := by decide
theorem test_wf_line : (Instr.hostMemRead 1).wellFormed = false ∧ (Instr.hostMemWrite 32 0).wellFormed = false ∧
    (Instr.hostMemPartialWrite 63 0 0).wellFormed = false ∧ (Instr.hostMemPoisonWrite 8 0).wellFormed = false ∧
    (Instr.hostMemRead 64).wellFormed = true := by decide
theorem test_wf_burst : (Instr.memoryRequest { client := .host, addr := 0xC00000000, write := none }).wellFormed = false ∧
    (Instr.memoryRequest { client := .host, addr := 0xBFFFFFFFF, write := none }).wellFormed = true ∧
    (Instr.slotMerge 0xC00000000 0 [] .host).wellFormed = false ∧ (Instr.fetchReq 0 0 0xC00000000 1).wellFormed = false ∧
    (Instr.fetchData 0 0xC00000000 1 []).wellFormed = false ∧ (Instr.debugAccess (.memRead 0xC00000000)).wellFormed = false ∧
    (Instr.debugAccess (.memWrite 0xC00000000 0)).wellFormed = false := by decide
theorem test_wf_slot_words : (Instr.slotMerge 0 7 [0, 0] .host).wellFormed = false := by decide
theorem test_wf_plane : (Instr.fetchReq 0 0 0 0).wellFormed = false ∧ (Instr.fetchData 0 0 3 []).wellFormed = false := by decide
theorem test_wf_delays : (Instr.tilePassStart 0 [] [{ tor := 0, row := 0, bit := 3 }]).wellFormed = false ∧
    (Instr.tilePassStart 0 [{ tor := 3, row := 3, bit := 2 }] []).wellFormed = true := by decide
theorem test_wf_port : (Instr.linkTrainingDone 96 true 0).wellFormed = false ∧ (Instr.controlFrameSend 96).wellFormed = false ∧
    (Instr.retryTimeout 127).wellFormed = false ∧ (Instr.claimSend 96).wellFormed = false ∧
    (Instr.controlFrame 96 ⟨true, 0⟩ 0 false 0 0 0).wellFormed = false ∧ (Instr.discoveryTimeout 95).wellFormed = true := by decide
theorem test_wf_module_slot : (Instr.rangeMap 33 (List.replicate 33 0)).wellFormed = false ∧ (Instr.rangeMap 0 []).wellFormed = false ∧
    (Instr.heartbeat 33).wellFormed = false ∧ (Instr.hbTimeout 33).wellFormed = false ∧ (Instr.reportTimeout 33).wellFormed = false ∧
    (Instr.propose 33 0).wellFormed = false ∧ (Instr.propose 0 33).wellFormed = false ∧ (Instr.withdraw 33).wellFormed = false ∧
    (Instr.join 33 0).wellFormed = false := by decide
theorem test_wf_block : (Instr.hangTimeout 0xE000 0 0).wellFormed = false ∧ (Instr.hangTimeout 0x6060 0 0).wellFormed = false ∧
    (Instr.hangTimeout 0x605F 0 0).wellFormed = true := by decide
theorem test_wf_moraine : (Instr.readMoraine true 0 4097).wellFormed = false := by decide
theorem test_wf_options : (Instr.writeOptionBytes []).wellFormed = false := by decide
theorem test_wf_key_slot : (Instr.enrolKey 0 [] false 0 []).wellFormed = false ∧ (Instr.revokeKey 0 0 []).wellFormed = false := by decide
theorem test_wf_die : (Instr.getSensorReading (.dieTemp 5)).wellFormed = false := by decide
theorem test_wf_row : (Instr.bringUpStepDone 8 .done [.row 0 5]).wellFormed = false := by decide

/-! ## States -/

/-- A schedule image with one stream entry that covers the tor store's first bytes, two calls and an alternate. -/
def image : Sched :=
  { descs := [0, 0x300000000], mbCount := 1, tors := [{ tor := 0, stream := 0, map := [0] }],
    streams := [{ words := [], tiles := [0], drains := [0] }],
    loads := [BitVec.ofNat 256 (2 ^ 104 + 2 ^ 56)], alts := [BitVec.ofNat 256 (5 + 7 * 2 ^ 32 + 9 * 2 ^ 64)], phases := [0] }

/-- A module that is ready, with its memory filled, its port up and its management targets at work. -/
def up : State :=
  { pwr := { held := false, resetPin := true }, boot := { mode := 1, step := 9, links := true, cxlUp := true, selfChecked := true },
    mem := { initDone := true }, mgt := { ready := true } }

/-- The same module with context 0 running on ridge 0 and tor 0 at its first word. -/
def on : State :=
  { up with
    img := { active := { contexts := [{ valid := true, ridges := 1 }], hdmSize := 4096 } }
    host := { committed := true }
    ctxs := [(0, { state := 3, image := some image, inStep := true })]
    tors := [(0, { state := 1, s := [(0, 0)] })] }

/-- `on` with tor 0 changed. -/
def tor (f : Tor → Tor) : State := on.setTor 0 (f (on.tor 0))

/-- `on` with context 0 changed. -/
def ctx (f : Context → Context) : State := on.setCtx 0 (f (on.ctx 0))

/-- The image that context 0 has loaded. -/
def imageOf (s : State) : Sched := (s.ctx 0).image.getD {}

/-- A state whose tor 0 has a command's word at its program counter, in its stream of context 0's image. -/
def asked (s : State) (i : Instr) : State :=
  s.setCtx 0 { s.ctx 0 with image := (s.ctx 0).image.map (fun im => { im with streams := im.streams.map (fun st =>
    { st with words := List.replicate (s.tor 0).wordAt 0 ++ [(i.torWord.map (·.2)).getD 0] }) }) }

/-- Tor 0 is issuing for context 0, whose image is loaded and holds a command's word next. -/
def ready (s : State) (i : Instr) : Bool :=
  decide (s.runner 0 = some 0) && decide ((s.tor 0).state = 1) && !(s.tor 0).stopped && !(s.tor 0).altWait && !(s.tor 0).deqWait &&
    (s.ctx 0).image.isSome && (match i.torWord with | some (t, w) => s.asks 0 t w | none => false)

theorem ready_meets {s : State} {i : Instr} (h : ready s i = true) : s.issuingOf 0 0 (imageOf s) ∧ s.nextWord 0 i := by
  simp only [ready, Bool.and_eq_true, decide_eq_true_eq, Bool.not_eq_true', Option.isSome_iff_exists] at h
  obtain ⟨⟨⟨⟨⟨⟨hr, hs⟩, hp⟩, ha⟩, hd⟩, im, hi⟩, hw⟩ := h
  refine ⟨⟨⟨hr, hs, hp, ha, hd⟩, by rw [imageOf, hi]; rfl⟩, ?_⟩
  split at hw
  · exact ⟨_, _, ‹_›, hw⟩
  · cases hw

/-! ## Statements about tors: states that meet their hypotheses -/

/-- One word of each form, with the operands that its statement asks for. -/
def controlWords : List Instr := [.nop 0, .loop 0 1 1, .loop 0 1 0, .call 0 5]
def vectorWords (o : VOp) : List Instr :=
  [.vadd 0 o, .vsub 0 o, .vmul 0 o, .vfma 0 o, .vmin 0 o, .vmax 0 o, .vdiv 0 o, .vsqrt 0 o, .vrcp 0 o, .vrsq 0 o, .vcvt 0 o,
   .vcvt 0 { o with sub := 1 }]
def otherVectorWords : List Instr :=
  [.vcmp 0 { (default : VCmpOp) with pd := 1 }, .vred 0 default, .vdrop 0 default, .vrand 0 default, .vfpf 0 1 true, .vbcast 0 1 true 2 3]
def scalarWords (o : SOp) : List Instr :=
  [.smovi 0 1 5, .sadd 0 o, .ssub 0 o, .smul 0 o, .sand 0 o, .sor 0 o, .sxor 0 o, .sshl 0 o, .sasr 0 o]
def predicateWords (o : POp) : List Instr := [.pmov 0 1 0, .pand 0 o, .por 0 o, .pnot 0 o]

theorem test_wit_words :
    ((controlWords ++ vectorWords default ++ vectorWords { (default : VOp) with mode := 8 } ++ otherVectorWords ++
      scalarWords default ++ predicateWords { (default : POp) with pd := 1 }).all (fun i => ready (asked on i) i)) = true := by
  decide +kernel

/-- A word by its fields: the lowest bit of each, and its value. -/
def fields (l : List (Nat × Nat)) : BitVec 128 := BitVec.ofNat 128 ((l.map (fun p => p.2 * 2 ^ p.1)).foldl (· + ·) 0)

/-- The words of tor 0, field by field as Table 07-1 and the operand tables of chapter 7 place them (R117, R118, R389). -/
theorem test_words_control : (([.loop 0 5 7, .skipb 0 3 9, .call 0 11, .nchk 0 13, .alt 0 17 true 19, .settle 0 21 23, .cairn 0 25,
      .wait 0 27 29 true, .signal 0 31 33 true 35, .ldq 0 37, .hand 0 39 41 43 5] : List Instr).map Instr.torWord) =
    (([[(120, 0x01), (92, 5), (60, 7)], [(120, 0x02), (108, 3), (88, 9)], [(120, 0x03), (80, 11)], [(120, 0x90), (92, 13)],
      [(120, 0xA0), (92, 17), (91, 1), (75, 19)], [(120, 0xA1), (92, 21), (76, 23)], [(120, 0xB0), (100, 25)],
      [(120, 0x60), (95, 27), (79, 29), (78, 1)], [(120, 0x61), (95, 31), (80, 33), (79, 1), (63, 35)], [(120, 0x70), (88, 37)],
      [(120, 0x80), (96, 39), (76, 41), (52, 43), (48, 5)]] : List (List (Nat × Nat))).map (fun l => some (0, fields l))) := by
  decide +kernel

theorem test_words_data : (([.tmm 0 { tile := 5, apl := 1, bpl := 2, drain := 7, dside := true, transb := false, fused := true },
      .vfma 0 { (default : VOp) with pred := 1, pneg := true, mode := 8, vd := 2, va := 3, vb := 4, vc := 5 },
      .vcmp 0 { (default : VCmpOp) with pd := 1, va := 2, vb := 3, cmp := 2 },
      .vdrop 0 { (default : VDropOp) with vd := 1, va := 2, sidx := 3, sthr := 4, dlane := 1, desc := 5, factor := 6 },
      .vfpf 0 3 true, .vst 0 { (default : VMemOp) with v := 1, sbase := 2, offset := 3 } {}, .vbcast 0 0 false 1 2, .smovi 0 1 2,
      .ssub 0 { sd := 1, sa := 2, sb := 3, imm := 4, useImm := true }, .pmov 0 1 2, .pand 0 { pd := 1, pa := 2, pb := 3 },
      .deq 0 { desc := 1, tsaddr := 2, seq := 3, count := 4, pl := 1 }] : List Instr).map Instr.torWord) =
    (([[(120, 0x10), (115, 1), (113, 1), (92, 5), (90, 1), (88, 2), (72, 7)],
      [(120, 0x23), (117, 1), (116, 1), (112, 8), (107, 2), (102, 3), (97, 4), (92, 5)],
      [(120, 0x26), (109, 1), (102, 2), (97, 3), (0, 2)],
      [(120, 0x2D), (107, 1), (102, 2), (98, 3), (94, 4), (92, 1), (76, 5), (0, 6)],
      [(120, 0x2F), (108, 3), (0, 1)], [(120, 0x31), (107, 1), (103, 2), (84, 3)], [(120, 0x32), (107, 1), (103, 2)],
      [(120, 0x40), (108, 1), (36, 2)], [(120, 0x42), (112, 1), (108, 1), (104, 2), (100, 3), (36, 4)],
      [(120, 0x49), (108, 1), (104, 2)], [(120, 0x4A), (109, 1), (106, 2), (103, 3)],
      [(120, 0x51), (96, 1), (77, 2), (45, 3), (29, 4), (27, 1)]] : List (List (Nat × Nat))).map (fun l => some (0, fields l))) := by
  decide +kernel

/-- A word that no stream holds next: of an empty stream. -/
theorem test_wit_asks_none (w : BitVec 128) : ∀ c, on.asks c 0 w = false := by
  have h : ∀ c, on.wordNow c 0 = none := by decide +kernel
  exact fun c => by simp only [State.asks, h c, Option.map_none]; rfl

/-- PMOV and the predicate words: a destination that is not P0, and P0. -/
theorem test_wit_scalar : (1 : BitVec 4).toNat % 8 ≠ 0 ∧ (8 : BitVec 4).toNat % 8 = 0 ∧ (1 : BitVec 3) ≠ 0 := by decide

/-- A tor in a loop of three words. -/
def looped (pc left : Nat) : Tor :=
  { pc := BitVec.ofNat 32 pc, loops := [{ start := 0, len := 3, left := left, depth := 0 }] }

/-- The program counter: no loop; inside, at the end with runs left, and after the last run of one. -/
theorem test_wit_loops : ({} : Tor).loops = [] ∧ (looped 0 2).pc.toNat + 1 < 0 + 3 ∧ (looped 1 2).pc.toNat + 1 < 0 + 3 ∧
    ((looped 2 2).pc.toNat + 1 = 0 + 3 ∧ 1 < 2) ∧ ((looped 2 1).pc.toNat + 1 = 0 + 3 ∧ 1 ≤ 1) ∧ (looped 2 1).stack.length = 0 := by
  decide

/-- Tor 0 with a return address on its stack. -/
def called (settle : Bool) : State :=
  tor fun r => { r with stack := [{ addr := 4, settle := settle }], settleTile := some (0, 1) }

/-- RET of a call and of a SETTLE's entry; SKIPB that need not wait. -/
theorem test_wit_ret :
    (ready (asked (called false) (.ret 0)) (.ret 0) = true ∧
      ∃ f fs, ((asked (called false) (.ret 0)).tor 0).stack = f :: fs ∧ f.settle = false) ∧
    (ready (asked (called true) (.ret 0)) (.ret 0) = true ∧
      (∃ f fs, ((asked (called true) (.ret 0)).tor 0).stack = f :: fs ∧ f.settle = true) ∧
      ((asked (called true) (.ret 0)).tor 0).settleTile = some (0, 1)) ∧
    (ready (asked on (.skipb 0 0 1)) (.skipb 0 0 1) = true ∧
      ((asked on (.skipb 0 0 1)).ctx 0).replayWaits ((imageOf (asked on (.skipb 0 0 1))).workOfWord 0 0) = false) := by
  refine ⟨⟨?_, _, _, rfl, rfl⟩, ⟨?_, ⟨_, _, rfl, rfl⟩, ?_⟩, ?_⟩ <;> decide +kernel

/-- The vector modes that are not reserved, fast and strict, and the reserved ones at the edges. -/
theorem test_wit_vmode : vmode (on.pilot 0) 0 = some (.fast (on.pilot 0)) ∧ (vmode (on.pilot 0) 8).isSome = true ∧
    (vmode (on.pilot 0) 12).isSome = true ∧ vmode (on.pilot 0) 1 = none ∧ vmode (on.pilot 0) 13 = none ∧
    vmodeOk 7 = false ∧ (bit (0 : BitVec 4) 3 = false ∧ bit (8 : BitVec 4) 3 = true) := by decide +kernel

/-- VLD and VST at an offset. -/
def at' (offset : BitVec 19) : VMemOp := { (default : VMemOp) with offset := offset }

/-- Tor 0 with a load of the tor store's first bytes in its queue. -/
def loading : State := tor fun r => { r with loads := [{ stream := 0 }] }

/-- VLD and VST of an address in a state: ready, with the address they form, and with its range free or not. -/
def access (s : State) (offset : BitVec 19) : List Bool × Option Nat × Bool :=
  let i : Instr := .vld 0 (at' offset) {}
  let j : Instr := .vst 0 (at' offset) {}
  ([ready (asked s i) i, ready (asked s j) j], vaddr ((asked s i).tor 0) 0 (at' offset),
    (asked s i).rangePending 0 0 offset.toNat (offset.toNat + 128) || (asked s j).rangePending 0 0 offset.toNat (offset.toNat + 128))

/-- A bad address, one past the end, the last free one, and one that a queued load covers. -/
theorem test_wit_vaddr : (access on 1).1 = [true, true] ∧ (access on 1).2.1 = none ∧ (access on 0x40000).2.1 = none ∧
    access on 0x3FF80 = ([true, true], some 0x3FF80, false) ∧ access loading 0 = ([true, true], some 0, true) := by decide +kernel

/-- A conversion of count blocks at an address. -/
def conv (tsaddr : BitVec 19) (count : BitVec 16) : ConvOp := { (default : ConvOp) with desc := 1, tsaddr := tsaddr, count := count }

/-- QNT and ROTQ in a state: ready, the address good, its range covered by a queued load, and the blocks they yield. -/
def converts (s : State) (o : ConvOp) : List (Bool × Bool × Bool) × Bool × Bool :=
  let look (i : Instr) : Bool × Bool × Bool :=
    let u := asked s i
    let d := (imageOf u).desc o.desc.toNat
    (ready u i, convAddrOk d o, u.rangePending 0 0 o.tsaddr.toNat (o.tsaddr.toNat + convExtent d o))
  let u := asked s (.qnt 0 o {})
  let v := asked s (.rotq 0 o {})
  ([look (.qnt 0 o {}), look (.rotq 0 o {})], (u.qntBlocks 0 (imageOf u) 0 o).isSome, (v.rotqBlocks 0 (imageOf v) 0 o).isSome)

/-- A bad address, a covered one, a conversion that yields its blocks. -/
theorem test_wit_conversion : ((converts on (conv 16 0)).1.map (fun p => (p.1, p.2.1))) = [(true, false), (true, false)] ∧
    (converts loading (conv 0 1)).1 = [(true, true, true), (true, true, true)] ∧
    converts on (conv 0 0) = ([(true, true, false), (true, true, false)], true, true) := by decide +kernel

/-- A G16 tensor of 4 × 4 elements, one block at burst 2^20. -/
def g16 : Desc := BitVec.ofNat 512 (3 * 2 ^ 32 + 8 * 2 ^ 64 + 8 * 2 ^ 96 + 2 ^ 20 * 2 ^ 128)

/-- A K4N tensor of one block, the parameter W of an image, in the shard of another rope member. -/
def k4n : Desc := BitVec.ofNat 512 (8 * 2 ^ 64 + 8 * 2 ^ 96 + 2 ^ 20 * 2 ^ 128)
def g16Image : Sched := { image with descs := [0, g16] }
def k4nImage : Sched :=
  { image with descs := [0, k4n], params := [BitVec.ofNat 256 (2 ^ 8)], shards := [{ param := 0, member := 1, first := 0, count := 1 }] }

/-- `on` with an image, and four bytes of tor 0's store. -/
def loaded (im : Sched) (store : Memory) : State :=
  (ctx fun x => { x with image := some im }).setTor 0 { state := 1, s := [(0, 0)], store := store }

/-- QNT and ROTQ with an input that is a NaN, which fails the word. -/
theorem test_wit_conversion_nan : converts (loaded g16Image [(2, 0xC0), (3, 0x7F)]) (conv 0 1) =
    ([(true, true, false), (true, true, false)], false, false) := by decide +kernel

/-- R68: an infinite input converts in QNT, with the upper clamp, and fails a rotation. -/
theorem test_qnt_infinity : ((loaded g16Image [(2, 0x80), (3, 0x7F)]).qntBlocks 0 g16Image 0 (conv 0 1)).isSome = true ∧
    (loaded g16Image [(2, 0x80), (3, 0x7F)]).rotqBlocks 0 g16Image 0 (conv 0 1) = none := by decide +kernel

/-- DEQ of one block in a state: ready, its tensor's class, what it fails with, and whether planes are missing. -/
def decodes (s : State) (o : ConvOp) : Bool × Nat × List Nat × Bool :=
  let u := asked s (.deq 0 o)
  let im := imageOf u
  (ready u (.deq 0 o) && !u.rangePending 0 0 0 (convExtent (im.desc 1) o), (im.desc 1).cls,
    (u.deqBlocks 0 im 0 o 1 0).1,
    !(u.missingPlanes (u.ctx 0) im 1 0 (u.deqPlanes (u.ctx 0) im o 0)).isEmpty)

/-- PL = 3; a block that decodes; a poisoned one; a plane that is missing. -/
theorem test_wit_deq : ({ conv 0 1 with pl := 3 } : ConvOp).pl = 3 ∧ (conv 0 1).pl ≠ 3 ∧
    decodes (loaded g16Image []) (conv 0 1) = (true, 0, [], false) ∧
    decodes ((loaded g16Image []).setRaw (2 ^ 20) (poisonBurst 0)) (conv 0 1) = (true, 0, [0x0C], false) ∧
    decodes (loaded k4nImage []) { conv 0 1 with pl := 1 } = (true, 0, [], true) := by decide +kernel

/-! ## Tokens, streams, hand-over -/

/-- `on` with the counter of token 5 at a value. -/
def counted (v : BitVec 16) : State := ctx fun x => { x with tokens := mapSet 0 [] 5 v }

/-- WAIT at the counter, one below it, and SIGNAL with and without a SYSADDR. -/
theorem test_wit_wait : (ready (asked (counted 7) (.wait 0 5 7 false)) (.wait 0 5 7 false) = true ∧
      (7 : BitVec 16) ≤ mapGet 0 ((asked (counted 7) (.wait 0 5 7 false)).ctx 0).tokens 5) ∧
    (ready (asked (counted 6) (.wait 0 5 7 false)) (.wait 0 5 7 false) = true ∧
      ¬ ((7 : BitVec 16) ≤ mapGet 0 ((asked (counted 6) (.wait 0 5 7 false)).ctx 0).tokens 5)) ∧
    ready (asked on (.signal 0 5 0 false 9)) (.signal 0 5 0 false 9) = true ∧
    ready (asked on (.signal 0 5 3 true 9)) (.signal 0 5 3 true 9) = true ∧ ((3 : BitVec 15) ≠ 0) := by decide +kernel

/-- A local SIGNAL of a tor with nothing outstanding, where no tor waits for a token. -/
theorem test_wit_signal : let s := asked (counted 0xFFFA) (.signal 0 5 0 false 9)
    ready s (.signal 0 5 0 false 9) = true ∧ (s.tor 0).later = [] ∧ (s.tor 0).openPasses = [] ∧ s.openLoads 0 0 = [] ∧
    s.rotOpen (s.ctx 0) (imageOf s) 0 = false ∧ ∀ e ∈ (imageOf s).tors, (s.tor (BitVec.ofNat 13 e.tor)).state ≠ 2 := by
  decide +kernel

/-- R134: a counter does not pass 65,535. -/
theorem test_signal_saturates : (match exec (.signal 0 5 0 false 9) (asked (counted 0xFFFA) (.signal 0 5 0 false 9)) with
    | .next s => mapGet 0 (s.ctx 0).tokens 5 | _ => 0) = 0xFFFF := by decide +kernel

/-- `on` with n loads queued at tor 0. -/
def queuedLoads (n : Nat) : State := tor fun r => { r with loads := List.replicate n { stream := 0 } }

/-- LDQ with the queue full and with room for one; DRQ with its range free and with a queued load of it; HAND, CAIRN. -/
theorem test_wit_loads : 64 ≤ ((queuedLoads 64).tor 0).loads.length ∧
    (ready (asked (queuedLoads 63) (.ldq 0 0)) (.ldq 0 0) = true ∧ ((asked (queuedLoads 63) (.ldq 0 0)).tor 0).loads.length < 64) ∧
    (ready (asked on (.drq 0 ⟨0, {}⟩)) (.drq 0 ⟨0, {}⟩) = true ∧ (asked on (.drq 0 ⟨0, {}⟩)).rangePending 0 0 0 32 = false) ∧
    (ready (asked loading (.drq 0 ⟨0, {}⟩)) (.drq 0 ⟨0, {}⟩) = true ∧ (asked loading (.drq 0 ⟨0, {}⟩)).rangePending 0 0 0 32 = true) ∧
    ready (asked on (.hand 0 1 0 0 0)) (.hand 0 1 0 0 0) = true ∧ ready (asked on (.cairn 0 2)) (.cairn 0 2) = true := by
  decide +kernel

/-- Tor 0 at its CAIRN word with PRE words left, before and after the release of its place, and the first of them an LDQ. -/
def pre (released : Bool) : State :=
  asked (tor fun r => { r with state := 4, reported := true, preLeft := 1, released := released }) (.ldq 0 0)

/-- LDQ as a PRE word: of a tor that goes on waiting, and of a released one with its last PRE word. -/
theorem test_wit_pre : ((pre false).runner 0 = some 0 ∧ (pre false).preIssuer 0 = true ∧ ((pre false).tor 0).loads.length < 64 ∧
      (pre false).asks 0 0 (encStream 0x70 0) = true ∧ ((pre false).ctx 0).image = some (imageOf (pre false))) ∧
    ((pre true).preIssuer 0 = true ∧ (pre true).asks 0 0 (encStream 0x70 0) = true ∧
      ((pre true).tor 0).preLeft - 1 = 0 ∧ ((pre true).tor 0).released = true) := by decide +kernel

/-! ## The array -/

/-- Tor 0 with n tile words behind a running pass. -/
def queuedPasses (n : Nat) : State := tor fun r => { r with pass := some {}, passes := List.replicate n {} }

/-- TMM and TCONV: room for one more, and a full queue; plane counts of 2 and 3. -/
theorem test_wit_tiles :
    (ready (asked (queuedPasses 7) (.tmm 0 default)) (.tmm 0 default) = true ∧ ((asked (queuedPasses 7) (.tmm 0 default)).tor 0).queued < 9) ∧
    (ready (asked (queuedPasses 7) (.tconv 0 default)) (.tconv 0 default) = true ∧
      ((asked (queuedPasses 7) (.tconv 0 default)).tor 0).queued < 9) ∧
    (ready (asked (queuedPasses 8) (.tmm 0 default)) (.tmm 0 default) = true ∧ 9 ≤ ((asked (queuedPasses 8) (.tmm 0 default)).tor 0).queued) ∧
    (default : TileOp).apl ≠ 3 ∧ (default : TileOp).bpl ≠ 3 ∧
    ({ (default : TileOp) with apl := 3 }).apl = 3 ∧ ({ (default : TileOp) with bpl := 3 }).bpl = 3 := by decide +kernel

/-- `on` with a pass at the head of tor 0's queue, and its array empty. -/
def startable : State := tor fun r => { r with passes := [{}] }

/-- TILE_PASS_START: room in the array, delay copies that agree with the repair map, and one that a changed bit upsets. -/
theorem test_wit_pass_start : startable.runner 0 = some 0 ∧ (startable.ctx 0).image = some image ∧ startable.fused 0 = false ∧
    (startable.tor 0).roomForPass = true ∧ (startable.tor 0).passes = [{}] ∧
    (List.range 4).filter (fun l => !(startable.tor 0).delayOk l) = [] ∧
    (List.range 4).filter (fun l => !((startable.tor 0).upsetDelay true { tor := 0, row := 2, bit := 2 }).delayOk l) = [2] := by
  decide +kernel

/-- R102: the upset copy fails the pass with ARR_SKEW, before its first wave. -/
theorem test_skew_fails : (match exec (.tilePassStart 0 [] [{ tor := 0, row := 2, bit := 2 }]) startable with
    | .next s => (s.tor 0).pass.isNone && (s.tor 0).failedTiles == [0] && (s.tor 0).torFail == 1 | _ => false) = true := by decide +kernel

/-- R107: with row 1 mapped out the logical rows above it run one physical row, and one wave, later. -/
theorem test_row_delays : (tor fun r => { r with rowOut := 1 }).rowDelays 0 = [0, 2, 3, 4] := by decide +kernel

/-- The residues of a cell at both ends of the segment register's range. -/
theorem test_wit_cell : mod127 (-(2 ^ 35)) = ({ seg := -(2 ^ 35), segRes := mod127 (-(2 ^ 35)) } : Cell).segRes ∧
    mod127 0 = ({} : Cell).res ∧ (-(2 ^ 35) : Int) ≤ -(2 ^ 35) + (cellProducts true 0 {} {} []).sum ∧
    (2 ^ 35 - 1 : Int) + (cellProducts true 0 {} {} []).sum < 2 ^ 35 := by decide +kernel

/-- A pass of one K-step at a wave. -/
def pass (wave : Nat) (d : Desc) : Pass := { aDesc := d, bDesc := d, tile := BitVec.ofNat 256 (4 * 2 ^ 128), wave := wave }

/-- `on` with a pass in tor 0's array. -/
def running (p : Pass) : State := tor fun r => { r with pass := some p }

/-- Two blocks of a K4N tensor: one with an escape in its first element, one with a one in its first element. -/
def escBlock : Block := { base := BitVec.ofNat 272 (8 + 2 ^ 271), scree := [0] }
def oneBlock : Block := { base := BitVec.ofNat 272 1 }

/-- `running` with both blocks in the staging ring, and the outlier queues of tor 0. -/
def escPass : Pass := pass 0 (k4n ||| 2 ^ 40)
def staged (queues : List Nat) : State :=
  tor fun r => { r with pass := some escPass, queues := queues, ringA := [(0, [(0, escBlock)])], ringB := [(0, [(0, oneBlock)])] }

/-- WAVE: a slice that is lacking; an outlier queue without room; a slip; a bad word; a wave that runs. -/
theorem test_wit_wave :
    ((running (pass 0 k4n)).torWave 0 false (pass 0 k4n) {}).isNone = true ∧
    (((staged [32, 0, 0, 0]).torWave 0 false escPass {}).any
      (fun w => (List.zip [32, 0, 0, 0] ((List.range 4).map (nth 0 w.needs))).any (fun q => q.1 != 0 && decide (32 < q.1 + q.2)))) = true ∧
    (((staged [0, 0, 0, 0]).torWave 0 false escPass {}).any (fun w => w.causes == [] && w.needs == [8, 0, 0, 0])) = true ∧
    (((staged [0, 0, 0, 0]).torWave 0 false escPass { slips := [1] }).any (fun w => w.causes == [(0x09, 0)])) = true ∧
    (decide (escPass.wave < escPass.waves) && !({ bad := [0] } : EccObs).bad.isEmpty) = true ∧
    (pass 0 k4n).wave < (running (pass 0 k4n)).totalWaves 0 (pass 0 k4n) ∧ ((running (pass 0 k4n)).tor 0).tail = none ∧
    (running (pass 0 k4n)).runner 0 = some 0 ∧ (running (pass 0 k4n)).fused 0 = false := by decide +kernel

/-- A pass whose waves are issued; one register that disagrees with its residue. -/
def ended (exact : SMap Int) : Pass := { pass 9 k4n with exact := exact }

/-- TILE_PASS_END: a pass that ends well, one with a bad register, and DRAIN_RELEASE with and without an entry to take. -/
theorem test_wit_pass_end : (running (ended [])).totalWaves 0 (ended []) ≤ (ended []).wave ∧
    ((running (ended [])).tor 0).queues.all (· == 0) = true ∧ ((running (ended [])).tor 0).drains.length < 2 ∧
    ((ended []).upset []).badRows = [] ∧ ((running (ended [])).drained 0 image 0 (ended [])).nan = false ∧
    ((ended [(0, 1)]).upset []).badRows = [0] ∧ (running (ended [])).runner 0 = some 0 := by decide +kernel

/-- R100: a pass that drains to the tor store, with a word of the store that cannot be corrected, and one without. -/
def endedToStore : Pass := { ended [] with drain := 2 ^ 19 }

theorem test_wit_pass_end_store : DrainEntry.toStore endedToStore.drain = true ∧ ({ bad := [3] } : EccObs).bad.isEmpty = false ∧
    ({} : EccObs).bad.isEmpty = true ∧ DrainEntry.toStore (ended []).drain = false := by decide

theorem test_drain_ecc_fails : (match exec (.tilePassEnd 0 [] [{ bad := [3] }]) (running endedToStore) with
    | .next s => (s.tor 0).drains.isEmpty && (s.tor 0).failedTiles == [0] | _ => false) = true := by decide +kernel

/-- A drain entry, with or without a norm test ahead of it. -/
def entry (norm decided : Bool) : DrainBuf :=
  { uid := 0, tile := 0, drain := if norm then 2 ^ 24 else 0, ceiling := 0, blocks := [], counts := {}, norm := norm, logNorm := 5,
    rung := 0, decided := decided }

/-- `on` with one drain entry. -/
def draining (b : DrainBuf) : State := tor fun r => { r with drains := [b] }

theorem test_wit_release : (draining (entry true false)).runner 0 = some 0 ∧
    ((draining (entry true false)).tor 0).drains.find? (fun b => !b.norm || b.decided) = none ∧
    ((draining (entry false false)).tor 0).drains.find? (fun b => !b.norm || b.decided) = some (entry false false) ∧
    (draining (entry false false)).leadOf 0 = 0 ∧ (entry false false).raw = [] := by decide +kernel

/-! ## Norm check, alternates, settle, storm -/

/-- `on` with a pass open or failed for tile 0. -/
def nchkOpen : State := tor fun r => { r with passes := [{}] }
def nchkFailed : State := tor fun r => { r with failedTiles := [0] }

/-- NCHK of tile 0 in a state: ready, on an unfused ridge, the pass open, the pass failed, the norm result there. -/
def checks (s : State) : Bool × Bool × Bool × Bool × Bool :=
  let u := asked s (.nchk 0 0)
  (ready u (.nchk 0 0), u.fused 0, (u.tor 0).passOpen 0, (u.tor 0).failedTiles.contains 0,
    ((u.tor 0).drains.find? (fun z => z.tile == 0 && z.norm && !z.decided)).isSome)

/-- NCHK: with the pass open, with the pass failed, with the norm result there. -/
theorem test_wit_nchk : checks nchkOpen = (true, false, true, false, false) ∧ checks nchkFailed = (true, false, false, true, false) ∧
    checks (draining (entry true false)) = (true, false, false, false, true) := by decide +kernel

/-- The ladder at its thresholds: at the up threshold, one above it, at the down threshold, and a zero norm. -/
theorem test_wit_ladder : ((2097152 : Int) ≠ zeroNorm ∧ (2097152 : Int) - 0 ≤ ({} : Thresholds).jumpUp.toNat * 2 ^ 16) ∧
    (2097153 ≠ zeroNorm ∧ ({} : Thresholds).jumpUp.toNat * 2 ^ 16 < (2097153 : Int) - 0) ∧
    ((-2097152 : Int) ≠ zeroNorm ∧ 0 - (-2097152 : Int) ≤ ({} : Thresholds).jumpDown.toNat * 2 ^ 16) ∧
    (({} : Ladder).storm = false ∧ ({} : Ladder).start = 0 ∧ ({ valid := true } : Swb).valid = true) := by decide +kernel

/-- R148: an agreeing result moves the reference by an eighth of the difference, rounded down. -/
theorem test_ladder_moves : (nchkStep {} true true 0 (-9) {} { valid := true }).entry.ref = -2 := by decide +kernel

/-- `on` with tile 0 in phase p, its ladder's selector, and storm verdicts given. -/
def phased (p : Byte) (sel : Nat) (verdicts : List Bool) : State :=
  ctx fun x => { x with image := some { image with phases := [p] }, ladders := [(0, { sel := sel, seen := true })], verdicts := verdicts }

/-- ALT of tile 0 in a state: ready, no replayed tile to wait for, the selector, its entry, the phase, the verdicts given. -/
def alternates (s : State) (pos : Bool) : (Bool × Bool) × Nat × Option Nat × Nat × Nat :=
  let u := asked s (.alt 0 0 pos 1)
  let im := imageOf u
  let sel := ((u.ctx 0).ladder (u.tileNo im 0 0)).sel
  ((ready u (.alt 0 0 pos 1), (u.ctx 0).replayWaits (im.workOfTile 0 0)), sel, im.altEntry (u.tileNo im 0 0) sel, im.phaseOf (u.tileNo im 0 0),
    (u.ctx 0).verdicts.length)

/-- ALT after its block: KEEP, and a selected entry; before it: the last phase that needs no verdict, a verdict that is out
and one that is there; SETTLE. -/
theorem test_wit_alt : (alternates on true).1 = (true, false) ∧ (alternates on true).2.1 = 0 ∧
    (alternates (phased 0 1 []) true).1 = (true, false) ∧ (alternates (phased 0 1 []) true).2.1 = 1 ∧
    (alternates (phased 0 1 []) true).2.2.1 = some 7 ∧
    (alternates (phased 1 0 []) false).2.2.2 = (1, 0) ∧ (alternates (phased 1 0 []) false).1 = (true, false) ∧
    (alternates (phased 2 0 []) false).2.2.2 = (2, 0) ∧ (alternates (phased 2 0 []) false).1 = (true, false) ∧
    (alternates (phased 2 0 [false]) false).2.2.2 = (2, 1) ∧ (alternates (phased 2 0 [false]) false).1 = (true, false) ∧
    ready (asked on (.settle 0 0 1)) (.settle 0 0 1) = true := by decide +kernel

/-- An image of one tile word with a norm watch, over one K-step, whose tile is final and jumped. -/
def stormImage : Sched :=
  { image with descs := [0, g16], phases := [0], alts := [],
               streams := [{ words := [BitVec.ofNat 128 (0x10 * 2 ^ 120)], tiles := [BitVec.ofNat 256 (2 ^ 130)], drains := [2 ^ 24] }] }
def stormy : State :=
  ctx fun x => { x with image := some stormImage, ladders := [(0, { final := true, jumped := true })], pol := { x.pol with thresholds := { stormFraction := 32 } } }

/-- STORM_VERDICT: with no tile; at the last phase; with one tile that jumped, all of the weight there is. -/
theorem test_wit_storm : on.live = true ∧ (on.ctx 0).state = 3 ∧ (on.ctx 0).verdicts.length ≤ 63 ∧ on.normTiles image = [] ∧
    ((phased 0 0 (List.replicate 63 false)).ctx 0).verdicts.length ≤ 63 ∧
    (stormy.normTiles stormImage).map (fun t => (t.1, t.2.1)) = [(0, 0)] ∧
    0 < ((stormy.normTiles stormImage).map (fun t => t.2.2)).foldl (· + ·) 0 ∧ ((stormy.ctx 0).ladder 0).final = true := by decide +kernel

/-! ## Memory -/

theorem test_address_map : subOf 0x41 = 0 ∧ locOf 0x41 = 1 ∧ subOf (0x300000000 + 1) = 65 ∧ subOf 0xBFFFFFFFF < 256 ∧
    burstAt (subOf 0xBFFFFFFFF) (locOf 0xBFFFFFFFF) = 0xBFFFFFFFF := by decide +kernel


/-- R168: the worked example, a block of zeros with FLAGS = 0x10, and its symbol 67 read back as 0. -/
theorem test_burst_code : (encodeBurst (mkBurst 0x10 0 0)).extractLsb' 272 16 = 0x4673 ∧
    decodeBurst (encodeBurst (mkBurst 0x10 0 0) ^^^ (1 <<< 268)) = .corrected (mkBurst 0x10 0 0) := by decide +kernel

theorem test_burst_poison : decodeBurst (poisonBurst 5) = .poison ∧ (67 < 72 ∧ (1 : BitVec 4) ≠ 0) := by decide +kernel

/-- A burst read of the first subchannel, from a client. -/
def readReq (cl : Client) (a : BitVec 36) : MemReq := { client := cl, addr := a, write := none }

/-- Requests at the last populated burst and past it, of management and of another client. -/
theorem test_wit_request : on.memWorks = true ∧ (readReq (.tor 0) 0xBFFFFFFFF).addr.toNat < moduleBursts ∧
    moduleBursts ≤ (readReq .mgmt 0xC00000000).addr.toNat ∧ (readReq .mgmt 0).client = .mgmt ∧ (readReq .host 0).client ≠ .mgmt ∧
    on.host.snoop.contains 0 = false := by decide +kernel

/-- Writes that reach their burst and writes that do not: of the host after containment, of a tor in the moraine. -/
def mored : State := { on with img := { on.img with active := { on.img.active with moraineBase := 0, moraineSize := 64 } } }
def writeReq (cl : Client) (a : BitVec 36) : MemReq := { client := cl, addr := a, write := some 0 }

theorem test_wit_barred : on.writeBarred (writeReq .host 4) = false ∧ mored.writeBarred (writeReq (.tor 0) 1) = true ∧
    mored.writeBarred (writeReq (.tor 0) 2) = false ∧ mored.writeBarred (writeReq .dump 1) = false ∧
    ({ on with mem := { on.mem with contained := true } }).writeBarred (writeReq .host 4) = true := by decide +kernel

/-- `on` with requests waiting at subchannel 0. -/
def waiting (q : List MemReq) (recent : BitVec 16) (contained : Bool) : State :=
  { on with mem := { on.mem with contained := contained }, img := { on.img with active := { on.img.active with arbiter := List.replicate 576 1 } } }.setSub 0 { queue := q, recent := recent }

/-- What a subchannel chooses: a read, a write, a dynamic request ahead of a scheduled head with one dynamic grant in the
last sixteen, the head with two; once CONTAINED a write alone; a scheduled read. -/
theorem test_wit_choose :
    (waiting [readReq (.tor 0) 0] 0 false).choose 0 = some (readReq (.tor 0) 0) ∧
    (waiting [{ client := .ni 0, addr := 0, write := some 7 }] 0 true).choose 0 = some { client := .ni 0, addr := 0, write := some 7 } ∧
    (waiting [readReq (.tor 0) 0] 0 true).choose 0 = none ∧
    (waiting [readReq (.tor 0) 0, readReq .host 0x41] 1 false).choose 0 = some (readReq .host 0x41) ∧
    (waiting [readReq (.tor 0) 0, readReq .host 0x41] 3 false).choose 0 = some (readReq (.tor 0) 0) ∧
    ((Client.host == .scrub) && ((waiting [] 0 false).sub 0).scrubDue) = false := by decide +kernel

/-- A granted read of burst 0 by a client, with the bits it took. -/
def granted (cl : Client) (raw : Burst) : State := on.setSub 0 { inflight := [{ req := readReq cl 0, raw := raw }] }

/-- MEMORY_READ_DONE: clean, corrected, poison and uncorrectable bits, for a tor and for the host. -/
theorem test_wit_read_done : decodeBurst (encodeBurst 9 ^^^ 0) = .clean 9 ∧ decodeBurst (encodeBurst 9 ^^^ 1) = .corrected 9 ∧
    decodeBurst (poisonBurst 0 ^^^ 0) = .poison ∧ (match decodeBurst (encodeBurst 9 ^^^ 0x11) with | .uncorrectable _ => true | _ => false) = true ∧
    ((granted (.tor 0) (encodeBurst 9)).sub 0).inflight = [{ req := readReq (.tor 0) 0, raw := encodeBurst 9 }] ∧
    (granted .host 0).memWorks = true := by decide +kernel

/-- A first and a later uncorrectable read; the last burst, the last source. -/
theorem test_wit_ue : on.mem.contained = false ∧ (waiting [] 0 true).mem.contained = true ∧ moduleBursts - 1 < moduleBursts ∧ 15 < 16 ∧
    on.boot.mode = 1 ∧ on.err.containState ≠ 1 := by decide +kernel

/-- SLOT_MERGE: a burst that merges, one with poison under the NI and under a tor, one past the memory. -/
theorem test_wit_merge : (match (on.mergeSlot 0 0 [1]).1 with | .poison => false | _ => true) = true ∧
    (match ((on.setRaw 0 (poisonBurst 0)).mergeSlot 0 0 [1]).1 with | .poison => true | _ => false) = true ∧
    (on.setRaw 0 (poisonBurst 0)).torCtx 0 = some 0 ∧ ((on.setRaw 0 (poisonBurst 0)).ctx 0).image = some image ∧
    moduleBursts ≤ (0xC00000000 : BitVec 36).toNat := by decide +kernel

/-- SCRUB_REQUEST with and without a scrub read waiting. -/
theorem test_wit_scrub : on.mem.initDone = true ∧ ((waiting [readReq .scrub 0] 0 false).sub 0).queue.any (fun r => r.client == .scrub) = true ∧
    (on.sub 0).queue.any (fun r => r.client == .scrub) = false := by decide +kernel

/-! ## Host accesses -/

/-- The host's lines: the last in the decoder's range; before and after CONTAINED; a first half that is written in part;
poison, an uncorrectable half. -/
theorem test_wit_host : on.hostServes = true ∧ on.hostBurst 4032 = some 126 ∧ on.hostBurst 4096 = none ∧ on.hostCut = false ∧
    (waiting [] 0 true).hostCut = true ∧ (waiting [] 0 true).hostServes = true ∧ (waiting [] 0 true).hostBurst 0 = some 0 ∧
    ((on.hostRead 0).1.data?).isSome = true ∧ (((on.hostRead 0).2.hostRead 1).1.data?).isSome = true ∧
    (getLane 32 (1 : BitVec 64) 0 ≠ 0 ∧ getLane 32 (1 : BitVec 64) 1 = 0) ∧ ((on.hostRead 0).1.data?).isSome = true ∧
    (match ((on.setRaw 0 (encodeBurst 9 ^^^ 0x11)).hostRead 0).1 with | .uncorrectable _ => true | _ => false) = true ∧
    on.waitingFor 126 = [] ∧ on.waitingFor 127 = [] := by decide +kernel

/-- A snoop outstanding for a line, BISnpInv and BISnpData. -/
theorem test_wit_snoop : ({ on with host := { on.host with waiting := [127] } }).host.waiting.find? (fun w => w / 2 == 126 / 2) = some 127 ∧
    ({ on with host := { on.host with waiting := [126] } }).host.waiting.find? (fun w => w / 2 == 126 / 2) = some 126 ∧
    on.powered = true ∧ on.boot.cxlUp = true := by decide +kernel

/-- Stores: a partial write, a grant, a merge and a debug write that answer a next state. -/
theorem test_wit_stores : (match exec (.hostMemPartialWrite 0 0 1) on with | .next _ => true | _ => false) = true ∧
    (match exec (.subchannelGrant 0) (waiting [{ client := .ni 0, addr := 0, write := some 7 }] 0 false) with | .next _ => true | _ => false) = true ∧
    (match exec (.slotMerge 0 0 [1] .host) on with | .next _ => true | _ => false) = true ∧
    (match exec (.debugAccess (.memWrite 0 0)) { on with sec := { on.sec with debugOpen := true } } with | .next _ => true | _ => false) = true := by
  decide +kernel

/-! ## Links -/

/-- `on` with a plan whose ports 0 and 95 face a module at address 1, port 2, and with port 95 in a state. -/
def linked (p : Port) : State :=
  { on with img := { on.img with active := { on.img.active with
      plan := { ports := List.replicate 96 (BitVec.ofNat 32 (2 ^ 31 + 2 ^ 29 + 2 ^ 14 + 2 * 2 ^ 7)) } } } }.setPort 95 p

/-- A claim of the planned neighbour, of another slot, and of a switch. -/
def goodClaim : ClaimData := { fromSwitch := false, addr := 1, port := 2, digest := 0 }
def otherClaim : ClaimData := { goodClaim with addr := 3 }
def switchClaim : ClaimData := { goodClaim with fromSwitch := true }

/-- Training at the round-trip limit and above, planned and unplanned; claiming; discovery; retraining; range maps. -/
theorem test_wit_discovery : (linked {}).linksOn = true ∧ (95 : BitVec 7).toNat < 96 ∧ ((linked { state := 1 }).port 95).state = 1 ∧
    1200 < (1201 : BitVec 16).toNat ∧ (1200 : BitVec 16).toNat ≤ 1200 ∧ on.portClass 95 = 0 ∧ (linked {}).portClass 95 ≠ 0 ∧
    (((linked { state := 2 }).port 95).state = 2 ∧ ((linked { state := 2 }).port 95).claimed = false) ∧ ((linked {}).port 95).outcome = 0 ∧
    ((32 : BitVec 6).toNat ≤ 32 ∧ (List.replicate 33 (0 : BitVec 2)).length = 33) ∧
    ((linked { state := 4 }).port 95).state = 4 ∧ ((linked { state := 5 }).port 95).state = 5 := by decide +kernel

/-- A claim that matches, at the wrong position, of the wrong class; on a port that is up, the same one and another. -/
theorem test_wit_claim : (linked { state := 2 }).claimOutcome 95 goodClaim = 1 ∧ (linked { state := 2 }).claimOutcome 95 otherClaim = 4 ∧
    (linked { state := 2 }).claimOutcome 95 switchClaim = 5 ∧
    ((linked { state := 3, neighAddr := 1, neighPort := 2 }).port 95).neighAddr = goodClaim.addr ∧
    ((linked { state := 3, neighAddr := 1, neighPort := 2 }).port 95).neighPort = goodClaim.port ∧
    ((linked { state := 3, neighAddr := 1, neighPort := 2 }).port 95).neighAddr ≠ otherClaim.addr := by decide +kernel

/-- A packet of 16 bits of payload in the retry buffer. -/
def kept (lseq : BitVec 256) : Packet := { header := lseq, payload := [] }

/-- A sixteenth and a seventeenth bad codeword; a packet sent seven and eight times. -/
theorem test_wit_port_failure :
    ((((linked { state := 3, cwTicks := List.replicate 15 0 }).port 95).cwTicks.filter
      (fun t => decide ((on.pwr.ticks - t).toNat < 1000000)) ++ [0]).length ≤ 16) ∧
    (16 < (((linked { state := 3, cwTicks := List.replicate 16 0 }).port 95).cwTicks.filter
      (fun t => decide ((on.pwr.ticks - t).toNat < 1000000)) ++ [0]).length) ∧
    ((linked { state := 3, retry := [(kept 0, 7)] }).port 95).retry = [(kept 0, 7)] ∧ 7 < 8 ∧ 8 ≤ 8 := by decide +kernel

/-- A sequence in the retry buffer and one that is not. -/
theorem test_wit_acknowledge : (∀ e ∈ [(kept 4, 1), (kept 5, 1)], Header.lseq e.1.header ≠ 6) ∧ Header.lseq (kept 5).header = 5 ∧
    (∀ x ∈ [(kept 4, 1)], Header.lseq x.1.header ≠ 5) := by decide +kernel

/-- The header of a packet with no payload, and the packet as it arrives. -/
def header (type dest : Nat) : Header := BitVec.ofNat 256 (type * 2 ^ 51 + dest * 2 ^ 113)
def raw (h : Header) : RawPacket := { header := h, payload := [], crc := packetCrc h [] }

/-- A port with no receive slot free. -/
def full : Port :=
  { state := 3, rxSlots := List.replicate 2 (kept 0, 0) ++ List.replicate 2 (kept 0, 1) ++ List.replicate 12 (kept 0, 2) }

/-- Reception: a packet for this module, one for another, one whose TYPE and CLASS disagree; a bad CRC; no slot. -/
theorem test_wit_receive : (raw (header 2 0)).payload.length = (header 2 0).length ∧ (header 2 0).lseq = ({ state := 3 } : Port).rxNext ∧
    packetCrc (header 2 0) [] ≠ 0 ∧ (header 2 0).malformed = false ∧ (header 2 0).dest = on.plan.ownAddr ∧
    (header 2 65).malformed = false ∧ (header 2 65).dest ≠ on.plan.ownAddr ∧ (header 2 65).type ≠ 0x10 ∧ (header 1 0).malformed = true ∧
    ({ state := 3 } : Port).slotKind 0 = some 0 ∧ full.slotKind 0 = none := by decide +kernel

/-- `on` with a flow for position 0, which slot 0 holds. -/
def joined : State :=
  { on with img := { on.img with active := { on.img.active with contexts := [{ valid := true, ridges := 1, flowCount := 2 }] } }
            crn := { on.crn with members := [(0, (0, true))], ownState := 2 } }

/-- A packet of the step under way, one of an earlier step; a flow at the edges of its window. -/
theorem test_wit_standing : joined.standing (header 2 0) = .now ∧ joined.standing ((header 2 0).set 144 16 5) = .stale ∧
    Header.slotFlow (header 2 0) = false ∧ (({} : Flow).accept 255 matches .accepted _) = true ∧ (({} : Flow).accept 256 matches .accepted _) = false ∧
    ({ base := 1 } : Flow).accept 0 = .duplicate ∧ ({ base := 0xFFFFFDFF } : Flow).base.toNat + 512 < 2 ^ 32 := by decide +kernel

/-- Flow acknowledgements of a positional and a slot flow: BASE one ahead, and as far as was sent. -/
theorem test_wit_flow_ack : ({ nextSeq := 1 } : Flow).acked.toNat < (1 : BitVec 32).toNat ∧ (1 : BitVec 32).toNat ≤ ({ nextSeq := 1 } : Flow).nextSeq.toNat ∧
    65 < 66 ∧ ({ base := 1 } : Flow).base ≠ ({ base := 1 } : Flow).lastAck ∧ on.linksOn = true := by decide +kernel

/-! ## Network interface and update engine -/

/-- A reduction entry and a gather entry of chunk 0, whose source is position 9. -/
def netImage : Sched :=
  { image with descs := [0, k4n], params := [BitVec.ofNat 256 (2 ^ 8)], posList := [9],
               plans := [[BitVec.ofNat 256 (2 ^ 29 + 2 ^ 190), BitVec.ofNat 256 (2 ^ 24 + 2 ^ 29 + 2 ^ 190)]] }
def net (f : Context → Context) : State := ctx fun x => f { x with image := some netImage }

/-- A packet of position p in attempt a with no blocks; LAST for `arg` 2^36, with CONTRIB 1. -/
def coll (p : BitVec 14) (a : Nat) : CollMsg := { ctx := 0, srcPos := p, arg := BitVec.ofNat 64 (a * 2 ^ 34 + 2 ^ 36 + 2 ^ 48), payload := [] }

/-- `net` with a second reduction entry over the same accumulators, whose node holds them. -/
def heldAcc : State :=
  net fun x => { ({ x with image := some { netImage with plans := [[BitVec.ofNat 256 (2 ^ 29 + 2 ^ 190), BitVec.ofNat 256 (2 ^ 29 + 2 ^ 190)]] } } : Context) with
    nodes := [(1, { contrib := 1 })] }

/-- R218: an accumulator range that another node holds, and that node's own. -/
theorem test_wit_held : (heldAcc.ctx 0).accHeld 0 (BitVec.ofNat 256 (2 ^ 29 + 2 ^ 190)) = true ∧
    (heldAcc.ctx 0).accHeld 1 (BitVec.ofNat 256 (2 ^ 29 + 2 ^ 190)) = false := by decide +kernel

/-- COLL: of no source; of another attempt; at a complete node; of a repeated block; one that is added; a failed chunk. -/
theorem test_wit_coll : (net id).takes 0 = some netImage ∧
    ((net id).ctx 0).findNode 0 false = some (0, BitVec.ofNat 256 (2 ^ 29 + 2 ^ 190)) ∧
    (netImage.sources (BitVec.ofNat 256 (2 ^ 29 + 2 ^ 190))).contains (coll 8 0).srcPos.toNat = false ∧
    (netImage.sources (BitVec.ofNat 256 (2 ^ 29 + 2 ^ 190))).contains (coll 9 0).srcPos.toNat = true ∧
    (CollArg.ofWord (coll 9 1).arg).attempt ≠ ((net id).ctx 0).attempt ∧ (CollArg.ofWord (coll 9 0).arg).attempt = ((net id).ctx 0).attempt ∧
    (((net id).ctx 0).node 0).complete = false ∧ (((net id).ctx 0).node 0).broken = false ∧
    ((net fun x => x.setNode 0 { complete := true }).ctx 0 |>.node 0).complete = true ∧
    ((net id).ctx 0).accHeld 0 (BitVec.ofNat 256 (2 ^ 29 + 2 ^ 190)) = false ∧ (CollArg.ofWord (coll 9 0).arg).chunk < 2 ^ 24 ∧
    (CollArg.ofWord (coll 9 0).arg).contrib = 1 ∧ (CollArg.ofWord (coll 9 0).arg).last = true := by decide +kernel

/-- A packet whose LAST comes without CONTRIB is a repeat. -/
theorem test_wit_coll_repeat : (CollArg.ofWord (BitVec.ofNat 64 (2 ^ 36))).last = true ∧
    (CollArg.ofWord (BitVec.ofNat 64 (2 ^ 36))).counted = false ∧ (CollArg.ofWord (BitVec.ofNat 64 (2 ^ 36))).contrib ≠ 1 := by decide +kernel

/-- GATHER: as a packet that lands, and as one that a module catching up keeps; the update engine's three cases. -/
theorem test_wit_gather : ((net id).ctx 0).findNode 0 true = some (1, BitVec.ofNat 256 (2 ^ 24 + 2 ^ 29 + 2 ^ 190)) ∧
    (net id).crn.ownState ≠ 1 ∧ ({ net id with crn := { ownState := 1 } }).crn.ownState = 1 ∧ ((net id).ctx 0).copyDone = false ∧
    (net id).updates 0 = true ∧ ((net fun x => { x with written := [blockKey 0 0] }).ctx 0).written.contains (blockKey 0 0) = true ∧
    mapGet [] ((net id).ctx 0).grads (blockKey 0 0) = [] := by decide +kernel

/-- A reduction packet as it arrives, for a node whose accumulators are free and for one whose accumulators are held. -/
def collPacket : Packet := { header := (header 1 0).set 64 8 0, payload := [] }

theorem test_wit_must_wait : heldAcc.mustWait collPacket = true ∧ (net id).mustWait collPacket = false := by decide +kernel

/-- R268: a block of a parameter, in an ACTIVE module and in one that catches up, where nothing of its state has landed. -/
theorem test_wit_landed : (net id).blockLanded 0 netImage 0 0 = true ∧
    ({ net id with crn := { on.crn with ownState := 1 } } : State).blockLanded 0 netImage 0 0 = false := by decide +kernel

/-- Tokens of the step under way, of the next one, of one after it, and from a sender past a SKIP. -/
def token (step : BitVec 16) (memb : Byte) : TokenMsg :=
  { ctx := 0, srcPos := 9, step := step, ctxEpoch := 0, membEpoch := memb, token := 5, inc := 1 }

theorem test_wit_token : (token 0 0).ctxEpoch = (on.ctx 0).epoch ∧ (token 0 0).step = (on.ctx 0).step.setWidth 16 ∧
    (token 0 0).membEpoch = on.crn.epoch.setWidth 8 ∧ on.crn.declared.contains 9 = false ∧
    ({ on.crn with declared := [9] }).declared.contains 9 = true ∧ (token 1 0).step = (on.ctx 0).step.setWidth 16 + 1 ∧
    (token 0 1).membEpoch = on.crn.epoch.setWidth 8 + 1 ∧ ((token 2 0).step ≠ (on.ctx 0).step.setWidth 16 ∧
    (token 2 0).step ≠ (on.ctx 0).step.setWidth 16 + 1) ∧ on.takes 0 = some image := by decide +kernel

/-- A K4N tensor of one block with plane 1 at burst 2^21. -/
def planed : Sched := { image with descs := [0, k4n ||| BitVec.ofNat 512 (2 ^ 38 + 2 ^ 21 * 2 ^ 164)] }

theorem test_wit_fetch : (ctx fun x => { x with image := some planed }).takes 0 = some planed ∧ planed.planeBurst (2 ^ 21) = true ∧
    on.mem.contained = false ∧ on.prefetch = false ∧ ((on.moduleRead (2 ^ 21) 4).1.data?).isSome = true ∧
    (match ((on.setRaw (2 ^ 21) (encodeBurst 9 ^^^ 1)).moduleRead (2 ^ 21) 4).1 with | .corrected _ => true | _ => false) = true := by decide +kernel

/-- A module that catches up, whose state copy is not complete and which has no source digest yet. -/
def catching : State := { on with crn := { on.crn with ownState := 1 } }

theorem test_wit_belay : catching.takes 0 = some image ∧ catching.crn.ownState = 1 ∧ (catching.ctx 0).copyDone = false ∧
    (catching.ctx 0).srcDigests.any (fun e => e.1 == 0) = false := by decide +kernel

/-! ## Membership and the cairn -/

/-- `on` in range 0 with one other module: port 0 leads to slot 1, which holds position 1. -/
def ranged : State :=
  { on with img := { on.img with active := { on.img.active with
      plan := { ports := [BitVec.ofNat 32 (2 ^ 31 + 2 ^ 29 + 2 ^ 14)], groups := [BitVec.ofNat 32 (2 ^ 31)] } } }
            crn := { on.crn with members := [(0, (0, true)), (1, (1, true))], ownState := 0 } }

theorem test_wit_membership : ranged.inRangeTraffic = true ∧ ranged.rangePeers.contains 1 = true ∧
    ¬ (ranged.crn.hbTimeout.toNat ≤ (ranged.pwr.ticks - mapGet 0 ranged.crn.heard 1).toNat) ∧
    ({ ranged with pwr := { ranged.pwr with ticks := 0x1E8480 } }).crn.hbTimeout.toNat ≤ (0x1E8480 - mapGet 0 ranged.crn.heard 1 : Word).toNat ∧
    (ranged.posOfSlot ranged.ownRange 1).isSome = true ∧
    ({ ranged with pwr := { ranged.pwr with ticks := 0x02FAF080 } }.setCtx 0 { (ranged.ctx 0) with phase := 1, reportAt := some 0 }).reportLate 1 = true := by
  decide +kernel

/-- R243: a proposal of a sender that has withdrawn; grounds that remain once slot 1 withdraws, and that do not. -/
def withdrewOne : State :=
  { ranged with crn := { ranged.crn with withdrew := [1], declared := [3, 5], declaredBy := [(3, 1), (5, 1), (5, 2)] } }

theorem test_wit_withdrew : withdrewOne.crn.withdrew.contains (1 : BitVec 6).toNat = true ∧
    ranged.crn.withdrew.contains (1 : BitVec 6).toNat = false ∧ (withdrewOne.voidProposals 1).crn.declared = [5] := by decide +kernel

/-- A module without a position asks to join; the suspicions: first, repeated, after withdrawal, after sixteen. -/
theorem test_wit_suspicion : ({ ranged with links := { state := 2 }, crn := { ownState := 3 } }).crn.restoreHold = false ∧
    (∀ c, (({ up with ctxs := [] } : State).ctx c).image = none) ∧ ranged.crn.proposed.contains 1 = false ∧ ranged.crn.withdrawn = false ∧
    ranged.crn.proposed.length < 16 ∧ ({ ranged.crn with proposed := [1] }).proposed.contains 1 = true ∧
    16 ≤ (List.range 16).length ∧ (List.range 16).contains 16 = false ∧ ranged.crn.declared.contains 1 = false ∧
    ranged.isDelegate = true ∧ 1 / 32 = ranged.ownRange ∧ 32 / 32 ≠ ranged.ownRange := by decide +kernel

/-- The cairn: a report that is ready, the root with a lacking summary, a verdict with and without a checkpoint. -/
def reporting : State :=
  (ctx fun x => { x with image := some { image with tors := [] } }).setTor 0 { state := 4, reported := true }
def rootImage : Sched := { image with cairnTree := [0xFFFF, 0] }
def verdict : Verdict :=
  { ctx := 0, step := 0, attempt := 0, decision := .commit, excluded := [], declared := [], clipN := 1, stormStep := false, joins := [],
    refusedJoins := [], diverged := [], caughtUp := [] }

theorem test_wit_cairn : reporting.live = true ∧ (reporting.startGathers 0).reportReady ((reporting.startGathers 0).ctx 0) { image with tors := [] } = true ∧
    ((reporting.startGathers 0).twinStage 0 { image with tors := [] }).2 = true ∧ rootImage.isRoot 0 = true ∧ rootImage.treeRanges.contains 1 = true ∧
    (1 : BitVec 9).toNat ≠ on.ownRange ∧ (∀ e ∈ (on.ctx 0).summaries, e.1 ≠ 1) ∧ ((on.ctx 0).op = .none ∧ (on.ctx 0).ckptQ = []) ∧
    (on.ctx 0).inStep = true := by decide +kernel

/-- Verdicts: each test of the decision in turn; a verdict of this step and attempt, of another, and a second one. -/
theorem test_wit_verdict : decisionOf 1 false 1 32 1 false false true false false false = .reduce ∧
    decisionOf 2 false 1 32 1 false false true false false false = .skip 7 ∧ decisionOf 1 false 1 33 1 false false true false false false = .skip 3 ∧
    decisionOf 0 false 1 32 1 false false false false false false = .commit ∧ verdict.step = (on.ctx verdict.ctx).step ∧
    verdict.attempt = (on.ctx verdict.ctx).attempt ∧ (on.ctx verdict.ctx).verdict = none ∧ ({ verdict with step := 1 }).step ≠ (on.ctx 0).step ∧
    (on.ctx 0).tokenPend = [] := by decide +kernel

/-! ## Host port and contexts -/

/-- A module in bring-up step 2, and one out of reset whose decoder waits. -/
def early : State := { up with boot := { mode := 0, step := 2 } }
def undecoded : State := { on with host := {} }

/-- Commands of the port and the ring, at their boundaries. -/
theorem test_wit_port : early.powered = true ∧ early.live = false ∧ 2 ≤ early.boot.step.toNat ∧ field early.boot.opts.cxlLink 0 2 ≤ (0 : BitVec 2).toNat ∧
    undecoded.barAnswers = true ∧ undecoded.boot.cxlUp = true ∧ undecoded.host.committed = false ∧ (0x10000000 : BitVec 64).toNat % 2 ^ 28 = 0 ∧
    on.host.committed = true ∧ (1 : BitVec 64).toNat % 2 ^ 28 ≠ 0 ∧ (ctx fun x => { x with state := 5 }).live = true ∧
    ((ctx fun x => { x with lineRead := true, ringSet := true }).ctx 0).watches = true ∧
    ((ctx fun x => { x with outHost := 1, lineRead := true }).ctx 0).outHost ≠ 0 := by decide +kernel

/-- A feed entry. -/
def feed (op space : Byte) (a0 a1 a2 : Word) : FeedEntry :=
  [1, 0, 0, 0, op, space, 0, 0] ++ leBytes 8 a0 ++ leBytes 8 a1 ++ leBytes 8 a2 ++ List.replicate 96 0

/-- `on` with context 0 between steps in a state, a host window of 4,096 bytes at 0 and one feed entry waiting. -/
def fed (st : BitVec 4) (e : FeedEntry) (f : Context → Context) : State :=
  ctx fun x => f { x with state := st, inStep := false, ringSet := true, ringOrder := 6, winSize := 1, feedQ := [e] }

/-- A completion timeout of the oldest request of a LOAD, of a RESTORE and of another. -/
theorem test_wit_timeout : feSpace (feed 1 0 0 0 0) = false ∧ (fed 1 (feed 1 0 0 0 0) fun x => { x with outHost := 1, op := .load (feed 1 0 0 0 0) }).live = true ∧
    ((fed 1 (feed 1 0 0 0 0) fun x => { x with outHost := 1 }).ctx 0).lineRead = false ∧
    ((fed 1 (feed 1 0 0 0 0) fun x => { x with outHost := 1 }).ctx 0).stepEntries = [] := by decide +kernel

/-- LOAD: a buffer that ends with the window, and one a byte past it. -/
theorem test_wit_load : (fed 1 (feed 1 0 0 4096 7) id).frontEntry 0 1 = some (feed 1 0 0 4096 7) ∧
    (fed 1 (feed 1 0 0 4096 7) id).bufferCauses 0 (feed 1 0 0 4096 7) = [] ∧
    lowest ((fed 1 (feed 1 0 1 4096 7) id).bufferCauses 0 (feed 1 0 1 4096 7)) = some 3 := by decide +kernel

/-- RESTORE: in LOADED, and in a state that does not allow it. -/
theorem test_wit_restore : (fed 2 (feed 2 0 0 4096 0) id).frontEntry 0 2 = some (feed 2 0 0 4096 0) ∧
    (fed 2 (feed 2 0 0 4096 0) id).bufferCauses 0 (feed 2 0 0 4096 0) = [] ∧
    lowest ((fed 5 (feed 2 0 0 4096 0) id).bufferCauses 0 (feed 2 0 0 4096 0)) = some 2 := by decide +kernel

/-- START with no state restored, and after a RESTORE. -/
theorem test_wit_start : (fed 2 (feed 3 0 9 0 0) id).frontEntry 0 3 = some (feed 3 0 9 0 0) ∧
    (fed 2 (feed 3 0 9 0 0) id).entryCauses 0 (feed 3 0 9 0 0) = [] ∧ (fed 2 (feed 3 0 9 0 0) id).startAllowed 0 = false ∧
    (fed 2 (feed 3 0 9 0 0) fun x => { x with restored := true }).startAllowed 0 = true := by decide +kernel

/-- CHECKPOINT with exactly the room its buffer needs: alone, and behind one under way. -/
def checkpointing (op : Operation) : State := fed 5 (feed 5 0 0 4104 0) fun x => { x with winSize := 2, op := op }

theorem test_wit_checkpoint : (checkpointing .none).frontEntry 0 5 = some (feed 5 0 0 4104 0) ∧
    (checkpointing .none).bufferCauses 0 (feed 5 0 0 4104 0) = [] ∧
    (checkpointing .none).ckptSize image ((checkpointing .none).ctx 0).key.isSome ≤ feArg (feed 5 0 0 4104 0) 1 ∧
    (((checkpointing .none).consume 0).ctx 0).op = .none ∧
    (((checkpointing (.checkpoint [])).consume 0).ctx 0).op = .checkpoint [] := by decide +kernel

/-- PAUSE of a run and of a held one; RESUME of a held context, and of one that membership holds. -/
theorem test_wit_pause : (fed 3 (feed 6 0 0 0 0) id).frontEntry 0 6 = some (feed 6 0 0 0 0) ∧ (fed 3 (feed 6 0 0 0 0) id).entryCauses 0 (feed 6 0 0 0 0) = [] ∧
    lowest ((fed 4 (feed 6 0 0 0 0) id).entryCauses 0 (feed 6 0 0 0 0)) = some 2 ∧
    (fed 4 (feed 7 0 0 0 0) id).frontEntry 0 7 = some (feed 7 0 0 0 0) ∧ (fed 4 (feed 7 0 0 0 0) id).entryCauses 0 (feed 7 0 0 0 0) = [] ∧
    bit ((fed 4 (feed 7 0 0 0 0) id).ctx 0).hold 2 = false ∧ bit ((fed 4 (feed 7 0 0 0 0) fun x => { x with hold := 4 }).ctx 0).hold 2 = true ∧
    bit ((fed 4 (feed 7 0 0 0 0) fun x => { x with hold := 8 }).ctx 0).hold 3 = true := by decide +kernel

/-- A LOAD under way. -/
def loadUnderWay : State := fed 1 (feed 1 0 0 64 7) fun x => { x with op := .load (feed 1 0 0 64 7), outHost := 1 }

/-- LOAD ends: no bytes, bytes that fail a check, bytes to a module out of service; and while an image waits. -/
theorem test_wit_load_ends : loadUnderWay.loadWaits = false ∧ ({ loadUnderWay with img := { loadUnderWay.img with stage := .checking } }).loadWaits = true ∧
    (loadUnderWay.bufferBytes 0 (feed 1 0 0 64 7) .error).1 = none ∧ (loadUnderWay.bufferBytes 0 (feed 1 0 0 64 7) (.data [])).1 = some [] ∧
    (match loadUnderWay.checkSched 0 [] with | .error _ => true | .ok _ => false) = true ∧
    ({ loadUnderWay with err := { containState := 2 } }).live = true := by decide +kernel

/-- A checkpoint buffer of an image with no parameters, whose digests are those of `image`. -/
def buffer (n : Nat) : List Byte := leBytes 4 (0x4B474350 : BitVec 32) ++ [1, 0] ++ List.replicate (n - 6) 0

/-- RESTORE ends: nothing read, a buffer that is too short, and one that is taken. -/
theorem test_wit_restore_ends :
    (match on.ckptFault (on.ctx 0) image (buffer 8) with | .error k => k | .ok _ => 0) = 0x08 ∧
    (match on.ckptFault (on.ctx 0) image (buffer (on.ckptSize image false)) with | .error _ => false | .ok _ => true) = true ∧
    (on.ctx 0).image = some image := by decide +kernel

/-- STEP: an entry whose list lies in the window and whose feed position is due; one with another feed position. -/
theorem test_wit_step : (fed 3 (feed 4 0 0 0 1) id).frontStep 0 = some (feed 4 0 0 0 1) ∧
    (fed 3 (feed 4 0 0 0 1) id).rangeCause 0 false 0 (16 * image.mbCount) = [] ∧ (fed 3 (feed 4 0 0 0 1) id).entryCauses 0 (feed 4 0 0 0 1) = [] ∧
    feArg (feed 4 0 0 0 1) 0 = ((fed 3 (feed 4 0 0 0 1) id).ctx 0).feedPos.toNat ∧
    feArg (feed 4 0 5 0 1) 0 ≠ ((fed 3 (feed 4 0 5 0 1) id).ctx 0).feedPos.toNat ∧
    ((fed 3 (feed 4 0 0 0 1) id).stepList (feed 4 0 0 0 1) image (.data [0])).1 = some [0] ∧
    ((fed 3 (feed 4 0 0 0 1) id).stepList (feed 4 0 0 0 1) image .error).1 = none ∧
    (fed 3 (feed 4 0 0 0 1) id).rangeCause 0 (inSpace 0) (inAddr 0) (inLen 0) = [] ∧ inLen 0 ≤ (image.inBuffer 0 0).2 := by decide +kernel

/-- An input that arrives and one that does not, of an entry that has not read it. -/
theorem test_wit_input : bit ({ tag := 0, seq := 0, mask := 1, inputs := [0] } : StepEntry).read 0 = false ∧ 0 < image.mbCount ∧
    (on.inputBytes 0 0 (.data [])).1 = some [] ∧ (on.inputBytes 0 0 .error).1 = none := by decide +kernel

/-- Aborts: nothing to do; a run at once and at a step; one aborted already; one that ends no later. -/
theorem test_wit_abort : on.barAnswers = true ∧ on.live = true ∧ (on.ctx 1).state = 0 ∧ (on.ctx 0).state = 3 ∧ (on.ctx 0).abortAt = none ∧
    ((ctx fun x => { x with abortAt := some (1, 1) }).ctx 0).abortAt.isSome = true ∧ (on.ctx 0).endStep.toNat = 0 ∧
    ((ctx fun x => { x with endStep := 5, abortStep := 5 }).ctx 0).endStep.toNat ≤ max 5 (on.ctx 0).step.toNat ∧
    max 4 (on.ctx 0).step.toNat < 5 ∧ ((ctx fun x => { x with state := 1 }).ctx 0).state ≠ 0 ∧ ((ctx fun x => { x with state := 1 }).ctx 0).op = .none := by
  decide +kernel

/-- Teardown: of a context at work, of one in TEARDOWN with nothing outstanding, and of one drained. -/
theorem test_wit_teardown : (on.ctx 0).state ≠ 0 ∧ (on.ctx 0).state ≠ 6 ∧
    ((ctx fun x => { x with state := 6, undrained := true }).ctx 0).outHost = 0 ∧ (ctx fun x => { x with state := 6, undrained := true }).outMem 0 = 0 ∧
    (ctx fun x => { x with state := 6, undrained := true }).outLink 0 = 0 ∧ ((ctx fun x => { x with state := 6 }).ctx 0).undrained = false := by decide +kernel

/-! ## Power, reset, bring-up -/

/-- A module with its reset pin low, rails and board power good. -/
def pinLow : State := { up with pwr := { held := true, resetPin := false } }

/-- Pins at the edges of 48 and 52 µs; inputs at the edges of their limits; a module that bring-up can start. -/
theorem test_wit_power : (47 : BitVec 16).toNat < 48 ∧ 52 < (53 : BitVec 16).toNat ∧ (48 ≤ (52 : BitVec 16).toNat ∧ (52 : BitVec 16).toNat ≤ 52) ∧
    up.pwr.resetPin = true ∧ pinLow.pwr.resetPin = false ∧ up.pwr.boardPwrgd = true ∧ ({ up.pwr with boardPwrgd := false }).boardPwrgd = false ∧
    ((38499 : BitVec 17).toNat < 38500 ∧ 20 < (21 : BitVec 32).toNat ∧ 5000 ≤ (38499 : BitVec 17).toNat) ∧
    ((59501 : BitVec 17).toNat > 59500 ∧ 10000 < (10001 : BitVec 32).toNat) ∧ up.pwr.tripped = false ∧ up.powered = true ∧ up.pwr.refclkLost = false ∧
    (pinLow.pwr.held = true ∧ pinLow.pwr.railsValid = true ∧ ({ pinLow.pwr with resetPin := true }).resetPin = true) ∧
    up.err.logPending = false := by decide +kernel

/-- Temperatures at the trip and one above; power caps at their ends; a supply at 605 mV. -/
theorem test_wit_thermal : (∃ t ∈ ([116] : List (BitVec 8)), 115 < t.toNat) ∧ (∃ t ∈ ([106] : List (BitVec 8)), 105 < t.toNat) ∧
    (∀ t ∈ ([115] : List (BitVec 8)), t.toNat ≤ 115) ∧ (∀ t ∈ ([105] : List (BitVec 8)), t.toNat ≤ 105) ∧ up.pwr.held = false ∧
    3 ≤ up.boot.step.toNat ∧ (605 : BitVec 10) = BitVec.ofNat 10 605 ∧ 600 < 605 ∧ up.mgt.ready = true ∧
    (500 ≤ (500 : BitVec 16).toNat ∧ (2800 : BitVec 16).toNat ≤ 2800) ∧ ({ up.mgt with directAddr := 9 }).directAddr ≠ 0 := by decide

/-- A module in a bring-up step. -/
def booting (step : BitVec 4) (checked : Bool) : State :=
  { up with boot := { mode := 0, step := step, selfChecked := checked, cxlUp := true }, links := { state := 2 } }

/-- Bring-up at each step that ends by command; sound and unsound fuses; READY below and at the containment limit. -/
theorem test_wit_bringup : (booting 1 false).powered = true ∧ (booting 1 false).boot.mode = 0 ∧ (booting 1 false).err.containState = 0 ∧
    fusesOk up.fuses = true ∧ fusesOk { up.fuses with pinCode := [3, 0, 0, 2, 2, 2, 2] } = false ∧ (booting 8 true).boot.selfChecked = true ∧
    (booting 8 true).links.state = 2 ∧ (booting 8 true).err.containCount.toNat < (booting 8 true).boot.opts.containLimit.toNat ∧
    (booting 8 true).boot.opts.containLimit.toNat ≤ ({ (booting 8 true).err with containCount := 3 }).containCount.toNat ∧
    (booting 4 false).boot.step.toNat ≤ 4 ∧ 4 < (booting 5 false).boot.step.toNat := by decide +kernel

/-- Pins (R292, Tables 14-2 and 18-7): GPIO 0 is high-impedance before the fuse map is sensed, weakly pulled down after it
and through RESET_L; a power-up begins at high impedance again. EXTEST darkens the links. -/
theorem test_pins : (booting 1 false).pinState 3 = 0 ∧ (booting 1 false).sensePins.pinState 3 = 2 ∧
    (booting 1 false).sensePins.enterReset.pinState 0 = 1 ∧ (booting 1 false).sensePins.losePower.pinState 0 = 0 ∧
    (booting 1 false).pwr.sensed = false ∧ (booting 1 false).sensePins.pwr.sensed = true ∧ (booting 1 false).pwr.faultLow = false ∧
    (booting 1 false).pwr.extestPins = [] ∧ ({ on with pwr := { on.pwr with extest := true } }).framesOn = false := by decide +kernel

/-- The direct target's registers (Table 16-1). -/
theorem test_direct : (List.range 6).map up.directByte = [0x04, 0x4B, 0xF0, 0x0A, up.directByte 4, 0] ∧ up.directByte 4 = up.boot.mode.setWidth 8 := by
  decide +kernel

/-- A block that a monitor counts and a tor in a remote wait, which none does; block resets of an idle and of a busy tor. -/
def remote : State := tor fun r => { r with state := 2, waitToken := some (5, 1, true) }

theorem test_wit_hang : on.boot.mode.toNat ≤ 1 ∧ blockIdOk 0x1FFF = true ∧ on.unmonitored 0x1FFF = false ∧ on.err.blockRunning ≠ some 0x1FFF ∧
    remote.unmonitored 0 = true ∧ remote.live = true ∧ (remote.tor 0).waitToken = some (5, 1, true) ∧
    ({ on.err with containState := 1, logPending := true }).logPending = true ∧ blockIdOk 0xA000 = true ∧ field (0x7FFF : BitVec 16) 13 3 ≤ 3 ∧
    blockIdOk 0x605F = true ∧ on.blockIdle 0x1FFF = true ∧ remote.blockIdle 0 = false := by decide +kernel

/-! ## Dump and images -/

/-- A dump at its first block, and one whose hung block is the one in turn. -/
def dumping (asked : Nat) (hung : BitVec 16) : State :=
  { on with dmp := { active := true, asked := asked }, err := { containState := 1, containCause := 0x42, hangBlock := hung } }

theorem test_wit_dump : (dumping 0 0xFFFF).dumpPassHung.dmp.active = true ∧ (List.replicate (dumpBlockAt 0).size (0 : Byte)).length = (dumpBlockAt 0).size ∧
    (dumping 0 0xFFFF).dumpPassHung.dumpSuspect.dmp.suspect = false ∧ (dumping 0 0xFFFF).dmp.suspect = false ∧
    ({ (dumping 0 0xFFFF).dumpPassHung with dmp := { (dumping 0 0xFFFF).dmp with suspect := true } }).dumpSuspect.dmp.suspect = true ∧
    (dumpBlockAt (dumping 0 0).dmp.asked).id = (dumping 0 0).err.hangBlock.toNat := by decide +kernel

/-- Images: none staged and one; an image that ends with memory and one past it; one that fails a check. -/
theorem test_wit_image : on.img.stage = .empty ∧ ({ on.img with stage := .checking }).stage ≠ .empty ∧
    memTop < 32 * (moduleBursts - 1 + 2) ∧ 32 * (moduleBursts - 1 + 1) ≤ memTop ∧ on.inReserved (32 * (moduleBursts - 1)) 32 = false ∧
    ((on.readBursts 1 ((List.range 1).map (moduleBursts - 1 + ·))).1).isSome = true ∧
    (match checkWihorn on.fuses.keys [] with | .error _ => true | .ok _ => false) = true ∧
    on.bound {} = false ∧ on.lateFor {} = false ∧ on.lateFor { effStep := 0 + 1 } = false ∧
    (ctx fun x => { x with step := 1 }).lateFor { effStep := 1 } = true ∧ on.bound { structDigest := 1 } = true := by decide +kernel

/-! ## Registers -/

/-- Reads and writes at the borders of the aperture and of the standard structures. -/
theorem test_wit_registers : on.barAnswers = true ∧ inAperture 0x2FFFFFF = false ∧ inAperture 0x3000000 = true ∧ inStandard 0x1FFF8 = true ∧
    inStandard 0x20000 = false ∧ inStandard 0xE000 = true ∧ inStandard 0xDFF8 = false ∧ inStandard 0xE08F = true ∧ inStandard 0xE090 = false ∧ on.reaches .host = true ∧ on.writesBarred = false ∧
    (booting 5 false).writesBarred = true ∧ (booting 5 false).barAnswers = true ∧ up.barAnswers = true ∧ State.reset.barAnswers = false ∧
    ((4 : BitVec 13).toNat = 4 ∧ 0x0044 % 4 = 0 ∧ (8 : BitVec 13) ≠ 4 ∧ 0x0044 % 8 ≠ 0) ∧
    ((0x8000000000000000 : Word) &&& w1cMask 0xB000 ≠ 0 ∧ (0x8000000000000000 : Word).getLsbD 63 = true ∧ (1 : Word).getLsbD 63 = false) ∧
    (4096 ≤ (4096 : BitVec 13).toNat ∧ (0x3000000 : Nat) % 4096 + 4096 ≤ 4096) := by decide +kernel

/-- R354: a field held in a range takes the nearer limit. -/
theorem test_held_field : (match exec (.registerWrite .host 0x4010 8 ⟨0, 0⟩) on with | .next s => s.mem.interval | _ => 0) = 1000 ∧
    (match exec (.registerWrite .host 0x4010 8 ⟨0xFFFF, 0⟩) on with | .next s => s.mem.interval | _ => 0) = 42915 := by decide +kernel

/-! ## Management, security, test access -/

/-- `on` with one event in the queue. -/
def event : Event := { code := 7, cls := 0, seq := 5, ticks := 0, step := 0, detail := 0 }
def queued : State := { on with mgt := { on.mgt with queue := [event] } }

theorem test_wit_mgmt : on.mgmtOn = true ∧ on.mgt.queue = [] ∧ queued.mgt.queue = [event] ∧ (6 : BitVec 32) ≠ event.seq ∧
    (4096 : BitVec 16).toNat ≤ 4096 ∧ 4096 < (4097 : BitVec 16).toNat ∧ on.boot.mode = 1 ∧
    ((1 : BitVec 64).toNat ≤ ((ctx fun x => { x with recordSeq := 256 }).ctx 0).recordSeq.toNat ∧
      ((ctx fun x => { x with recordSeq := 256 }).ctx 0).recordSeq.toNat < (1 : BitVec 64).toNat + 256) ∧
    ((on.readBursts 8 ((List.range 32).map ((image.recordBase + 1024 * (1 % 256)) / 32 + ·))).1).isSome = true := by decide +kernel

/-- The bytes of an option-byte copy with the factory defaults, check word apart. -/
def optionBody : List Byte :=
  [0x42, 0x4F, 0x47, 0x4B, 1, 0, 0, 0, 0, 0, 0, 0, 0, 0, 0, 0, 0, 0, 3, 0, 60, 0, 0xF0, 0x0A, 0x2C] ++ List.replicate 4063 0

theorem leNat_leBytes (k : Word) : leNat (leBytes 8 k) 0 8 = k.toNat := by
  have h := k.isLt
  simp [leNat, leBytes, List.range, List.range.loop, Nat.shiftRight_eq_div_pow]
  omega

/-- Table 14-5: the factory defaults with their check word are a valid copy. -/
theorem test_wit_options : optionCause (optionBody ++ leBytes 8 (crc64 optionBody)) = 0 := by
  have hl : optionBody.length = 4088 := by rw [optionBody, List.length_append, List.length_replicate]; rfl
  have ht : (optionBody ++ leBytes 8 (crc64 optionBody)).take 4088 = optionBody := List.take_left' hl
  have hk : leNat (optionBody ++ leBytes 8 (crc64 optionBody)) 4088 8 = (crc64 optionBody).toNat := by
    rw [← leNat_leBytes, leNat, leNat, List.drop_left' hl, List.drop_zero]
  have hb : (optionBody ++ leBytes 8 (crc64 optionBody)).length = 4096 := by simp [hl, leBytes]
  generalize hc : leBytes 8 (crc64 optionBody) = cs at *
  have hlow : ∀ o n, o + n ≤ 4088 → leNat (optionBody ++ cs) o n = leNat optionBody o n := by
    intro o n h
    rw [leNat, leNat, List.drop_append_of_le_length (by omega), List.take_append_of_le_length (by simp [hl]; omega)]
  have hcs : ∀ p ∈ cs.zipIdx 4088, 4088 ≤ p.2 ∧ p.2 < 4096 := by
    intro p hp
    have := List.mem_zipIdx hp
    have hlen : cs.length = 8 := by simp [← hc, leBytes]
    omega
  have hr : restZero (optionBody ++ cs) [(0, 6), (8, 17), (0x20, 12), (0xFF8, 8)] = true := by
    rw [restZero, List.zipIdx_append, List.all_append, Bool.and_eq_true]
    constructor
    · rw [optionBody, List.zipIdx_append, List.all_append, Bool.and_eq_true]
      constructor
      · decide
      · rw [List.all_eq_true]
        intro p hp
        have h := List.eq_of_mem_replicate (List.fst_mem_of_mem_zipIdx hp)
        rw [h]
        rfl
    · rw [List.all_eq_true]
      intro p hp
      rw [hl] at hp
      have := hcs p hp
      simp
      omega
  simp only [optionCause]
  rw [if_neg, if_neg, if_neg, if_neg, if_pos]
  · simp only [hlow _ _ (by omega : 0x10 + 1 ≤ 4088), hlow _ _ (by omega : 0x11 + 1 ≤ 4088), hlow _ _ (by omega : 0x12 + 1 ≤ 4088),
      hlow _ _ (by omega : 0x13 + 1 ≤ 4088), hlow _ _ (by omega : 0x14 + 2 ≤ 4088), hlow _ _ (by omega : 0x16 + 2 ≤ 4088),
      hlow _ _ (by omega : 0x18 + 1 ≤ 4088), hr]
    decide +kernel
  · simp [hb, hk, ht]
  · rw [hlow _ _ (by omega)]; decide +kernel
  · rw [hlow _ _ (by omega)]; decide +kernel
  · intro h
    exact absurd (List.all_eq_true.mp h 0x42 (List.mem_append_left _ (List.mem_append_left _ (by decide)))) (by decide)

/-- Reserved bytes of a copy are looked at wherever they stand (Table 14-5): 0x06, 0x19, 0x1F and 0x2C. -/
theorem test_option_reserved : [6, 0x19, 0x1F, 0x2C].all (fun o => !restZero ((List.replicate 64 (0 : Byte)).set o 1) [(0, 6), (8, 17), (0x20, 12), (0xFF8, 8)]) = true := by
  decide +kernel

/-- Stored state: an erased copy; the copies' two places; slots, versions, updates and components. -/
theorem test_wit_stored : optionCause [] ≠ 0 ∧ on.boot.optSource ≠ 1 ∧ ({ on.boot with optSource := 1 }).optSource = 1 ∧ on.boot.mode ≠ 3 ∧
    ({ on.err with containState := 2 }).containState = 2 ∧ on.keyMode = true ∧ (1 : BitVec 2) ≠ 0 ∧ (nth {} on.fuses.keys 1).enrolled = false ∧
    (nth {} on.fuses.keys 1).revoked = false ∧ ({ on.boot with fwSource := 1 }).fwSource ≠ 0 ∧ on.fuses.svn.toNat < ({ on.boot with runSvn := 1 }).runSvn.toNat ∧
    on.mgt.updating = false ∧ ({ on.mgt with updating := true }).updating = true ∧ ([] : List Byte).length ≤ 2 ^ 24 ∧
    on.componentOk .wihorn [] = false := by decide +kernel

/-- A command signed for slot 0 where the signature verifies, and for slot 1, which holds no key. -/
theorem test_wit_signature (hash : Digest) (sig : List Byte) (h : ∀ k, Config.falconVerify k hash sig = true) :
    sigOk on.fuses.keys 0 hash sig = true ∧ sigOk on.fuses.keys 1 hash sig = false := by
  refine ⟨?_, rfl⟩
  show (true && !false && Config.falconVerify _ hash sig) = true
  simp [h]

/-- Sessions: before FINISH and after. -/
def session (b : Bool) : State := { on with sec := { versioned := true, capabilities := true, negotiated := true, sessions := [{ id := 1, up := b }] } }

theorem test_wit_session : (session false).mgmtOn = true ∧ (session false).sec.negotiated = true ∧
    (session false).sec.sessions.any (fun (e : Session) => e.id == 1 && !e.up) = true ∧ (session true).session 1 = true ∧
    (((ctx fun x => { x with state := 1 }).ctx 0).state = 1 ∧ ((ctx fun x => { x with state := 1 }).ctx 0).op = .none) := by decide +kernel

/-- Test access: debug open and not; a pin state that its mask allows; a challenge; a debug key; a module that runs
nothing. -/
theorem test_wit_tap : on.tapOn = true ∧ on.sec.debugOpen = false ∧ (4 : BitVec 3).toNat ≤ 4 ∧ (nth 0 on.fuses.pinMask 6).getLsbD 4 = true ∧
    ({ on.sec with challenge := some 5 }).challenge = some 5 ∧ (nth {} on.fuses.keys 0).debug = true ∧ up.err.containState = 0 ∧
    (∀ c, (up.ctx c).state ≠ 3 ∧ (up.ctx c).state ≠ 4 ∧ (up.ctx c).state ≠ 6) ∧ ((on.moduleRead (memTop / 32 - 1) 8).1.data?).isSome = true := by
  decide +kernel

/-- R349, R183: debug reaches the memory beside the moraine and not the moraine. -/
theorem test_wit_reserved : mored.inReserved 32 32 = true ∧ mored.inReserved 64 32 = false := by decide +kernel

/-! ## The module as a whole -/

/-- State after reset meets what the invariants ask, and a step from it answers a next state. -/
theorem test_wit_reset : State.reset.slot0Kept = true ∧ State.reset.rangesHeld = true ∧ memWf State.reset.mem.cells = true ∧
    (match step State.reset with | .next _ => true | _ => false) = true ∧
    (match step { on with pending := [.nop 0] } with | .next s => s.pending == [] | _ => false) = true := by decide +kernel

end Sys2Proof.Tests
end

section
/-! O16: the address map (R162). A burst of the module is named by its massif m, its location j within a subchannel and
its low six address bits i. The map keeps m and j and exclusive-ors i with a fold of j's fields, and an exclusive or with a
fixed value undoes itself: that is why the map is one to one. -/

namespace Sys2Proof.Machine
open Sys2Proof

/-- Locations of one subchannel (R162). -/
def subLocs : Nat := 201326592

/-- What the location adds to the low six address bits: the exclusive or of its six-bit fields (R162). -/
def locFold (j : Nat) : Nat := j % 64 ^^^ j / 64 % 64 ^^^ j / 4096 % 64 ^^^ j / 262144 % 64 ^^^ j / 16777216 % 64

/-- The burst of massif m at location j whose low six address bits are i. -/
def burstOf (m j i : Nat) : Nat := m * massifBursts + (64 * j + i)

theorem massifBursts_eq : massifBursts = 64 * subLocs := rfl

/-! ## Six-bit values under exclusive or -/

theorem xor_lt_64 {a b : Nat} (ha : a < 64) (hb : b < 64) : a ^^^ b < 64 := Nat.xor_lt_two_pow (n := 6) ha hb

/-- A second exclusive or with the same value undoes the first (from core's lemmas: the package imports no Mathlib). -/
theorem xor_undo (a b : Nat) : a ^^^ b ^^^ b = a := by
  rw [Nat.xor_assoc, Nat.xor_self, Nat.xor_zero]

theorem locFold_lt (j : Nat) : locFold j < 64 := by
  have hmod (n : Nat) : n % 64 < 64 := Nat.mod_lt n (by decide)
  exact xor_lt_64 (xor_lt_64 (xor_lt_64 (xor_lt_64 (hmod _) (hmod _)) (hmod _)) (hmod _)) (hmod _)

/-- Multiples of 64 do not reach the low six bits of an exclusive or. -/
theorem xor_mod_64 (p q a b : Nat) (ha : a < 64) (hb : b < 64) : ((64 * p + a) ^^^ (64 * q + b)) % 64 = a ^^^ b := by
  have hlow : ((64 * p + a) ^^^ (64 * q + b)) % 64 = (64 * p + a) % 64 ^^^ (64 * q + b) % 64 :=
    Nat.xor_mod_two_pow (n := 6)
  rw [hlow, Nat.mul_add_mod, Nat.mul_add_mod, Nat.mod_eq_of_lt ha, Nat.mod_eq_of_lt hb]

/-! ## The coordinates of a burst -/

theorem field_ofNat_of_lt {w k : Nat} (lo len : Nat) (hk : k < 2 ^ w) :
    field (BitVec.ofNat w k) lo len = k / 2 ^ lo % 2 ^ len := by
  simp [field, Nat.mod_eq_of_lt hk, Nat.shiftRight_eq_div_pow]

/-- Burst k of massif m by its coordinates. -/
theorem burstOf_div_mod (m k : Nat) : burstOf m (k / 64) (k % 64) = m * massifBursts + k :=
  congrArg (m * massifBursts + ·) (Nat.div_add_mod k 64)

/-- Each burst of the module has coordinates. -/
theorem exists_burstOf {b : Nat} (hb : b < moduleBursts) :
    ∃ m j i, m < 4 ∧ j < subLocs ∧ i < 64 ∧ burstOf m j i = b := by
  refine ⟨b / massifBursts, b % massifBursts / 64, b % massifBursts % 64, ?_, ?_, ?_, ?_⟩
  · exact Nat.div_lt_of_lt_mul (Nat.mul_comm 4 _ ▸ hb)
  · exact Nat.div_lt_of_lt_mul (Nat.mod_lt b (by decide))
  · exact Nat.mod_lt _ (by decide)
  · rw [burstOf_div_mod]
    exact Nat.div_add_mod' b massifBursts

/-- Each subchannel number is a massif's and one of its 64. -/
theorem exists_sub {sub : Nat} (h : sub < 256) : ∃ m x, m < 4 ∧ x < 64 ∧ 64 * m + x = sub :=
  ⟨sub / 64, sub % 64, by omega, by omega, Nat.div_add_mod sub 64⟩

theorem burstOf_lt {m j i : Nat} (hm : m < 4) (hj : j < subLocs) (hi : i < 64) : burstOf m j i < moduleBursts := by
  simp only [burstOf, moduleBursts, massifBursts_eq, subLocs] at *
  omega

/-! ## The map at a burst's coordinates -/

theorem burstOf_div {m j i : Nat} (hj : j < subLocs) (hi : i < 64) : burstOf m j i / massifBursts = m := by
  simp only [burstOf, massifBursts_eq, subLocs] at *
  omega

theorem burstOf_mod {m j i : Nat} (hj : j < subLocs) (hi : i < 64) : burstOf m j i % massifBursts = 64 * j + i := by
  simp only [burstOf, massifBursts_eq, subLocs] at *
  omega

theorem locOf_burstOf {m j i : Nat} (hj : j < subLocs) (hi : i < 64) : locOf (burstOf m j i) = j := by
  rw [locOf, burstOf_mod hj hi]
  omega

/-- The subchannel: the low six bits, exclusive-ored with the location's fold. -/
theorem subOf_burstOf {m j i : Nat} (hj : j < subLocs) (hi : i < 64) :
    subOf (burstOf m j i) = 64 * m + (i ^^^ locFold j) := by
  have hk : 64 * j + i < 2 ^ 34 := by simp only [subLocs] at hj; omega
  have h0 : (64 * j + i) / 2 ^ 0 % 2 ^ 6 = i := by omega
  have h6 : (64 * j + i) / 2 ^ 6 % 2 ^ 6 = j % 64 := by omega
  have h12 : (64 * j + i) / 2 ^ 12 % 2 ^ 6 = j / 64 % 64 := by omega
  have h18 : (64 * j + i) / 2 ^ 18 % 2 ^ 6 = j / 4096 % 64 := by omega
  have h24 : (64 * j + i) / 2 ^ 24 % 2 ^ 6 = j / 262144 % 64 := by omega
  have h30 : (64 * j + i) / 2 ^ 30 % 2 ^ 4 = j / 16777216 % 64 := by simp only [subLocs] at hj; omega
  simp only [subOf, burstOf_div hj hi, burstOf_mod hj hi, field_ofNat_of_lt _ _ hk, h0, h6, h12, h18, h24, h30, locFold,
    Nat.xor_assoc]

/-- The inverse map undoes the location's fold. -/
theorem burstAt_eq_burstOf (m : Nat) {x j : Nat} (hx : x < 64) (hj : j < subLocs) :
    burstAt (64 * m + x) j = burstOf m j (x ^^^ locFold j) := by
  have hm : (64 * m + x) / 64 = m := by omega
  have hbase : m * massifBursts + j * 64 = burstOf m j 0 := by rw [burstOf, Nat.add_zero, Nat.mul_comm j]
  have hlow : (subOf (burstOf m j 0) ^^^ (64 * m + x)) % 64 = x ^^^ locFold j := by
    rw [subOf_burstOf hj (by decide), Nat.zero_xor, xor_mod_64 _ _ _ _ (locFold_lt j) hx, Nat.xor_comm]
  simp only [burstAt, hm, hbase, hlow]
  simp only [burstOf, Nat.add_zero, Nat.add_assoc]

/-- From a burst to its subchannel and location and back. -/
theorem burstAt_subOf_burstOf {m j i : Nat} (hj : j < subLocs) (hi : i < 64) :
    burstAt (subOf (burstOf m j i)) j = burstOf m j i := by
  rw [subOf_burstOf hj hi, burstAt_eq_burstOf m (xor_lt_64 hi (locFold_lt j)) hj, xor_undo]

/-- From a subchannel and location to the burst and back. -/
theorem subOf_burstAt (m : Nat) {x j : Nat} (hx : x < 64) (hj : j < subLocs) :
    subOf (burstAt (64 * m + x) j) = 64 * m + x := by
  rw [burstAt_eq_burstOf m hx hj, subOf_burstOf hj (xor_lt_64 hx (locFold_lt j)), xor_undo]

/-! ## The clauses of R162 -/

theorem subOf_massif_burst (m : Nat) {k : Nat} (hk : k < massifBursts) :
    subOf (m * massifBursts + k) = 64 * m + (k % 64 ^^^ locFold (k / 64)) := by
  rw [← burstOf_div_mod, subOf_burstOf (Nat.div_lt_of_lt_mul hk) (Nat.mod_lt k (by decide))]

theorem locOf_massif_burst (m : Nat) {k : Nat} (hk : k < massifBursts) : locOf (m * massifBursts + k) = k / 64 := by
  rw [← burstOf_div_mod, locOf_burstOf (Nat.div_lt_of_lt_mul hk) (Nat.mod_lt k (by decide))]

/-- The fields of the location k / 64 are those of k above its lowest. -/
theorem xor_locFold_div (k : Nat) : k % 64 ^^^ locFold (k / 64) =
    k % 64 ^^^ k / 64 % 64 ^^^ k / 4096 % 64 ^^^ k / 262144 % 64 ^^^ k / 16777216 % 64 ^^^ k / 1073741824 % 64 := by
  simp only [locFold, Nat.div_div_eq_div_mul, Nat.reduceMul, Nat.xor_assoc]

theorem burstAt_subOf_locOf {b : Nat} (hb : b < moduleBursts) :
    subOf b < 256 ∧ locOf b < subLocs ∧ burstAt (subOf b) (locOf b) = b := by
  obtain ⟨m, j, i, hm, hj, hi, rfl⟩ := exists_burstOf hb
  rw [locOf_burstOf hj hi]
  refine ⟨?_, hj, burstAt_subOf_burstOf hj hi⟩
  have hlow : i ^^^ locFold j < 64 := xor_lt_64 hi (locFold_lt j)
  rw [subOf_burstOf hj hi]
  omega

theorem subOf_locOf_burstAt {sub j : Nat} (hs : sub < 256) (hj : j < subLocs) :
    burstAt sub j < moduleBursts ∧ subOf (burstAt sub j) = sub ∧ locOf (burstAt sub j) = j := by
  obtain ⟨m, x, hm, hx, rfl⟩ := exists_sub hs
  refine ⟨?_, subOf_burstAt m hx hj, ?_⟩ <;> rw [burstAt_eq_burstOf m hx hj]
  · exact burstOf_lt hm hj (xor_lt_64 hx (locFold_lt j))
  · exact locOf_burstOf hj (xor_lt_64 hx (locFold_lt j))

/-- 64 bursts aligned to 64 fall on the 64 subchannels of one massif. -/
theorem aligned_bursts_cover_massif {n : Nat} (hn : 64 * n < moduleBursts) :
    ∃ m, m < 4 ∧ ∀ x, x < 64 → ∃ i, i < 64 ∧ subOf (64 * n + i) = 64 * m + x := by
  have hn4 : n < 4 * subLocs := by simp only [moduleBursts, massifBursts_eq, subLocs] at *; omega
  have hj : n % subLocs < subLocs := Nat.mod_lt n (by decide)
  have hburst (i : Nat) : 64 * n + i = burstOf (n / subLocs) (n % subLocs) i := by
    simp only [burstOf, massifBursts_eq, subLocs]
    omega
  refine ⟨n / subLocs, Nat.div_lt_of_lt_mul (Nat.mul_comm 4 _ ▸ hn4), fun x hx => ?_⟩
  have hi : x ^^^ locFold (n % subLocs) < 64 := xor_lt_64 hx (locFold_lt _)
  refine ⟨x ^^^ locFold (n % subLocs), hi, ?_⟩
  rw [hburst, subOf_burstOf hj hi, xor_undo]

end Sys2Proof.Machine

open Sys2Proof Sys2Proof.Machine

/-- Settles O16: in the coordinates massif, location, low six bits the map is an exclusive or with the location's fold,
which is its own inverse. -/
theorem addressMapOneToOne : Obligations.AddressMapOneToOne := by
  refine ⟨fun m k _ hk => ⟨?_, locOf_massif_burst m hk⟩, fun _ hb => burstAt_subOf_locOf hb,
    fun _ _ hs hj => subOf_locOf_burstAt hs hj, fun _ hn => aligned_bursts_cover_massif hn⟩
  rw [← xor_locFold_div]
  exact subOf_massif_burst m hk

end

section
/-! O43: power and reset (R288 to R290, R292, R304, R364 to R366, R15; notes/assumptions/96 and 149). Three commands pass
their pin through the glitch filter, and what each does turns on the filter's answer alone. A reset gives the reset state
again but for the fuses, the flash and a few latches of the power block; a pin then reads as its fuse code exactly where the
fuse map has been sensed. -/

namespace Sys2Proof.Machine
open Sys2Proof

/-! ## The glitch filter (R288, Table 14-1) -/

theorem State.filtered_of_short (s : State) {us : BitVec 16} (h : us.toNat < 48) : s.filtered us = (false, s) := by
  simp [State.filtered, h]

theorem State.filtered_of_long (s : State) {us : BitVec 16} (h : 52 < us.toNat) : s.filtered us = (true, s) := by
  have hshort : ¬ us.toNat < 48 := by omega
  simp [State.filtered, h, hshort]

/-- Between the two limits the answer is the next free value (notes/assumptions/96). -/
theorem State.filtered_between (s : State) {us : BitVec 16} (hlo : 48 ≤ us.toNat) (hhi : us.toNat ≤ 52) :
    s.filtered us = ((s.takeFree 1).1 == 1, (s.takeFree 1).2) := by
  simp [State.filtered, Nat.not_lt.mpr hlo, Nat.not_lt.mpr hhi]

/-! ## The commands behind the filter, by the filter's answer -/

theorem exec_resetRecognised_pinLow {s : State} (us : BitVec 16) (hpin : s.pwr.resetPin = false) :
    exec (.resetRecognised us) s = .next s := by
  simp [exec, execResetRecognised, hpin]

theorem exec_resetRecognised_pinHigh {s u : State} {us : BitVec 16} {taken : Bool} (hpin : s.pwr.resetPin = true)
    (hf : s.filtered us = (taken, u)) : exec (.resetRecognised us) s =
      .next (if taken then { u with pwr := { u.pwr with resetPin := false } }.enterReset else u) := by
  simp [exec, execResetRecognised, hpin, hf]

theorem exec_resetLRelease_pinHigh {s : State} (us : BitVec 16) (hpin : s.pwr.resetPin = true) :
    exec (.resetLRelease us) s = .next s := by
  simp [exec, execResetLRelease, hpin]

theorem exec_resetLRelease_pinLow {s u : State} {us : BitVec 16} {taken : Bool} (hpin : s.pwr.resetPin = false)
    (hf : s.filtered us = (taken, u)) : exec (.resetLRelease us) s =
      .next (if taken then { u with pwr := { u.pwr with resetPin := true } }.tryBringUp 1 else u) := by
  simp [exec, execResetLRelease, hpin, hf]

theorem exec_boardPwrgd_same {s : State} {level : Bool} (us : BitVec 16) (hpin : s.pwr.boardPwrgd = level) :
    exec (.boardPwrgd level us) s = .next s := by
  simp [exec, execBoardPwrgd, hpin]

theorem exec_boardPwrgd_changed {s u : State} {level taken : Bool} {us : BitVec 16} (hpin : s.pwr.boardPwrgd ≠ level)
    (hf : s.filtered us = (taken, u)) : exec (.boardPwrgd level us) s =
      .next (if taken then
        (if level then { u with pwr := { u.pwr with boardPwrgd := level } }.tryBringUp 0
          else { u with pwr := { u.pwr with boardPwrgd := level } }.losePower)
        else u) := by
  cases taken <;> simp [exec, execBoardPwrgd, hpin, hf]

/-! ## A change held for less than 48 µs, for more than 52 µs, and between -/

theorem exec_resetRecognised_short (s : State) {us : BitVec 16} (h : us.toNat < 48) :
    exec (.resetRecognised us) s = .next s := by
  cases hpin : s.pwr.resetPin
  · exact exec_resetRecognised_pinLow us hpin
  · exact exec_resetRecognised_pinHigh hpin (s.filtered_of_short h)

theorem exec_resetLRelease_short (s : State) {us : BitVec 16} (h : us.toNat < 48) :
    exec (.resetLRelease us) s = .next s := by
  cases hpin : s.pwr.resetPin
  · exact exec_resetLRelease_pinLow hpin (s.filtered_of_short h)
  · exact exec_resetLRelease_pinHigh us hpin

theorem exec_boardPwrgd_short (s : State) (level : Bool) {us : BitVec 16} (h : us.toNat < 48) :
    exec (.boardPwrgd level us) s = .next s := by
  by_cases hpin : s.pwr.boardPwrgd = level
  · exact exec_boardPwrgd_same us hpin
  · exact exec_boardPwrgd_changed hpin (s.filtered_of_short h)

theorem exec_resetRecognised_between {s : State} {us : BitVec 16} (hlo : 48 ≤ us.toNat) (hhi : us.toNat ≤ 52)
    (hpin : s.pwr.resetPin = true) :
    exec (.resetRecognised us) s = .next { s with free := s.free + 1 } ∨
    exec (.resetRecognised us) s = .next { s with free := s.free + 1, pwr := { s.pwr with resetPin := false } }.enterReset := by
  rw [exec_resetRecognised_pinHigh hpin (s.filtered_between hlo hhi)]
  split
  · exact .inr rfl
  · exact .inl rfl

theorem exec_resetLRelease_between {s : State} {us : BitVec 16} (hlo : 48 ≤ us.toNat) (hhi : us.toNat ≤ 52)
    (hpin : s.pwr.resetPin = false) :
    exec (.resetLRelease us) s = .next { s with free := s.free + 1 } ∨
    exec (.resetLRelease us) s = .next ({ s with free := s.free + 1, pwr := { s.pwr with resetPin := true } }.tryBringUp 1) := by
  rw [exec_resetLRelease_pinLow hpin (s.filtered_between hlo hhi)]
  split
  · exact .inr rfl
  · exact .inl rfl

/-! ## Rails, input and reference (R15, R290, R364 to R366) -/

theorem exec_railsValid_untripped {s : State} (h : s.pwr.tripped = false) :
    exec .railsValid s = .next ({ s with pwr := { s.pwr with railsValid := true } }.tryBringUp 0) := by
  simp [exec, execRailsValid, h]

/-- The input is out of a range of R365 for that range's time. -/
def inputOutOfRange (mv : BitVec 17) (t : BitVec 32) : Prop :=
  ((mv.toNat < 38500 ∨ 60500 < mv.toNat) ∧ 20 < t.toNat) ∨ ((mv.toNat < 40000 ∨ 59500 < mv.toNat) ∧ 10000 < t.toNat)

theorem exec_inputInvalid_outOfRange (s : State) {mv : BitVec 17} {t : BitVec 32} (hout : inputOutOfRange mv t)
    (hkept : 5000 ≤ mv.toNat ∨ t.toNat < 1000000) :
    exec (.inputInvalid mv t) s = .next ({ s with pwr := { s.pwr with railsValid := false } }.losePower) := by
  have hremoved : ¬ (mv.toNat < 5000 ∧ 1000000 ≤ t.toNat) := by omega
  have hout' : (((decide (mv.toNat < 38500) || decide (60500 < mv.toNat)) && decide (20 < t.toNat)) ||
      ((decide (mv.toNat < 40000) || decide (59500 < mv.toNat)) && decide (10000 < t.toNat))) = true := by
    simpa [inputOutOfRange] using hout
  simp only [exec, execInputInvalid, if_pos hout', if_neg hremoved]

theorem exec_refclkLoss_powered {s : State} (hp : s.powered = true) (hr : s.pwr.refclkLost = false) :
    exec .refclkLoss s = .next ({ s with pwr := { s.pwr with refclkLost := true } }.moduleCause 0x41 6 0 0x2) := by
  simp [exec, execRefclkLoss, hp, hr]

theorem State.tick_of_refclkLost {s : State} (h : s.pwr.refclkLost = true) : s.tick = s := by
  simp [State.tick, h]

theorem State.tryBringUp_of_allowed {s : State} (hheld : s.pwr.held = true) (hrails : s.pwr.railsValid = true)
    (hboard : s.pwr.boardPwrgd = true) (hpin : s.pwr.resetPin = true) (htrip : s.pwr.tripped = false) (src : BitVec 2) :
    s.tryBringUp src =
      { s with pwr := { s.pwr with held := false, ticks := 0 }, boot := { s.boot with step := 1, source := src } } := by
  simp [State.tryBringUp, hheld, hrails, hboard, hpin, htrip]

/-! ## What a reset gives (R289, R304) -/

/-- The power block after a reset: its reset value but for the inputs, the trip and what the fuse map's sensing set. -/
def State.powerAfterReset (s : State) : Power :=
  { State.reset.pwr with
    railsValid := s.pwr.railsValid, boardPwrgd := s.pwr.boardPwrgd, resetPin := s.pwr.resetPin, tripped := s.pwr.tripped,
    thermtripLow := s.pwr.thermtripLow, sensed := s.pwr.sensed,
    gpio := if s.pwr.sensed then s.fuses.pinCode.drop 3 else [0, 0, 0, 0] }

/-- The reset state with what a reset keeps; n counts the free values and `log` is the containment log. -/
def State.resetWith (s : State) (n : Nat) (log : List LogEntry) : State :=
  { State.reset with
    pending := s.pending, free := n, fuses := s.fuses, flash := { s.flash with containLog := log }, out := s.out,
    pwr := s.powerAfterReset }

/-- A reset touches the containment log only where an entry was being written. -/
theorem State.enterReset_eq (s : State) :
    ∃ n log, s.enterReset = s.resetWith n log ∧ (s.err.logPending = false → log = s.flash.containLog) := by
  cases hlog : s.err.logPending
  · exact ⟨s.free, s.flash.containLog, by rw [State.enterReset, hlog]; rfl, fun _ => rfl⟩
  · exact ⟨_, _, by rw [State.enterReset, hlog]; rfl, nofun⟩

/-! ## Pins (R292) -/

theorem nth_drop {α : Type} (d : α) (l : List α) (n i : Nat) : nth d (l.drop n) i = nth d l (n + i) := by
  simp [nth]

theorem State.pinState_unsensed {s : State} (hext : s.pwr.extestPins = []) (hs : s.pwr.sensed = false) (k : Nat) :
    s.pinState k = 0 := by
  simp [State.pinState, hext, hs]

/-- A sensed pin that nothing drives reads its fuse code: pins 3 and up through the GPIO latch that sensing filled. -/
theorem State.pinState_fused {s : State} (hext : s.pwr.extestPins = []) (hs : s.pwr.sensed = true)
    (hfault : s.pwr.faultLow = false) (hgpio : s.pwr.gpio = s.fuses.pinCode.drop 3) (k : Nat) :
    s.pinState k = nth 0 s.fuses.pinCode k := by
  by_cases hk : 3 ≤ k
  · simp [State.pinState, hext, hs, hfault, hgpio, hk, nth_drop]
  · simp [State.pinState, hext, hs, hfault, hk]

theorem State.pinState_sensePins {s : State} (hfault : s.pwr.faultLow = false) (hext : s.pwr.extestPins = []) (k : Nat) :
    s.sensePins.pinState k = nth 0 s.fuses.pinCode k :=
  State.pinState_fused (s := s.sensePins) hext rfl hfault rfl k

theorem State.pinState_resetWith_unsensed {s : State} (n : Nat) (log : List LogEntry) (hs : s.pwr.sensed = false) (k : Nat) :
    (s.resetWith n log).pinState k = 0 :=
  State.pinState_unsensed (s := s.resetWith n log) rfl hs k

theorem State.pinState_resetWith_sensed {s : State} (n : Nat) (log : List LogEntry) (hs : s.pwr.sensed = true) (k : Nat) :
    (s.resetWith n log).pinState k = nth 0 s.fuses.pinCode k :=
  State.pinState_fused (s := s.resetWith n log) rfl hs rfl (if_pos hs) k

end Sys2Proof.Machine

open Sys2Proof Sys2Proof.Machine

/-- Settles O43: the pins by the filter's three answers, power by one lemma per command, and what a reset keeps by the one
form `resetWith` that every reset has. -/
theorem powerAndResetComplete : Obligations.PowerAndResetComplete := by
  refine ⟨fun s us => ⟨fun hshort => ?short, fun hlong => ?long, fun hlo hhi => ?between, fun _ => rfl,
    exec_railsValid_untripped, fun _ _ hout hkept => exec_inputInvalid_outOfRange s hout hkept, ?bringUp, ?refclk⟩, fun s => ?kept⟩
  case short =>
    exact ⟨exec_resetRecognised_short s hshort, exec_resetLRelease_short s hshort, fun level => exec_boardPwrgd_short s level hshort⟩
  case long =>
    have hf := s.filtered_of_long hlong
    exact ⟨fun hpin => exec_resetRecognised_pinHigh hpin hf, fun hpin => exec_resetLRelease_pinLow hpin hf,
      fun hpin => exec_boardPwrgd_changed (by simp [hpin]) hf, fun hpin => exec_boardPwrgd_changed (by simp [hpin]) hf⟩
  case between =>
    exact ⟨s.free + 1, exec_resetRecognised_between hlo hhi, exec_resetLRelease_between hlo hhi⟩
  case bringUp =>
    intro hheld hrails hboard hpin htrip src
    rw [State.tryBringUp_of_allowed hheld hrails hboard hpin htrip]
    exact ⟨rfl, rfl, rfl, rfl⟩
  case refclk =>
    exact fun hp hr => ⟨exec_refclkLoss_powered hp hr, State.tick_of_refclkLost rfl⟩
  case kept =>
    obtain ⟨n, log, hreset, hlog⟩ := s.enterReset_eq
    rw [hreset]
    exact ⟨rfl, rfl, rfl, rfl, rfl, rfl, rfl, rfl, hlog, rfl, rfl, rfl, rfl, rfl, rfl, rfl, rfl, rfl, rfl, rfl, fun k =>
      ⟨fun hs => State.pinState_resetWith_unsensed n log hs k, fun hs => State.pinState_resetWith_sensed n log hs k,
        fun hfault hext => State.pinState_sensePins hfault hext k⟩⟩

end

section
/-! O50: register writes (R9, R352, R354, R356). What a host write does turns on four tests in turn: whether the host
reaches the file, whether the write is of a register and of 8 aligned bytes, whether the state bars writes, and which
register it names. One lemma per outcome says what `exec` does there; the rest is what each register makes of the value. -/

namespace Sys2Proof.Machine
open Sys2Proof

/-! ## The tests -/

theorem State.barAnswers_iff (s : State) :
    s.barAnswers = true ↔ s.powered = true ∧ 5 ≤ s.boot.step.toNat ∧ s.boot.mode ≠ 3 := by
  simp [State.barAnswers, BitVec.le_def, and_assoc]

theorem State.writesBarred_iff (s : State) :
    s.writesBarred = true ↔ s.boot.mode = 0 ∨ s.boot.mode = 2 ∨ s.err.containState = 1 := by
  simp [State.writesBarred, or_assoc]

/-- An offset at which a write of 8 bytes is one of a register (R352). -/
def isRegOffset (o : Nat) : Bool := !inAperture o && !inStandard o && o % 8 == 0

theorem isRegOffset_iff (o : Nat) :
    isRegOffset o = true ↔ inAperture o = false ∧ inStandard o = false ∧ o % 8 = 0 := by
  simp [isRegOffset, and_assoc]

/-! ## Reads -/

theorem exec_registerRead_silent {s : State} (o : BitVec 26) (n : BitVec 13) (hbar : s.barAnswers = false) :
    exec (.registerRead o n) s = .next s := by
  simp [exec, execRegisterRead, hbar]

theorem exec_registerRead_register {s : State} {o : BitVec 26} {n : BitVec 13} (hbar : s.barAnswers = true)
    (hap : inAperture o.toNat = false) (hst : inStandard o.toNat = false) (hn : n = 4 ∨ n = 8) (hal : o.toNat % n.toNat = 0) :
    exec (.registerRead o n) s = .next (s.emit (.readData (s.regBytes o.toNat n.toNat))) := by
  have hsize : n.toNat = 4 ∨ n.toNat = 8 := hn.imp (congrArg BitVec.toNat) (congrArg BitVec.toNat)
  simp [exec, execRegisterRead, hbar, hap, hst, hsize, hal]

/-! ## Writes of the host, by the test that decides them -/

theorem exec_registerWrite_host_silent {s : State} (o : BitVec 26) (n : BitVec 13) (w : RegWrite)
    (hbar : s.barAnswers = false) : exec (.registerWrite .host o n w) s = .next s := by
  simp [exec, execRegisterWrite, State.reaches, hbar]

theorem exec_registerWrite_host_misshaped {s : State} {o : BitVec 26} {n : BitVec 13} (w : RegWrite)
    (hreach : s.reaches .host = true) (hap : inAperture o.toNat = false) (hst : inStandard o.toNat = false)
    (hshape : n ≠ 8 ∨ o.toNat % 8 ≠ 0) : exec (.registerWrite .host o n w) s = .next (s.accessError 1 o) := by
  have hdrop : (n != 8 || o.toNat % 8 != 0) = true := by simpa using hshape
  simp only [exec, execRegisterWrite, hreach, hap, hst, hdrop, State.countAccess]
  rfl

theorem exec_registerWrite_host_barred {s : State} {o : BitVec 26} (v e : BitVec 64) (hreach : s.reaches .host = true)
    (hbarred : s.writesBarred = true) (hreg : isRegOffset o.toNat = true) :
    exec (.registerWrite .host o 8 ⟨v, e⟩) s = .next
      (if v &&& w1cMask o.toNat ≠ 0 then s.writeW1c o.toNat (v &&& ~~~e)
      else if o = 0xC008 then s.writeWindow v
      else s.accessError 2 o) := by
  obtain ⟨hap, hst, hal⟩ := (isRegOffset_iff _).mp hreg
  have hwindow : o.toNat = 0xC008 ↔ o = 0xC008 := BitVec.toNat_inj (y := 0xC008)
  simp [exec, execRegisterWrite, State.countAccess, clearing, hreach, hap, hst, hal, hbarred, hwindow]

theorem exec_registerWrite_host_ctx {s : State} {o : BitVec 26} (v e : BitVec 64) (hreach : s.reaches .host = true)
    (hopen : s.writesBarred = false) (hreg : isRegOffset o.toNat = true) (hctx : inCtx o.toNat = true) :
    exec (.registerWrite .host o 8 ⟨v, e⟩) s = .next (s.writeCtx o.toNat v) := by
  obtain ⟨hap, hst, hal⟩ := (isRegOffset_iff _).mp hreg
  simp [exec, execRegisterWrite, hreach, hap, hst, hal, hopen, hctx]

theorem exec_registerWrite_host_open {s : State} {o : BitVec 26} (v e : BitVec 64) (hreach : s.reaches .host = true)
    (hopen : s.writesBarred = false) (hreg : isRegOffset o.toNat = true) (hctx : inCtx o.toNat = false) :
    exec (.registerWrite .host o 8 ⟨v, e⟩) s = .next ((s.writeFields o.toNat v).writeW1c o.toNat (v &&& ~~~e)) := by
  obtain ⟨hap, hst, hal⟩ := (isRegOffset_iff _).mp hreg
  simp [exec, execRegisterWrite, clearing, hreach, hap, hst, hal, hopen, hctx]

/-! ## Clearing write-1-to-clear bits (R9, R354) -/

theorem State.writeW1c_of_mask_zero (s : State) {o : Nat} (v : Word) (hmask : w1cMask o = 0) : s.writeW1c o v = s := by
  simp [State.writeW1c, hmask]

theorem and_valid_eq_zero_iff (v : Word) : v &&& put 1 63 1 = 0 ↔ v.getLsbD 63 = false := by
  have hput : put 1 63 1 = BitVec.twoPow 64 63 := rfl
  rw [hput, BitVec.and_twoPow]
  cases v.getLsbD 63 <;> simp

/-- ERR_CAUSE: VALID is bit 63. -/
theorem State.writeW1c_errCause (s : State) (v : Word) : s.writeW1c 0xB000 v =
    if v.getLsbD 63 then { s with err := { s.err with causeValid := false } } else s := by
  simp only [State.writeW1c, w1cMask, and_valid_eq_zero_iff]
  cases v.getLsbD 63 <;> rfl

/-- GLB_ACCESS_ERR: VALID is bit 63. -/
theorem State.writeW1c_accessErr (s : State) (v : Word) : s.writeW1c 0x0048 v =
    if v.getLsbD 63 then { s with err := { s.err with accValid := false } } else s := by
  simp only [State.writeW1c, w1cMask, and_valid_eq_zero_iff]
  cases v.getLsbD 63 <;> rfl

/-- A written 1 clears its bit but for an event of the same cycle (R9). -/
theorem getLsbD_and_not (v e : Word) {i : Nat} (hi : i < 64) :
    (v &&& ~~~e).getLsbD i = (v.getLsbD i && !e.getLsbD i) := by
  simp [hi]

/-! ## Registers without fields of a kind -/

/-- A register without write-1-to-clear bits takes its fields alone. -/
theorem exec_registerWrite_host_fields {s : State} {o : BitVec 26} (v e : BitVec 64) (hreach : s.reaches .host = true)
    (hopen : s.writesBarred = false) (hreg : isRegOffset o.toNat = true) (hctx : inCtx o.toNat = false)
    (hmask : w1cMask o.toNat = 0) : exec (.registerWrite .host o 8 ⟨v, e⟩) s = .next (s.writeFields o.toNat v) := by
  rw [exec_registerWrite_host_open v e hreach hopen hreg hctx, State.writeW1c_of_mask_zero _ _ hmask]

theorem exec_registerWrite_host_errCause {s : State} (v e : BitVec 64) (hreach : s.reaches .host = true)
    (hopen : s.writesBarred = false) : exec (.registerWrite .host 0xB000 8 ⟨v, e⟩) s = .next
      (if v.getLsbD 63 && !e.getLsbD 63 then { s with err := { s.err with causeValid := false } } else s) := by
  rw [exec_registerWrite_host_open v e hreach hopen rfl rfl, ← getLsbD_and_not v e (by decide)]
  exact congrArg _ (State.writeW1c_errCause s _)

/-- The clearing of ERR_CAUSE stands where writes are barred. -/
theorem exec_registerWrite_host_barred_errCause {s : State} {v : BitVec 64} (e : BitVec 64) (hreach : s.reaches .host = true)
    (hbarred : s.writesBarred = true) (hv : v.getLsbD 63 = true) : exec (.registerWrite .host 0xB000 8 ⟨v, e⟩) s = .next
      (if e.getLsbD 63 then s else { s with err := { s.err with causeValid := false } }) := by
  have hone : v &&& w1cMask 0xB000 ≠ 0 := fun hzero =>
    Bool.false_ne_true (((and_valid_eq_zero_iff v).mp hzero).symm.trans hv)
  rw [exec_registerWrite_host_barred v e hreach hbarred rfl]
  refine congrArg _ ((if_pos hone).trans ((State.writeW1c_errCause s _).trans ?_))
  rw [getLsbD_and_not v e (by decide), hv]
  cases e.getLsbD 63 <;> rfl

theorem exec_registerWrite_host_accessErr {s : State} (v e : BitVec 64) (hreach : s.reaches .host = true)
    (hopen : s.writesBarred = false) : exec (.registerWrite .host 0x0048 8 ⟨v, e⟩) s = .next
      (if v.getLsbD 63 && !e.getLsbD 63 then { s with err := { s.err with accValid := false } } else s) := by
  rw [exec_registerWrite_host_open v e hreach hopen rfl rfl, ← getLsbD_and_not v e (by decide)]
  exact congrArg _ (State.writeW1c_accessErr s _)

end Sys2Proof.Machine

open Sys2Proof Sys2Proof.Machine

/-- Settles O50: each clause is the outcome of the test that decides it, at the register it names. -/
theorem registerWritesComplete : Obligations.RegisterWritesComplete := by
  refine ⟨fun s o n v e => ⟨s.barAnswers_iff, fun hbar => ?silent, fun hbar hap hst hn hal =>
    exec_registerRead_register hbar hap hst hn hal⟩, fun s v e hreach => ⟨fun o n hap hst hshape =>
    exec_registerWrite_host_misshaped _ hreach hap hst hshape, s.writesBarred_iff, fun hbarred o hap hst hal =>
    exec_registerWrite_host_barred v e hreach hbarred ((isRegOffset_iff _).mpr ⟨hap, hst, hal⟩),
    fun hbarred => ?barred, fun hopen => ?ready⟩⟩
  case silent =>
    exact ⟨exec_registerRead_silent o n hbar, exec_registerWrite_host_silent o n _ hbar⟩
  case barred =>
    have hwrite {o : BitVec 26} (hreg : isRegOffset o.toNat = true) := exec_registerWrite_host_barred v e hreach hbarred hreg
    refine ⟨?timeouts, ?window, fun hv => ?errCause⟩
    case timeouts =>
      rw [hwrite rfl]
      simp [w1cMask]
    case window =>
      rw [hwrite rfl]
      simp [w1cMask, State.writeWindow]
    case errCause =>
      exact exec_registerWrite_host_barred_errCause e hreach hbarred hv
  case ready =>
    have hfields {o : BitVec 26} (hreg : isRegOffset o.toNat = true) := exec_registerWrite_host_fields v e hreach hopen hreg
    have hcause := exec_registerWrite_host_errCause v e hreach hopen
    have hacc := exec_registerWrite_host_accessErr v e hreach hopen
    refine ⟨hfields rfl rfl rfl, hfields rfl rfl rfl, hfields rfl rfl rfl, hfields rfl rfl rfl, fun hv he => ?clears,
      fun hkeep => ?keeps, hfields rfl rfl rfl, hfields rfl rfl rfl, exec_registerWrite_host_ctx v e hreach hopen rfl rfl⟩
    case clears =>
      rw [hcause, hacc, hv, he]
      exact ⟨rfl, rfl⟩
    case keeps =>
      have hno : (v.getLsbD 63 && !e.getLsbD 63) = false := by
        cases hkeep with
        | inl hv => rw [hv, Bool.false_and]
        | inr he => rw [he, Bool.not_true, Bool.and_false]
      rw [hcause, hacc, hno]
      exact ⟨rfl, rfl⟩

end

section
/-! O57 to O60: what every step keeps. Laws/Kept says of each operation that it keeps the queue, the burned fuses, the held
ranges and the form of module memory; here each command is put together from the operations it is made of. -/

namespace Sys2Proof.Machine
open Sys2Proof

/-! ## Updates of one part of the state -/

theorem State.withPwr_kept (s : State) (p : Power) (h : p.capCeiling = s.pwr.capCeiling := by rfl) : Kept s { s with pwr := p } :=
  (Kept.refl s).updEq rfl rfl rfl rfl rfl rfl h rfl

theorem State.withErr_kept (s : State) (e : Errors) (h : e.deadlines = s.err.deadlines := by rfl) : Kept s { s with err := e } :=
  (Kept.refl s).updEq rfl rfl h rfl rfl rfl rfl rfl

theorem State.withCrn_kept (s : State) (k : Cairn) (h : k.reportTimeout = s.crn.reportTimeout := by rfl)
    (h' : k.hbTimeout = s.crn.hbTimeout := by rfl) : Kept s { s with crn := k } :=
  (Kept.refl s).updEq rfl rfl rfl h h' rfl rfl rfl

theorem State.withFlashErr_kept (s : State) (f : Flash) (e : Errors) (h : e.deadlines = s.err.deadlines := by rfl) :
    Kept s { s with flash := f, err := e } :=
  (Kept.refl s).updEq rfl rfl h rfl rfl rfl rfl rfl

theorem State.withImg_kept (s : State) (g : Image) : Kept s { s with img := g } := (Kept.refl s).updEq rfl rfl rfl rfl rfl rfl rfl rfl
theorem State.withBoot_kept (s : State) (b : Boot) : Kept s { s with boot := b } := (Kept.refl s).updEq rfl rfl rfl rfl rfl rfl rfl rfl
theorem State.withFlash_kept (s : State) (f : Flash) : Kept s { s with flash := f } := (Kept.refl s).updEq rfl rfl rfl rfl rfl rfl rfl rfl
theorem State.withLinks_kept (s : State) (l : Links) : Kept s { s with links := l } := (Kept.refl s).updEq rfl rfl rfl rfl rfl rfl rfl rfl
theorem State.withHost_kept (s : State) (h : HostPort) : Kept s { s with host := h } := (Kept.refl s).updEq rfl rfl rfl rfl rfl rfl rfl rfl
theorem State.withMgt_kept (s : State) (m : Mgmt) : Kept s { s with mgt := m } := (Kept.refl s).updEq rfl rfl rfl rfl rfl rfl rfl rfl
theorem State.withSec_kept (s : State) (x : Security) : Kept s { s with sec := x } := (Kept.refl s).updEq rfl rfl rfl rfl rfl rfl rfl rfl
theorem State.withDmp_kept (s : State) (d : Dump) : Kept s { s with dmp := d } := (Kept.refl s).updEq rfl rfl rfl rfl rfl rfl rfl rfl
theorem State.withFetchCount_kept (s : State) (n : BitVec 32) (b : Bool) : Kept s { s with planeFetchTotal := n, prefetch := b } :=
  (Kept.refl s).updEq rfl rfl rfl rfl rfl rfl rfl rfl
theorem State.withCeilInbox_kept (s : State) (l : List (CtxIdx × Nat × Nat × CeilReport)) : Kept s { s with ceilInbox := l } :=
  (Kept.refl s).updEq rfl rfl rfl rfl rfl rfl rfl rfl

/-- A fold whose steps each keep, for a fold that names its own steps. -/
theorem Kept.foldl_steps {α : Type} {f : State → α → State} (l : List α) (s : State) (hf : ∀ u x, Kept u (f u x)) :
    Kept s (l.foldl f s) :=
  Kept.foldl (Kept.refl s) fun u x h => h.trans (hf u x)

/-! ## Outcomes -/

/-- The outcome o keeps what s holds, where it is a next state. -/
structure KeptNext (s : State) (o : Host.Outcome State Fault Refusal) : Prop where
  kept : ∀ u, o = .next u → Kept s u

theorem KeptNext.next {s u : State} (h : Kept s u) : KeptNext s (.next u) := ⟨fun _ e => by cases e; exact h⟩

theorem KeptNext.same (s : State) : KeptNext s (.next s) := .next (.refl s)

theorem KeptNext.refused (s : State) (r : Refusal) : KeptNext s (.refused r) := ⟨fun _ e => nomatch e⟩

theorem KeptNext.fault (s : State) (r : Fault) : KeptNext s (.fault r) := ⟨fun _ e => nomatch e⟩

theorem KeptNext.ite {c : Prop} [Decidable c] {s : State} {a b : Host.Outcome State Fault Refusal} (h1 : KeptNext s a)
    (h2 : KeptNext s b) : KeptNext s (if c then a else b) := by
  split
  · exact h1
  · exact h2

/-- A command that does nothing in some states. -/
theorem KeptNext.unless {c : Prop} [Decidable c] {s u : State} (h : Kept s u) : KeptNext s (.next (if c then s else u)) :=
  .next (.ite (.refl s) h)

/-- A command that acts in some states only. -/
theorem KeptNext.when {c : Prop} [Decidable c] {s u : State} (h : Kept s u) : KeptNext s (.next (if c then u else s)) :=
  .next (.ite h (.refl s))

/-- A tor word that may be refused for its fields. -/
theorem KeptNext.word {c : Prop} [Decidable c] {s u : State} {r : Refusal} (h : Kept s u) :
    KeptNext s (if c then .refused r else .next u) :=
  .ite (.refused s r) (.next h)

/-! ## Tor words -/

theorem vectorWord_kept (s : State) (t : TorIdx) (op : Byte) (o : VOp) (name : String) (f : FpMode → F32 → F32 → F32 → FpRes) :
    KeptNext s (s.vectorWord t op o name f) :=
  .word (State.vector_kept ..)

theorem execVcmp_kept (t : TorIdx) (o : VCmpOp) (s : State) : KeptNext s (execVcmp t o s) := by
  refine .ite (.refused ..) ?_
  split
  · exact .same s
  · dsimp only
    split
    · exact .same s
    · refine .next (Kept.trans ?_ (State.issue_kept ..))
      split
      · exact .refl s
      · split
        · exact .refl s
        · split
          · exact State.takeFree_kept s 1
          · exact .refl s

theorem execVld_kept (t : TorIdx) (o : VMemOp) (ecc : EccObs) (s : State) : KeptNext s (execVld t o ecc s) := by
  refine .next (State.issueWide_kept _ _ _ _ fun c im => ?_)
  dsimp only
  split
  · exact State.stopTor_kept ..
  · refine .ite (.refl s) (.ite ?_ (State.setTor_kept ..))
    exact ((State.setTor_kept ..).trans (State.failEcc_kept ..)).trans (State.pcNext_kept ..)

theorem execVst_kept (t : TorIdx) (o : VMemOp) (ecc : EccObs) (s : State) : KeptNext s (execVst t o ecc s) := by
  refine .next (State.issueWide_kept _ _ _ _ fun c im => ?_)
  dsimp only
  split
  · exact State.stopTor_kept ..
  · refine .ite (.refl s) (Kept.trans (.ite (State.setTor_kept ..) ?_) (State.pcNext_kept ..))
    exact (State.setTor_kept ..).trans (State.failEcc_kept ..)

theorem execDeq_kept (t : TorIdx) (o : ConvOp) (s : State) : KeptNext s (execDeq t o s) := by
  refine .word ?_
  split
  · exact .refl s
  · split
    · exact .refl s
    · dsimp only
      refine .ite (.refl s) (.ite (State.stopTor_kept ..) (.ite (.refl s) (.ite (.ite (.refl s) ?_) ?_)))
      · exact (State.setTor_kept ..).trans (Kept.foldl_steps _ _ fun _ _ => State.fetchPlanes_kept ..)
      · split
        next heq => exact ((State.setTor_kept ..).trans (State.deqBlocks_keptP heq)).trans (State.pcNext_kept ..)
        next heq =>
          exact (((State.setTor_kept ..).trans (State.deqBlocks_keptP heq)).trans (State.failItem_kept ..)).trans
            (State.pcNext_kept ..)

theorem execWait_kept (t : TorIdx) (k : BitVec 17) (n : BitVec 16) (r : Bool) (s : State) : KeptNext s (execWait t k n r s) :=
  .next (State.issueWide_kept _ _ _ _ fun _ _ => .ite (State.completeWait_kept ..) (State.setTor_kept ..))

/-- An effect that waits for the tor's earlier words, and the program counter. -/
theorem laterWord_kept (s : State) (c : CtxIdx) (t : TorIdx) (op : LaterOp) :
    Kept s (((s.pushLater c t op).pcNext t).settleLater c t) :=
  ((State.pushLater_kept ..).trans (State.pcNext_kept ..)).trans (State.settleLater_kept ..)

theorem execLdq_kept (t : TorIdx) (stream : BitVec 24) (s : State) : KeptNext s (execLdq t stream s) := by
  refine .unless ?_
  split
  · refine .ite (.ite (State.queueLoad_kept ..) (.refl s)) ?_
    exact State.issueWide_kept _ _ _ _ fun _ _ => State.queueLoad_kept ..
  · exact .refl s

theorem execDrq_kept (t : TorIdx) (o : StoreOp) (s : State) : KeptNext s (execDrq t o s) := by
  refine .next (State.issueWide_kept _ _ _ _ fun c im => .ite (.refl s) (.ite ?_ ?_))
  · exact ((State.setTor_kept ..).trans (State.failEcc_kept ..)).trans (State.pcNext_kept ..)
  · exact ((State.setTor_kept ..).trans (State.drqBlocks_kept ..)).trans (State.pcNext_kept ..)

theorem execCairn_kept (t : TorIdx) (pre : BitVec 12) (s : State) : KeptNext s (execCairn t pre s) :=
  .next (State.issueWide_kept _ _ _ _ fun _ _ =>
    ((State.pushLater_kept ..).trans (State.setTor_kept ..)).trans (State.progress_kept ..))

theorem execSkipb_kept (t : TorIdx) (branch : BitVec 4) (skip : BitVec 20) (s : State) : KeptNext s (execSkipb t branch skip s) :=
  .next (State.issueWide_kept _ _ _ _ fun _ _ => .ite (.refl s) (.ite (State.pcNext_kept ..) (State.skipRange_kept ..)))

theorem execRet_kept (t : TorIdx) (s : State) : KeptNext s (execRet t s) := by
  refine .next (State.issueWide_kept _ _ _ _ fun c im => ?_)
  dsimp only
  split
  · exact .refl s
  · refine .ite ?_ (State.setTor_kept ..)
    split
    · exact (((State.setTor_kept ..).trans (State.pushLater_kept ..)).trans (State.settleLater_kept ..)).trans
        (State.resumeSettle_kept ..)
    · exact State.setTor_kept ..

theorem execNchk_kept (t : TorIdx) (tile : BitVec 20) (s : State) : KeptNext s (execNchk t tile s) := by
  refine .next (State.issueWide_kept _ _ _ _ fun c im => ?_)
  dsimp only
  split
  · refine .ite (.refl s) (.ite ?_ (.ite (State.pcNext_kept ..) (.refl s)))
    exact (State.setCtx_kept ..).trans (State.pcNext_kept ..)
  · refine .ite (.refl s) ?_
    refine Kept.trans ?_ (Kept.foldl_steps _ _ fun _ _ => State.progress_kept ..)
    refine Kept.trans ?_ (State.pcNext_kept ..)
    refine Kept.trans ?_ (Kept.foldl_steps _ _ fun _ _ => State.setTor_kept ..)
    exact (State.flbAdd_kept ..).trans (State.setCtx_kept ..)

theorem execAlt_kept (t : TorIdx) (tile : BitVec 20) (pos : Bool) (skip : BitVec 16) (s : State) :
    KeptNext s (execAlt t tile pos skip s) := by
  refine .next ?_
  split
  · exact .refl s
  · split
    · exact .refl s
    · exact .ite (.refl s) (.ite (.ite (.refl s) (State.altAfter_kept ..)) (State.altBefore_kept ..))

theorem execSettle_kept (t : TorIdx) (tile : BitVec 20) (desc : BitVec 16) (s : State) : KeptNext s (execSettle t tile desc s) :=
  .next (State.issueWide_kept _ _ _ _ fun _ _ =>
    (((State.pushLater_kept ..).trans (State.setTor_kept ..)).trans (State.settleLater_kept ..)).trans (State.resumeSettle_kept ..))

/-! ## The array -/

theorem execTilePassStart_kept (t : TorIdx) (bs cs : List DelayUpset) (s : State) : KeptNext s (execTilePassStart t bs cs s) := by
  refine .next ?_
  split
  · exact .refl s
  · split
    · exact .refl s
    · have h1 (g : List TorIdx) (c : CtxIdx) (im : Sched) : Kept s
          (g.foldl (fun s u => s.enterPass c im u) ((s.upsetDelays g false bs).upsetDelays g true cs)) :=
        ((State.upsetDelays_kept ..).trans (State.upsetDelays_kept ..)).trans
          (Kept.foldl_steps _ _ fun _ _ => State.enterPass_kept ..)
      refine .ite (.refl s) (.ite ?_ ?_)
      · exact (h1 _ _ _).trans (Kept.foldl_steps _ _ fun _ _ => State.progress_kept ..)
      · exact (h1 _ _ _).trans (State.failWith_kept ..)

theorem execWave_kept (t : TorIdx) (os : List WaveObs) (s : State) : KeptNext s (execWave t os s) := by
  refine .next ?_
  split
  · exact .refl s
  · split
    · exact .refl s
    · refine .ite (.refl s) (.ite (State.freeze_kept ..) (.ite (State.drainQueues_kept ..) ?_))
      split
      · exact State.freeze_kept ..
      · refine .ite (State.freeze_kept ..) (Kept.trans ?_ (State.drainQueues_kept ..))
        exact ((Kept.foldl_steps _ _ fun _ _ => State.takeWave_kept ..).trans (State.endBadWave_kept ..)).trans
          (State.endBadWave_kept ..)

theorem execTilePassEnd_kept (t : TorIdx) (us : List RegisterUpset) (ecc : List EccObs) (s : State) :
    KeptNext s (execTilePassEnd t us ecc s) := by
  refine .next ?_
  split
  · exact .refl s
  · dsimp only
    split
    · have h1 (l : List (TorIdx × EccObs)) : Kept s (l.foldl (fun s e => s.setTor e.1 ((s.tor e.1).noteEcc e.2)) s) :=
        Kept.foldl_steps _ _ fun _ _ => State.setTor_kept ..
      refine .ite (.refl s) (.ite ((h1 _).trans (State.failWith_kept ..)) ?_)
      exact ((h1 _).trans (Kept.foldl_steps _ _ fun _ _ => State.enterDrain_kept ..)).trans
        (Kept.foldl_steps _ _ fun _ _ => State.progress_kept ..)
    · exact .refl s

/-- A drain entry leaves the buffer, and its tile fails where it was poisoned. -/
theorem releasedTile_kept {s u : State} (h : Kept s u) (c : CtxIdx) (im : Sched) (t : TorIdx) (b : DrainBuf) :
    Kept s (if (u.releaseEntry c im t b).1 then (u.releaseEntry c im t b).2.failTile c im t b.tile else (u.releaseEntry c im t b).2) :=
  .ite ((h.trans (State.releaseEntry_kept ..)).trans (State.failTile_kept ..)) (h.trans (State.releaseEntry_kept ..))

theorem execDrainRelease_kept (t : TorIdx) (s : State) : KeptNext s (execDrainRelease t s) := by
  refine .next ?_
  split
  · exact .refl s
  · split
    · dsimp only
      split <;>
        exact (releasedTile_kept (.ite ((State.setTor_kept ..).trans (State.setCtx_kept ..)) (State.setTor_kept ..)) ..).trans
          (Kept.foldl_steps _ _ fun _ _ => State.progress_kept ..)
    · exact .refl s

/-! ## Settle and storms -/

theorem execCeilingReport_kept (home : BitVec 7) (s : State) : KeptNext s (execCeilingReport home s) :=
  .unless ((State.withCeilInbox_kept ..).trans (Kept.foldl_steps _ _ fun _ _ => State.takeReport_kept ..))

theorem execStormVerdict_kept (c : CtxIdx) (s : State) : KeptNext s (execStormVerdict c s) := by
  refine .next ?_
  dsimp only
  split
  · exact .refl s
  · exact .ite (.refl s) (.ite ((State.setCtx_kept ..).trans (State.prefetchPlanes_kept ..)) (State.setCtx_kept ..))

/-! ## Images and links -/

theorem execImageCheckDone_kept (s : State) : KeptNext s (execImageCheckDone s) := by
  refine .next ?_
  have hfail (g : Image) (c f : Nat) : Kept s (({ s with img := g } : State).refuseImage c f) :=
    (State.withImg_kept ..).trans (State.refuseImage_kept ..)
  split
  · refine .ite (.refl s) ?_
    dsimp only
    split
    · exact hfail ..
    · refine .ite (hfail ..) (.ite (hfail ..) ?_)
      exact ((State.withImg_kept ..).trans (State.switchIfIdle_kept ..)).trans (State.refreshIfIdle_kept ..)
  · exact .refl s

theorem execLinkTrainingDone_kept (port : BitVec 7) (trained : Bool) (rtt : BitVec 16) (s : State) :
    KeptNext s (execLinkTrainingDone port trained rtt s) := by
  have hfail (n m : Nat) (p : Port) (code : Nat) : Kept s (((s.setPort n p).raise code m).portChanged) :=
    ((State.setPort_kept ..).trans (State.raise_kept ..)).trans (State.portChanged_kept ..)
  refine .unless (.ite ?_ (.ite (hfail ..) (.ite (hfail ..) ?_)))
  · exact (State.portMissing_kept ..).trans (State.portChanged_kept ..)
  · exact ((State.setPort_kept ..).trans (State.sendClaim_kept ..)).trans (State.portChanged_kept ..)

theorem execClaim_kept (port : BitVec 7) (c : ClaimData) (s : State) : KeptNext s (execClaim port c s) := by
  have hport (n : Nat) (q : Port) : Kept s ((s.setPort n q).sendClaim n) :=
    (State.setPort_kept ..).trans (State.sendClaim_kept ..)
  have hraise (n : Nat) {u : State} (h : Kept s u) : Kept s (((u.raise 0x26 n).sendClaim n).portChanged) :=
    ((h.trans (State.raise_kept ..)).trans (State.sendClaim_kept ..)).trans (State.portChanged_kept ..)
  refine .unless (.ite (hport ..) (.ite (.ite ?_ ?_) (.ite (.ite ?_ ?_) (.refl s))))
  · exact (hport ..).trans (State.portChanged_kept ..)
  · exact hraise _ (State.setPort_kept ..)
  · exact State.setPort_kept ..
  · exact hraise _ ((State.setPort_kept ..).trans (State.portDown_kept ..))

theorem execUncorrectableCodeword_kept (port : BitVec 7) (s : State) : KeptNext s (execUncorrectableCodeword port s) :=
  .unless (.ite ((State.setPort_kept ..).trans (State.dropPort_kept ..)) (State.setPort_kept ..))

theorem execControlFrame_kept (port : BitVec 7) (check : FrameCheck) (ack : BitVec 8) (nak : Bool) (k d h : BitVec 5) (s : State) :
    KeptNext s (execControlFrame port check ack nak k d h s) := by
  refine .unless (.ite (State.setPort_kept ..) (Kept.trans (.ite ?_ (State.setPort_kept ..)) (State.pumpPort_kept ..)))
  exact (State.setPort_kept ..).trans (State.goBack_kept ..)

theorem execPacketReceive_kept (port : BitVec 7) (r : RawPacket) (overlaps : Bool) (corrected : BitVec 16) (s : State) :
    KeptNext s (execPacketReceive port r overlaps corrected s) := by
  refine .unless (.ite (State.setPort_kept ..) ?_)
  split
  · exact State.setPort_kept ..
  · refine .ite ?_ (.ite ?_ (.ite ?_ (.ite ?_ ?_)))
    · exact ((State.setPort_kept ..).trans (State.setPort_kept ..)).trans (State.freeSlot_kept ..)
    · exact (State.setPort_kept ..).trans (State.setPort_kept ..)
    · exact (State.setPort_kept ..).trans (State.freeSlot_kept ..)
    · exact (State.setPort_kept ..).trans (State.consumePacket_kept ..)
    · exact (State.setPort_kept ..).trans (State.forwardPacket_kept ..)

theorem execFlowAck_kept (slotFlow : Bool) (flow : BitVec 15) (base : BitVec 32) (s : State) :
    KeptNext s (execFlowAck slotFlow flow base s) := by
  refine .unless (.ite (.ite ?_ (.refl s)) (.ite ?_ (.refl s)))
  · exact (State.setSlotFlow_kept ..).trans (State.flushSlot_kept ..)
  · exact (State.setFlow_kept ..).trans (State.flushFlow_kept ..)

/-! ## Membership and the cairn -/

theorem execWithdraw_kept (slot : BitVec 6) (s : State) : KeptNext s (execWithdraw slot s) :=
  .when (((State.voidProposals_kept ..).trans (State.reportTo_kept ..)).trans (State.suspect_kept ..) |>.trans
    (State.gatherAll_kept ..))

theorem execCairnReportOpen_kept (c : CtxIdx) (s : State) : KeptNext s (execCairnReportOpen c s) := by
  refine .next ?_
  split
  · exact .refl s
  · refine .ite (.refl s) (.ite (State.startGathers_kept ..) ?_)
    split
    next heq =>
      have h := (State.startGathers_kept ..).trans (State.twinStage_keptP heq)
      exact (Kept.ite (h.trans (State.openReport_kept ..)) h).trans (State.takeHeld_kept ..)

theorem execCairnPacket_kept (m : CairnMsg) (s : State) : KeptNext s (execCairnPacket m s) := by
  refine .unless ?_
  cases m with
  | report => exact State.takeReportMsg_kept ..
  | summary => exact State.takeSummary_kept ..
  | declaration => exact (State.declare_kept ..).trans (State.gatherAll_kept ..)
  | twinDigest => exact State.takeDigest_kept ..
  | verdict => exact State.actOnVerdict_kept ..

theorem execCairnInstant_kept (c : CtxIdx) (s : State) : KeptNext s (execCairnInstant c s) := by
  refine .next ?_
  dsimp only
  split
  · exact .ite (.refl s) ((State.instant_kept ..).trans (State.takeHeld_kept ..))
  · exact .refl s

/-! ## Memory -/

theorem execMemoryRequest_kept (r : MemReq) (s : State) : KeptNext s (execMemoryRequest r s) := by
  refine .ite (.same s) (.ite (.ite (.next (State.emit_kept ..)) (.fault ..)) (.ite (.same s) (.next ?_)))
  exact (State.snoopFor_kept ..).trans (State.queueRequest_kept ..)

theorem execSlotMerge_kept (addr : BitVec 36) (first : BitVec 3) (words : List (BitVec 32)) (client : Client) (s : State) :
    KeptNext s (execSlotMerge addr first words client s) := by
  refine .ite (.same s) (.ite (.fault ..) (.ite (.same s) ?_))
  split
  next u heq =>
    have h : Kept s u := State.mergeSlot_keptP heq
    split
    · split
      · exact .next (h.trans (State.statePoison_kept ..))
      · split
        · split
          · exact .next (Kept.trans (.ite (h.trans (State.statePoison_kept ..)) h) (State.failWord_kept ..))
          · exact .next h
        · exact .next h
      · exact .next h
    · exact .next h

theorem execScrubRequest_kept (sub : BitVec 8) (s : State) : KeptNext s (execScrubRequest sub s) :=
  .ite (.same s) (.next (State.setSub_kept ..))

theorem execHostMemRead_kept (hpa : BitVec 64) (s : State) : KeptNext s (execHostMemRead hpa s) := by
  refine .ite (.same s) ?_
  split
  · exact .same s
  · refine .ite (.next (State.emit_kept ..)) ?_
    have h (b : Nat) : Kept s (((s.hostRead b).2.hostRead (b + 1)).2.trackLine (b / 2)) :=
      ((State.hostRead_kept ..).trans (State.hostRead_kept ..)).trans (State.trackLine_kept ..)
    dsimp only
    split
    · exact .next ((h _).trans (State.emit_kept ..))
    · exact .next ((((h _).trans (State.notePoisonRead_kept ..)).trans (State.emit_kept ..)).trans (State.recordUes_kept ..))

theorem execHostMemPartialWrite_kept (hpa : BitVec 64) (data : BitVec 512) (mask : BitVec 64) (s : State) :
    KeptNext s (execHostMemPartialWrite hpa data mask s) := by
  refine .ite (.same s) ?_
  split
  · exact .same s
  · dsimp only
    have h : ∀ (b : Nat) (l : List Nat), Kept s (l.foldl (fun (a : List (Nat × ReadRes) × State) j =>
        (a.1 ++ [(b + j, (a.2.hostRead (b + j)).1)], (a.2.hostRead (b + j)).2)) ([], s)).2 :=
      fun b l => Kept.foldl_snd (.refl s) fun _ _ h => h.trans (State.hostRead_kept ..)
    refine .ite (.next ((h _ _).trans (State.recordUes_kept ..))) ?_
    exact .next ((h _ _).trans (Kept.foldl_steps _ _ fun _ _ => State.hostStore_kept ..))

theorem execBisnpResponse_kept (hpa : BitVec 64) (s : State) : KeptNext s (execBisnpResponse hpa s) := by
  refine .ite (.same s) ?_
  split
  · exact .same s
  · dsimp only
    split
    · exact .same s
    · exact .next (State.withHost_kept ..)

theorem dropLine_afterSnoop_kept (hpa : BitVec 64) (s : State) : Kept s ((s.emit (.snpResponse hpa)).dropLine hpa.toNat) :=
  (State.emit_kept ..).trans (State.dropLine_kept ..)

/-! ## The network interface and the position flows -/

/-- After a packet at a node, what waits for nodes is tried again. -/
theorem fed_kept {s u : State} (c : CtxIdx) (h : Kept s u) : Kept s ((u.feedNodes c).takeHeld c) :=
  (h.trans (State.feedNodes_kept ..)).trans (State.takeHeld_kept ..)

theorem execToken_kept (m : TokenMsg) (s : State) : KeptNext s (execToken m s) := by
  refine .unless (.ite (.ite (.refl s) ?_) (.ite (State.setCtx_kept ..) (State.setCtx_kept ..)))
  exact (State.setCtx_kept ..).trans (State.addToken_kept ..)

theorem execFetchReq_kept (c : CtxIdx) (srcPos : BitVec 14) (addr : BitVec 36) (plane : BitVec 2) (s : State) :
    KeptNext s (execFetchReq c srcPos addr plane s) := by
  refine .next ?_
  split
  · exact .refl s
  · refine .ite (.refl s) ?_
    split
    next heq => exact (State.moduleRead_keptP heq).trans (State.tell_kept ..)
    next heq => exact (State.moduleRead_keptP heq).trans (State.tell_kept ..)
    next heq => exact (State.moduleRead_keptP heq).trans (State.statePoison_kept ..)
    next heq => exact State.moduleRead_keptP heq

theorem execFetchData_kept (c : CtxIdx) (addr : BitVec 36) (plane : BitVec 2) (bursts : List (BitVec 272)) (s : State) :
    KeptNext s (execFetchData c addr plane bursts s) := by
  refine .next ?_
  split
  · exact .refl s
  · refine .ite (.refl s) (Kept.trans ?_ (State.progressAll_kept ..))
    dsimp only
    split
    · exact ((State.landBursts_kept ..).trans (State.setCtx_kept ..)).trans (State.withFetchCount_kept ..)
    · exact ((State.landBursts_kept ..).trans (State.setCtx_kept ..)).trans (State.withFetchCount_kept ..)

theorem execStateCopy_kept (c : CtxIdx) (k : CopyPacket) (s : State) : KeptNext s (execStateCopy c k s) := by
  refine .next ?_
  split
  · exact .refl s
  · refine .ite (State.serveLoaded_kept ..) (.ite (.refl s) (fed_kept _ (Kept.trans ?_ (State.retryOwn_kept ..))))
    next im _ =>
      have h := Kept.foldl_steps k.items s fun u it => State.landItem_kept u c im it
      exact .ite (h.trans (State.finishCopy_kept ..)) h

theorem execBelay_kept (c : CtxIdx) (m : BelayMsg) (s : State) : KeptNext s (execBelay c m s) := by
  refine .next ?_
  split
  · exact .refl s
  · dsimp only
    split
    · exact (State.setCtx_kept ..).trans (State.progressAll_kept ..)
    · exact (State.takeBelayState_kept ..).trans (State.progressAll_kept ..)
    · exact State.setCtx_kept ..
    · exact State.setCtx_kept ..
    · exact .ite (State.setCtx_kept ..) (.refl s)

/-! ## Contexts -/

theorem execProducerLineRead_kept (c : CtxIdx) (line : HostRead (BitVec 64 × BitVec 64)) (entries : List (List Byte)) (s : State) :
    KeptNext s (execProducerLineRead c line entries s) := by
  refine .unless ?_
  have h := (State.setCtx_kept s c { s.ctx c with lineRead := false }).trans (State.hostDone_kept _ c)
  dsimp only
  split
  · exact .ite (h.trans (State.takeLine_kept ..)) h
  · exact h

/-- A feed entry is refused, and the ring is scanned again. -/
theorem refused_kept (s : State) (c : CtxIdx) (e : FeedEntry) (k : Nat) : Kept s ((s.refuseEntry c e k).scanRing c) :=
  (State.refuseEntry_kept ..).trans (State.scanRing_kept ..)

theorem execLoad_kept (c : CtxIdx) (s : State) : KeptNext s (execLoad c s) := by
  refine .next ?_
  split
  · exact .refl s
  · split
    · exact refused_kept ..
    · exact ((State.consume_kept ..).trans (State.setCtx_kept ..)).trans (State.askBuffer_kept ..)

theorem execLoadComplete_kept (c : CtxIdx) (image : HostRead (List Byte)) (s : State) : KeptNext s (execLoadComplete c image s) := by
  refine .unless ?_
  split
  · refine .ite (.refl s) ?_
    split
    next heq =>
      have h := State.bufferBytes_keptP heq
      dsimp only
      refine .ite h (.ite ((h.trans (State.takeFree_kept ..)).trans (State.failLoad_kept ..)) ?_)
      split
      · exact h.trans (State.failLoad_kept ..)
      · split
        · exact (h.trans (State.reportRefusal_kept ..)).trans (State.failLoad_kept ..)
        · exact .ite (h.trans (State.failLoad_kept ..)) (h.trans (State.finishLoad_kept ..))
  · exact State.hostDone_kept ..

theorem execRestore_kept (c : CtxIdx) (s : State) : KeptNext s (execRestore c s) := by
  refine .next ?_
  split
  · exact .refl s
  · split
    · exact refused_kept ..
    · exact ((State.consume_kept ..).trans (State.setCtx_kept ..)).trans (State.askBuffer_kept ..)

theorem execRestoreComplete_kept (c : CtxIdx) (buffer : HostRead (List Byte)) (s : State) :
    KeptNext s (execRestoreComplete c buffer s) := by
  refine .unless ?_
  split
  · split
    next heq =>
      have h := State.bufferBytes_keptP heq
      refine .ite h (Kept.trans ?_ (State.scanRing_kept ..))
      split
      · exact (h.trans (State.setCtx_kept ..)).trans (State.endEntry_kept ..)
      · split
        · refine Kept.trans (.ite ?_ (h.trans (State.setCtx_kept ..))) (State.endEntry_kept ..)
          exact (h.trans (State.setCtx_kept ..)).trans (State.scrambleState_kept ..)
        · exact (((h.trans (State.setCtx_kept ..)).trans (State.applyCkpt_kept ..)).trans (State.prepareStep_kept ..)).trans (State.endEntry_kept ..)
  · exact State.hostDone_kept ..

theorem execStart_kept (c : CtxIdx) (s : State) : KeptNext s (execStart c s) := by
  refine .next ?_
  split
  · exact .refl s
  · split
    · exact refused_kept ..
    · refine Kept.trans ?_ (State.tryStart_kept ..)
      refine Kept.trans ?_ (State.scanRing_kept ..)
      refine Kept.trans ?_ (Kept.foldl_steps _ _ fun _ _ => State.declareIn_kept ..)
      exact ((State.consume_kept ..).trans (State.setCtx_kept ..)).trans (State.prepareStep_kept ..)

theorem inputList_kept (s : State) (e : FeedEntry) (im : Sched) (r : HostRead (List (BitVec 128))) (p : Prop) [Decidable p] :
    Kept s (if p then s.stepList e im r else (some [], s)).2 := by
  split
  · exact State.stepList_kept ..
  · exact .refl s

theorem execStep_kept (c : CtxIdx) (inputs : HostRead (List (BitVec 128))) (s : State) : KeptNext s (execStep c inputs s) := by
  refine .next ?_
  split
  · refine .ite (inputList_kept ..) ?_
    split
    · exact (inputList_kept ..).trans (refused_kept ..)
    · refine Kept.trans ?_ (State.tryStart_kept ..)
      refine Kept.trans ?_ (State.writeConsumer_kept ..)
      refine Kept.trans ?_ (State.askInputs_kept ..)
      exact ((inputList_kept ..).trans (State.consume_kept ..)).trans (State.setCtx_kept ..)
  · split
    · exact refused_kept ..
    · exact .refl s
  · exact .refl s

theorem execStepInputRead_kept (c : CtxIdx) (ordinal : BitVec 4) (input : HostRead (List Byte)) (s : State) :
    KeptNext s (execStepInputRead c ordinal input s) := by
  refine .unless ?_
  split
  · refine .ite (.refl s) ?_
    split
    next heq =>
      have h := State.inputBytes_keptP heq
      refine .ite h ?_
      split
      · exact h.trans (State.dropStep_kept ..)
      · exact ((h.trans (State.writeBytes_kept ..)).trans (State.setCtx_kept ..)).trans (State.tryStart_kept ..)
  · exact State.hostDone_kept ..

theorem execCheckpoint_kept (c : CtxIdx) (s : State) : KeptNext s (execCheckpoint c s) := by
  refine .next ?_
  split
  · dsimp only
    split
    · exact refused_kept ..
    · refine Kept.trans ?_ (State.scanRing_kept ..)
      split
      · exact (State.consume_kept ..).trans (State.setCtx_kept ..)
      · exact (State.consume_kept ..).trans (State.beginCkpt_kept ..)
  · split
    · exact refused_kept ..
    · exact .refl s
  · exact .refl s

theorem execCheckpointComplete_kept (c : CtxIdx) (s : State) : KeptNext s (execCheckpointComplete c s) := by
  refine .unless ?_
  split
  · refine Kept.trans ?_ (State.nextCkpt_kept ..)
    refine Kept.trans ?_ (State.endEntry_kept ..)
    exact Kept.trans (.ite (.refl s) (State.hostDone_kept ..)) (State.setCtx_kept ..)
  · exact State.hostDone_kept ..

theorem execPause_kept (c : CtxIdx) (s : State) : KeptNext s (execPause c s) := by
  refine .next ?_
  split
  · exact .refl s
  · split
    · exact refused_kept ..
    · exact (((State.consume_kept ..).trans (State.holdCtx_kept ..)).trans (State.endEntry_kept ..)).trans (State.scanRing_kept ..)

theorem execResume_kept (c : CtxIdx) (s : State) : KeptNext s (execResume c s) := by
  refine .next ?_
  split
  · exact .refl s
  · dsimp only
    split
    · exact refused_kept ..
    · refine Kept.trans ?_ (State.tryStart_kept ..)
      exact (((State.consume_kept ..).trans (State.setCtx_kept ..)).trans (State.endEntry_kept ..)).trans (State.scanRing_kept ..)

theorem execAbort_kept (c : CtxIdx) (now : Bool) (tag : BitVec 32) (s : State) : KeptNext s (execAbort c now tag s) :=
  .unless (.ite (State.setCtx_kept ..) ((State.setCtx_kept ..).trans (State.abortReq_kept ..)))

theorem execCxlCompletionTimeout_kept (c : CtxIdx) (s : State) : KeptNext s (execCxlCompletionTimeout c s) := by
  refine .ite (.same s) (.ite (execProducerLineRead_kept ..) ?_)
  have hdone : KeptNext s (.next (s.hostDone c)) := .next (State.hostDone_kept ..)
  split
  · exact .ite hdone (execLoadComplete_kept ..)
  · exact .ite hdone (execRestoreComplete_kept ..)
  · split
    · exact execStepInputRead_kept ..
    · exact hdone
  · exact hdone

theorem execCxlLinkTrained_kept (rate : BitVec 2) (narrow : Bool) (s : State) : KeptNext s (execCxlLinkTrained rate narrow s) := by
  have h1 : Kept s { s with boot := { s.boot with cxlUp := true }, host := { s.host with rate := rate, narrow := narrow, reissue := false } } :=
    (Kept.refl s).updEq rfl rfl rfl rfl rfl rfl rfl rfl
  refine .unless (.ite h1 (h1.trans (Kept.foldl_steps _ _ fun u c => ?_)))
  refine Kept.trans (Kept.trans (Kept.trans (.ite ?_ ?_) (State.flush_kept ..)) (State.readLine_kept ..)) (State.tryStart_kept ..)
  · exact Kept.trans (.ite (State.reissueCtx_kept ..) (.refl u)) (State.writeConsumer_kept ..)
  · exact .ite (State.reissueCtx_kept ..) (.refl u)

/-! ## Power and bring-up -/

theorem execResetRecognised_kept (us : BitVec 16) (s : State) : KeptNext s (execResetRecognised us s) := by
  refine .unless ?_
  split
  next heq =>
    have h := State.filtered_keptP heq
    exact .ite ((h.trans (State.withPwr_kept ..)).trans (State.enterReset_kept ..)) h

theorem execResetLRelease_kept (us : BitVec 16) (s : State) : KeptNext s (execResetLRelease us s) := by
  refine .unless ?_
  split
  next heq =>
    have h := State.filtered_keptP heq
    exact .ite ((h.trans (State.withPwr_kept ..)).trans (State.tryBringUp_kept ..)) h

theorem execBoardPwrgd_kept (level : Bool) (us : BitVec 16) (s : State) : KeptNext s (execBoardPwrgd level us s) := by
  refine .unless ?_
  split
  next heq =>
    have h := State.filtered_keptP heq
    have h1 := h.trans (State.withPwr_kept _ { State.pwr _ with boardPwrgd := level })
    exact .ite h (.ite (h1.trans (State.tryBringUp_kept ..)) (h1.trans (State.losePower_kept ..)))

theorem railsLost_kept (s : State) (p : Power) (h : p.capCeiling = s.pwr.capCeiling) : Kept s (({ s with pwr := p } : State).losePower) :=
  (State.withPwr_kept s p h).trans (State.losePower_kept ..)

theorem execInputInvalid_kept (mv : BitVec 17) (us : BitVec 32) (s : State) : KeptNext s (execInputInvalid mv us s) := by
  have h1 (c : Prop) [Decidable c] : Kept s (if c then ({ s with pwr := { s.pwr with railsValid := false } } : State).losePower else s) :=
    .ite (railsLost_kept _ _ rfl) (.refl s)
  exact .next (.ite ((h1 _).trans (State.withPwr_kept ..)) (h1 _))

theorem execThermalSensorRead_kept (dies packages : List (BitVec 8)) (s : State) :
    KeptNext s (execThermalSensorRead dies packages s) :=
  .unless (.ite (railsLost_kept _ _ rfl) (.ite (.refl s) (State.withPwr_kept ..)))

theorem execGovernorWindow_kept (watts : BitVec 16) (tj : BitVec 8) (s : State) : KeptNext s (execGovernorWindow watts tj s) := by
  refine .unless ?_
  dsimp only
  exact ((State.meanPower_kept ..).trans (State.withPwr_kept ..)).trans (State.govern_kept ..)

theorem execPowerCapEffecter_kept (watts : BitVec 16) (s : State) : KeptNext s (execPowerCapEffecter watts s) :=
  .unless (.ite (State.withPwr_kept ..) ((State.takeFree_kept ..).trans (State.withPwr_kept ..)))

theorem clampNat_mem (v : Nat) {lo hi : Nat} (h : lo ≤ hi) : lo ≤ clampNat v lo hi ∧ clampNat v lo hi ≤ hi := by
  simp only [clampNat]
  omega

theorem execCapCeilingWrite_kept (watts : BitVec 16) (s : State) : KeptNext s (execCapCeilingWrite watts s) := by
  refine .unless (Kept.ranged rfl rfl rfl fun h => ?_)
  obtain ⟨hlo, hhi⟩ := clampNat_mem watts.toNat (lo := 500) (hi := 2800) (by decide)
  have hval : (BitVec.ofNat 16 (clampNat watts.toNat 500 2800)).toNat = clampNat watts.toNat 500 2800 := by
    rw [BitVec.toNat_ofNat, Nat.mod_eq_of_lt (by omega)]
  simp only [State.rangesHeld, Bool.and_eq_true, decide_eq_true_eq, hval] at h ⊢
  exact ⟨⟨h.1.1, hlo⟩, hhi⟩

theorem execContainLogWrite_kept (ok : Bool) (s : State) : KeptNext s (execContainLogWrite ok s) := by
  refine .unless (.ite ?_ ?_)
  · exact (State.withErr_kept ..).trans (State.raise_kept ..)
  · exact (State.withErr_kept ..).trans (State.withFlash_kept ..)

/-- Bring-up step 6 clears module memory, whatever it held. -/
theorem clearedMemory_kept (s : State) (b : Boot) : Kept s { s with mem := { s.mem with cells := [], initDone := true }, boot := b } :=
  ⟨rfl, fun h => ⟨h, Fuses.keeps_refl _⟩, id, fun _ => rfl⟩

theorem execBringUpStepDone_kept (order : BitVec 4) (result : StepResult) (faults : List SelfCheckFault) (s : State) :
    KeptNext s (execBringUpStepDone order result faults s) := by
  refine .unless ?_
  have hfail (a b : Nat) : Kept s (s.failStart a b) := State.failStart_kept ..
  cases result with
  | failed d => exact .ite (hfail ..) (.ite (hfail ..) (.ite (hfail ..) (.ite (hfail ..) (hfail ..))))
  | done =>
    refine .ite (.ite ?_ (hfail ..)) (.ite (State.bootStep3_kept ..) (.ite (State.bootStep4_kept ..) (.ite (clearedMemory_kept ..) ?_)))
    · exact ((State.sensePins_kept ..).trans (State.applyFuseRepairs_kept ..)).trans (State.bootStep2_kept ..)
    · exact (State.selfCheck_kept ..).trans (State.withBoot_kept ..)

theorem execReady_kept (s : State) : KeptNext s (execReady s) := by
  have h := (State.withBoot_kept s { s.boot with mode := 1 }).trans (State.noteStart_kept _ .clear)
  exact .unless (.ite ((h.trans (State.withErr_kept ..)).trans (State.raise_kept ..)) h)

theorem execRemoteWaitLong_kept (t : TorIdx) (s : State) : KeptNext s (execRemoteWaitLong t s) :=
  .when (State.raise_kept ..)

/-! ## The dump and the register file -/

theorem execDumpBlockAnswer_kept (record : List Byte) (s : State) : KeptNext s (execDumpBlockAnswer record s) := by
  have h := State.dumpPassHung_kept s
  refine .next (.ite h (Kept.trans (Kept.trans (.ite ?_ ?_) (State.dumpNote_kept ..)) (State.dumpPassHung_kept ..)))
  · exact (h.trans (State.dumpSuspect_kept ..)).trans (State.withDmp_kept ..)
  · exact ((h.trans (State.dumpSuspect_kept ..)).trans (State.withDmp_kept ..)).trans (State.writeDump_kept ..)

theorem execDumpBlockLimit_kept (s : State) : KeptNext s (execDumpBlockLimit s) := by
  have h := State.dumpPassHung_kept s
  exact .next (.ite ((h.trans (State.dumpNote_kept ..)).trans (State.dumpPassHung_kept ..)) h)

theorem execDumpDeadline_kept (s : State) : KeptNext s (execDumpDeadline s) := by
  have h := State.dumpPassHung_kept s
  exact .next (.ite h ((h.trans (State.withDmp_kept ..)).trans (State.dumpFinish_kept ..)))

theorem execRegisterWrite_kept (who : Requester) (o : BitVec 26) (n : BitVec 13) (v : RegWrite) (s : State) :
    KeptNext s (execRegisterWrite who o n v s) := by
  refine .unless (.ite (State.countAccess_kept ..) (.ite (.refl s) (.ite ?_ (.ite (State.writeCtx_kept ..) ?_))))
  · exact .ite (State.writeW1c_kept ..) (.ite (State.writeWindow_kept ..) (State.countAccess_kept ..))
  · exact (State.writeFields_kept ..).trans (State.writeW1c_kept ..)

theorem execRegisterRead_kept (o : BitVec 26) (n : BitVec 13) (s : State) : KeptNext s (execRegisterRead o n s) := by
  refine .unless (.ite (.ite (State.emit_kept ..) (State.emit_kept ..)) (.ite (State.standardRead_kept ..) (.ite (State.emit_kept ..) ?_)))
  exact (State.accessError_kept ..).trans (State.emit_kept ..)

/-! ## Management and security -/

theorem execSetdasaEntdaa_kept (target : I3cTarget) (kind : I3cAssign) (addr : BitVec 7) (s : State) :
    KeptNext s (execSetdasaEntdaa target kind addr s) := by
  refine .unless ?_
  split
  · exact State.withMgt_kept ..
  · exact State.withMgt_kept ..
  · exact .refl s

theorem execMctpControl_kept (m : MctpCtl) (s : State) : KeptNext s (execMctpControl m s) := by
  refine .unless ?_
  cases m with
  | setEndpointId => exact (State.withMgt_kept ..).trans (State.say_kept ..)
  | getEndpointId => exact State.say_kept ..
  | getVersionSupport => exact (State.takeFree_kept ..).trans (State.say_kept ..)
  | getMessageTypeSupport => exact State.say_kept ..

theorem execPollForPlatformEventMessage_kept (s : State) : KeptNext s (execPollForPlatformEventMessage s) := by
  refine .unless ?_
  split
  · exact State.emit_kept ..
  · exact ((State.withMgt_kept ..).trans (State.emit_kept ..)).trans (State.sendHead_kept ..)

theorem execEventAcknowledge_kept (seq : BitVec 32) (s : State) : KeptNext s (execEventAcknowledge seq s) := by
  refine .unless ?_
  split
  · exact .ite ((State.withMgt_kept ..).trans (State.sendHead_kept ..)) (.refl s)
  · exact .refl s

theorem execReadStepRecord_kept (c : CtxIdx) (seq : BitVec 64) (s : State) : KeptNext s (execReadStepRecord c seq s) := by
  refine .unless (.ite (State.refuseCmd_kept ..) ?_)
  dsimp only
  split
  · exact State.refuseCmd_kept ..
  · refine .ite (State.refuseCmd_kept ..) ?_
    split
    next heq => exact (State.readBursts_keptP heq).trans (State.say_kept ..)
    next heq => exact (State.readBursts_keptP heq).trans (State.refuseCmd_kept ..)

theorem execWriteOptionBytes_kept (copy : List Byte) (s : State) : KeptNext s (execWriteOptionBytes copy s) :=
  .unless (.ite (State.refuseCmd_kept ..) (Kept.trans (.ite (State.withFlash_kept ..) (State.withFlash_kept ..)) (State.say_kept ..)))

theorem execManagementClear_kept (scope : BitVec 3) (s : State) : KeptNext s (execManagementClear scope s) := by
  have h0 (c d : Prop) [Decidable c] [Decidable d] :
      Kept s (if c then (if d then (s.noteStart .clear).raise 0x33 0 else s.noteStart .clear) else s) :=
    .ite (.ite ((State.noteStart_kept ..).trans (State.raise_kept ..)) (State.noteStart_kept ..)) (.refl s)
  refine .unless (Kept.trans ?_ (State.say_kept ..))
  refine .ite (Kept.trans (.ite ?_ ?_) (State.withCrn_kept ..)) (.ite ?_ ?_)
  · exact (h0 _ _).trans (State.withFlashErr_kept ..)
  · exact h0 _ _
  · exact (h0 _ _).trans (State.withFlashErr_kept ..)
  · exact h0 _ _

theorem slot_toNat_ne_zero {slot : BitVec 2} (h : slot ≠ 0) : slot.toNat ≠ 0 := fun e => h (BitVec.eq_of_toNat_eq e)

theorem execEnrolKey_kept (slot : BitVec 2) (key : List Byte) (debug : Bool) (signer : BitVec 2) (sig : List Byte) (s : State) :
    KeptNext s (execEnrolKey slot key debug signer sig s) := by
  refine .unless (.ite (State.refuseCmd_kept ..) (.ite (State.refuseCmd_kept ..) ?_))
  dsimp only
  split
  · exact State.refuseCmd_kept ..
  next h =>
    obtain ⟨hslot, henrolled, hrevoked⟩ : slot ≠ 0 ∧ (nth {} s.fuses.keys slot.toNat).enrolled = false ∧
        (nth {} s.fuses.keys slot.toNat).revoked = false := by simpa using h
    exact (State.setKey_kept _ _ _ (slot_toNat_ne_zero hslot) (by simp [keyKeeps, henrolled, hrevoked])).trans (State.say_kept ..)

theorem execRevokeKey_kept (slot signer : BitVec 2) (sig : List Byte) (s : State) : KeptNext s (execRevokeKey slot signer sig s) := by
  refine .unless (.ite (State.refuseCmd_kept ..) (.ite (State.refuseCmd_kept ..) ?_))
  split
  · exact State.refuseCmd_kept ..
  next h =>
    have hkeeps (k : KeySlot) : keyKeeps (k, { k with revoked := true }) = true := by
      simp only [keyKeeps]
      cases k.enrolled <;> cases k.revoked <;> cases k.debug <;> rfl
    exact (State.setKey_kept _ _ _ (slot_toNat_ne_zero h) (hkeeps _)).trans (State.say_kept ..)

/-- A security version above the burned one is burned. -/
theorem burnedSvn_kept (s : State) {v : BitVec 8} (h : s.fuses.svn.toNat ≤ v.toNat) : Kept s { s with fuses := { s.fuses with svn := v } } :=
  ⟨rfl, fun h0 => ⟨h0, by simp [Fuses.keeps, keysKeep_refl, h]⟩, id, id⟩

theorem execCommitSvn_kept (s : State) : KeptNext s (execCommitSvn s) := by
  refine .unless ?_
  split
  · exact State.refuseCmd_kept ..
  next h =>
    have hlt : s.fuses.svn.toNat ≤ s.boot.runSvn.toNat := by
      simp only [Bool.or_eq_true, decide_eq_true_eq, not_or] at h
      omega
    exact ((burnedSvn_kept s hlt).trans (State.raise_kept ..)).trans (State.say_kept ..)

/-- An answer after an update of the management block, or a refusal. -/
theorem saidMgt_kept (s : State) (m : Mgmt) (what : String) (data : List Byte) : Kept s (({ s with mgt := m } : State).say what data) :=
  (State.withMgt_kept ..).trans (State.say_kept ..)

theorem saidSec_kept (s : State) (x : Security) (what : String) (data : List Byte) : Kept s (({ s with sec := x } : State).say what data) :=
  (State.withSec_kept ..).trans (State.say_kept ..)

theorem saidHost_kept (s : State) (h : HostPort) (what : String) (data : List Byte) : Kept s (({ s with host := h } : State).say what data) :=
  (State.withHost_kept ..).trans (State.say_kept ..)

theorem execComponentWrite_kept (c : Component) (bytes : List Byte) (s : State) : KeptNext s (execComponentWrite c bytes s) := by
  refine .unless (.ite (State.refuseCmd_kept ..) (.ite (State.refuseCmd_kept ..) ?_))
  cases c with
  | firmware => exact (State.withMgt_kept ..).trans (State.writeSlot_kept ..)
  | wihorn => exact (State.withMgt_kept ..).trans (State.writeSlot_kept ..)

theorem execVerifyComplete_kept (c : Component) (s : State) : KeptNext s (execVerifyComplete c s) := by
  refine .unless ?_
  split
  · exact State.refuseCmd_kept ..
  · refine .ite (Kept.trans (.ite ?_ (.refl s)) (State.say_kept ..)) ((State.writeSlot_kept ..).trans (State.say_kept ..))
    exact (State.noteStart_kept ..).trans (State.raise_kept ..)

theorem execFinish_kept (session : BitVec 16) (verified : Bool) (s : State) : KeptNext s (execFinish session verified s) :=
  .unless (.ite (State.refuseCmd_kept ..) (.ite (saidSec_kept ..) ((State.withSec_kept ..).trans (State.refuseCmd_kept ..))))

theorem execContextKeyRequest_kept (session : Option (BitVec 16)) (c : CtxIdx) (key : Option (BitVec 256)) (s : State) :
    KeptNext s (execContextKeyRequest session c key s) :=
  .unless (.ite ((State.setCtx_kept ..).trans (State.say_kept ..)) (State.refuseCmd_kept ..))

theorem execCxlIdeKm_kept (session : Option (BitVec 16)) (op : IdeOp) (s : State) : KeptNext s (execCxlIdeKm session op s) := by
  refine .unless (.ite (State.refuseCmd_kept ..) ?_)
  cases op with
  | keyProg => exact saidHost_kept ..
  | keyGo => exact .ite (saidHost_kept ..) (State.refuseCmd_kept ..)
  | keyStop => exact saidHost_kept ..

theorem execExtest_kept (pin : FusePin) (code : BitVec 3) (s : State) : KeptNext s (execExtest pin code s) := by
  have h := State.withPwr_kept s { s.pwr with extest := true }
  refine .unless (.ite (State.refuseCmd_kept ..) (.ite (h.trans (State.withPwr_kept ..)) ?_))
  exact (h.trans (State.withMgt_kept ..)).trans (State.raiseBlocked_kept ..)

/-- A free value is taken, a part of the security block set, and the answer given. -/
theorem saidFree_kept (s : State) (w : Nat) (x : Security) (what : String) (data : List Byte) :
    Kept s (({ (s.endExtest.takeFree w).2 with sec := x } : State).say what data) :=
  ((State.endExtest_kept ..).trans (State.takeFree_kept ..)).trans (saidSec_kept ..)

theorem execDebugOpening_kept (slot : BitVec 2) (sig : List Byte) (s : State) : KeptNext s (execDebugOpening slot sig s) := by
  have h := State.endExtest_kept s
  refine .unless (.ite (h.trans (State.refuseCmd_kept ..)) (.ite (h.trans (State.refuseCmd_kept ..)) ?_))
  exact h.trans (State.openDebug_kept ..)

theorem execDebugAccess_kept (target : DebugTarget) (s : State) : KeptNext s (execDebugAccess target s) := by
  have h := State.endExtest_kept s
  refine .ite (.same s) (.ite (.next (State.refuseCmd_kept ..)) ?_)
  cases target with
  | scan => exact .next ((h.trans (State.takeFree_kept ..)).trans (State.say_kept ..))
  | processor => exact .next ((h.trans (State.takeFree_kept ..)).trans (State.say_kept ..))
  | memRead a =>
    refine .ite (.fault ..) ?_
    have hread := h.trans (State.moduleRead_kept s.endExtest a.toNat 8)
    dsimp only
    split
    · exact .next (hread.trans (State.say_kept ..))
    · exact .next (hread.trans (State.say_kept ..))
    · exact .next (hread.trans (State.say_kept ..))
  | memWrite => exact .ite (.fault ..) (.ite (.next (h.trans (State.refuseCmd_kept ..))) (.next (h.trans (State.writeBurst_kept ..))))
  | keyStore => exact .next (h.trans (State.refuseCmd_kept ..))
  | cryptoEngine => exact .next (h.trans (State.refuseCmd_kept ..))
  | fuseEngine =>
    exact .next (((h.trans (State.withMgt_kept ..)).trans (State.raiseBlocked_kept ..)).trans (State.refuseCmd_kept ..))

/-! ## Every command -/

/-- Every command keeps the queue, the burned fuses, the held ranges and the form of memory. -/
theorem exec_kept (i : Instr) (s : State) : KeptNext s (exec i s) := by
  cases i with
  | railsValid => exact .unless ((State.withPwr_kept ..).trans (State.tryBringUp_kept ..))
  | railOutOfLimits => exact .next (railsLost_kept _ _ rfl)
  | inputInvalid => exact execInputInvalid_kept ..
  | boardPwrgd => exact execBoardPwrgd_kept ..
  | resetRecognised => exact execResetRecognised_kept ..
  | resetLRelease => exact execResetLRelease_kept ..
  | ready => exact execReady_kept ..
  | refclkLoss => exact .unless ((State.withPwr_kept ..).trans (State.moduleCause_kept ..))
  | thermalSensorRead => exact execThermalSensorRead_kept ..
  | governorWindow => exact execGovernorWindow_kept ..
  | powerCapEffecter => exact execPowerCapEffecter_kept ..
  | capCeilingWrite => exact execCapCeilingWrite_kept ..
  | setdasaEntdaa => exact execSetdasaEntdaa_kept ..
  | registerWrite => exact execRegisterWrite_kept ..
  | stage => exact .when (State.stageImage_kept ..)
  | discard => exact .when (State.discardImage_kept ..)
  | imageCheckDone => exact execImageCheckDone_kept ..
  | nop => exact .next (State.issue_kept ..)
  | loop => exact .word (State.issueJump_kept ..)
  | skipb => exact execSkipb_kept ..
  | call => exact .next (State.issueJump_kept ..)
  | ret => exact execRet_kept ..
  | tmm => exact .word (State.tileWord_kept ..)
  | tconv => exact .word (State.tileWord_kept ..)
  | tilePassStart => exact execTilePassStart_kept ..
  | tilePassEnd => exact execTilePassEnd_kept ..
  | drainRelease => exact execDrainRelease_kept ..
  | vadd => exact vectorWord_kept ..
  | vsub => exact vectorWord_kept ..
  | vmul => exact vectorWord_kept ..
  | vfma => exact vectorWord_kept ..
  | vmin => exact vectorWord_kept ..
  | vmax => exact vectorWord_kept ..
  | vcmp => exact execVcmp_kept ..
  | vdiv => exact vectorWord_kept ..
  | vsqrt => exact vectorWord_kept ..
  | vrcp => exact .ite (.refused ..) (vectorWord_kept ..)
  | vrsq => exact .ite (.refused ..) (vectorWord_kept ..)
  | vcvt => exact .word (State.vector_kept ..)
  | vred => exact .word (State.issue_kept ..)
  | vdrop => exact .word (State.issue_kept ..)
  | vrand => exact .next (State.issue_kept ..)
  | vfpf => exact .next (State.issue_kept ..)
  | vld => exact execVld_kept ..
  | vst => exact execVst_kept ..
  | vbcast => exact .next (State.issue_kept ..)
  | smovi => exact .next (State.issue_kept ..)
  | sadd => exact .next (State.scalar_kept ..)
  | ssub => exact .next (State.scalar_kept ..)
  | smul => exact .next (State.scalar_kept ..)
  | sand => exact .next (State.scalar_kept ..)
  | sor => exact .next (State.scalar_kept ..)
  | sxor => exact .next (State.scalar_kept ..)
  | sshl => exact .next (State.scalar_kept ..)
  | sasr => exact .next (State.scalar_kept ..)
  | pmov => exact .word (State.issue_kept ..)
  | pand => exact .word (State.predicate_kept ..)
  | por => exact .word (State.predicate_kept ..)
  | pnot => exact .word (State.predicate_kept ..)
  | qnt => exact .next (State.convWord_kept ..)
  | deq => exact execDeq_kept ..
  | rotq => exact .next (State.convWord_kept ..)
  | wait => exact execWait_kept ..
  | signal => exact .word (State.issueWide_kept _ _ _ _ fun _ _ => laterWord_kept ..)
  | ldq => exact execLdq_kept ..
  | drq => exact execDrq_kept ..
  | hand => exact .next (State.issueWide_kept _ _ _ _ fun _ _ => laterWord_kept ..)
  | nchk => exact execNchk_kept ..
  | alt => exact execAlt_kept ..
  | settle => exact execSettle_kept ..
  | cairn => exact execCairn_kept ..
  | ceilingReport => exact execCeilingReport_kept ..
  | stormVerdict => exact execStormVerdict_kept ..
  | memoryRequest => exact execMemoryRequest_kept ..
  | subchannelGrant => exact .when (State.grant_kept ..)
  | memoryReadDone => exact .when (State.readDone_kept ..)
  | slotMerge => exact execSlotMerge_kept ..
  | scrubRequest => exact execScrubRequest_kept ..
  | hostMemRead => exact execHostMemRead_kept ..
  | hostMemWrite => exact .next (State.hostWrite_kept ..)
  | hostMemPartialWrite => exact execHostMemPartialWrite_kept ..
  | hostMemPoisonWrite => exact .next (State.hostWrite_kept ..)
  | bisnpResponse => exact execBisnpResponse_kept ..
  | snpinv => exact .ite (.same s) (.next (dropLine_afterSnoop_kept ..))
  | snpdata => exact .ite (.same s) (.next (dropLine_afterSnoop_kept ..))
  | snpcur => exact .ite (.same s) (.next (State.emit_kept ..))
  | producerLineRead => exact execProducerLineRead_kept ..
  | linkTrainingDone => exact execLinkTrainingDone_kept ..
  | packetReceive => exact execPacketReceive_kept ..
  | controlFrame => exact execControlFrame_kept ..
  | controlFrameSend => exact .unless (State.emit_kept ..)
  | retryTimeout => exact .when (State.goBack_kept ..)
  | laneLockLoss => exact .when (State.dropPort_kept ..)
  | controlFrameTimeout => exact .when (State.dropPort_kept ..)
  | portRetrain => exact .when (State.retrain_kept ..)
  | claimSend => exact .when (State.sendClaim_kept ..)
  | claim => exact execClaim_kept ..
  | discoveryTimeout => exact .when ((State.portMissing_kept ..).trans (State.portChanged_kept ..))
  | rangeMap => exact .when ((State.withLinks_kept ..).trans (State.linkCheck_kept ..))
  | rediscover => exact .next (State.rediscover_kept ..)
  | flowAck => exact execFlowAck_kept ..
  | flowAckSend => exact .unless (State.sendFlowAck_kept ..)
  | coll => exact .when (fed_kept _ (State.recvColl_kept ..))
  | updateBlock => exact .when (State.updateBlock_kept ..)
  | requantise => exact .when (State.requantGroup_kept ..)
  | gather => exact .when (fed_kept _ (State.recvGather_kept ..))
  | token => exact execToken_kept ..
  | fetchReq => exact execFetchReq_kept ..
  | fetchData c addr plane bursts => exact execFetchData_kept c addr plane bursts s
  | failedChunk => exact .when (fed_kept _ (State.recvFailedChunk_kept ..))
  | stateCopy => exact execStateCopy_kept ..
  | belay => exact execBelay_kept ..
  | heartbeatSend => exact .unless (State.tellSlots_kept ..)
  | heartbeat => exact .when (State.withCrn_kept ..)
  | hbTimeout => exact .when ((State.suspect_kept ..).trans (State.gatherAll_kept ..))
  | reportTimeout => exact .when ((State.suspect_kept ..).trans (State.gatherAll_kept ..))
  | propose => exact .when ((State.declareSlot_kept ..).trans (State.gatherAll_kept ..))
  | withdraw => exact execWithdraw_kept ..
  | joinSend => exact .when (State.tellSlots_kept ..)
  | join => exact .when (State.holdJoin_kept ..)
  | cairnReportOpen => exact execCairnReportOpen_kept ..
  | cairnPacket => exact execCairnPacket_kept ..
  | cairnTimeout => exact .when ((State.withCrn_kept ..).trans (State.raise_kept ..))
  | cairnInstant => exact execCairnInstant_kept ..
  | hangTimeout =>
    exact .unless (.ite (State.secondHang_kept ..) ((State.noteHang_kept ..).trans (State.moduleCause_kept ..)))
  | remoteWaitLong => exact execRemoteWaitLong_kept ..
  | containLogWrite => exact execContainLogWrite_kept ..
  | dumpBlockAnswer => exact execDumpBlockAnswer_kept ..
  | dumpBlockLimit => exact execDumpBlockLimit_kept ..
  | dumpDeadline => exact execDumpDeadline_kept ..
  | dumpWriteTimeout => exact .when (State.withDmp_kept ..)
  | blockReset => exact .unless (.ite (State.accessError_kept ..) ((State.withErr_kept ..).trans (State.goBlock_kept ..)))
  | blockResetDone => exact .unless (State.withErr_kept ..)
  | cxlReset => exact .when (State.resetCxl_kept ..)
  | hdmDecoderCommit => exact .when (State.withHost_kept ..)
  | ctxRingWrite => exact .when (State.ringWrite_kept ..)
  | load => exact execLoad_kept ..
  | loadComplete => exact execLoadComplete_kept ..
  | restore => exact execRestore_kept ..
  | restoreComplete => exact execRestoreComplete_kept ..
  | start => exact execStart_kept ..
  | step => exact execStep_kept ..
  | stepInputRead => exact execStepInputRead_kept ..
  | checkpoint => exact execCheckpoint_kept ..
  | checkpointComplete => exact execCheckpointComplete_kept ..
  | pause => exact execPause_kept ..
  | resume => exact execResume_kept ..
  | abort => exact execAbort_kept ..
  | teardown => exact .when ((State.teardownStart_kept ..).trans (State.onIdle_kept ..))
  | teardownDrained => exact .when ((State.teardownScrub_kept ..).trans (State.resetFlows_kept ..))
  | teardownScrubDone => exact .when (State.teardownEnd_kept ..)
  | mctpControl => exact execMctpControl_kept ..
  | getSensorReading => exact .unless ((State.sensor_kept ..).trans (State.say_kept ..))
  | setEventReceiver => exact .when ((State.withMgt_kept ..).trans (State.sendHead_kept ..))
  | pollForPlatformEventMessage => exact execPollForPlatformEventMessage_kept ..
  | eventAcknowledge => exact execEventAcknowledge_kept ..
  | readMoraine => exact .unless (.ite (State.refuseCmd_kept ..) (State.say_kept ..))
  | readShapeTable => exact .unless (.ite (State.refuseCmd_kept ..) (State.say_kept ..))
  | readStepRecord => exact execReadStepRecord_kept ..
  | writeOptionBytes => exact execWriteOptionBytes_kept ..
  | managementClear => exact execManagementClear_kept ..
  | enrolKey => exact execEnrolKey_kept ..
  | revokeKey => exact execRevokeKey_kept ..
  | commitSvn => exact execCommitSvn_kept ..
  | requestUpdate => exact .unless (.ite (State.refuseCmd_kept ..) (saidMgt_kept ..))
  | componentWrite => exact execComponentWrite_kept ..
  | verifyComplete => exact execVerifyComplete_kept ..
  | activateFirmware => exact .unless (.ite (State.refuseCmd_kept ..) (saidMgt_kept ..))
  | getVersion => exact .unless (saidSec_kept ..)
  | getCapabilities => exact .unless (.ite (State.refuseCmd_kept ..) (saidSec_kept ..))
  | negotiateAlgorithms => exact .unless (.ite (State.refuseCmd_kept ..) (saidSec_kept ..))
  | getCertificate => exact .unless (.ite (State.refuseCmd_kept ..) (State.say_kept ..))
  | challenge => exact .unless (.ite (State.refuseCmd_kept ..) (State.signed_kept ..))
  | getMeasurements => exact .unless (.ite (State.refuseCmd_kept ..) (State.signed_kept ..))
  | keyExchange => exact .unless (.ite (State.refuseCmd_kept ..) ((State.withSec_kept ..).trans (State.signed_kept ..)))
  | finish => exact execFinish_kept ..
  | heartbeatSpdm => exact .unless (.ite (State.say_kept ..) (State.refuseCmd_kept ..))
  | keyUpdate => exact .unless (.ite (State.refuseCmd_kept ..) (saidSec_kept ..))
  | endSession => exact .unless (.ite (State.refuseCmd_kept ..) (saidSec_kept ..))
  | contextKeyRequest => exact execContextKeyRequest_kept ..
  | cxlIdeKm => exact execCxlIdeKm_kept ..
  | bypass => exact .when ((State.endExtest_kept ..).trans (State.say_kept ..))
  | idcode => exact .when ((State.endExtest_kept ..).trans (State.say_kept ..))
  | samplePreload => exact .unless (saidFree_kept ..)
  | extest => exact execExtest_kept ..
  | debugChallengeRead => exact .unless (saidFree_kept ..)
  | debugOpening => exact execDebugOpening_kept ..
  | wave => exact execWave_kept ..
  | uncorrectableCodeword => exact execUncorrectableCodeword_kept ..
  | cxlLinkTrained => exact execCxlLinkTrained_kept ..
  | configurationRequest => exact .unless (.ite (State.emit_kept ..) (State.emit_kept ..))
  | registerRead => exact execRegisterRead_kept ..
  | cxlCompletionTimeout => exact execCxlCompletionTimeout_kept ..
  | bringUpStepDone => exact execBringUpStepDone_kept ..
  | pldmDiscovery => exact .when (State.say_kept ..)
  | debugAccess => exact execDebugAccess_kept ..

/-- A step keeps all that `exec` keeps, with the queue one command shorter. -/
theorem step_kept {s s' : State} (h : step s = .next s') : Kept { s with pending := s.pending.drop 1 } s' := by
  unfold step at h
  split at h
  next hq =>
    cases h
    have hs : { s with pending := s.pending.drop 1 } = s := by
      rw [hq]
      exact congrArg (fun q => { s with pending := q }) hq.symm
    rw [hs]
    exact State.tick_kept s
  next c rest hq =>
    rw [hq]
    exact (exec_kept c _).kept s' h

end Sys2Proof.Machine

open Sys2Proof Sys2Proof.Machine

/-- Settles O57: no command unblows a fuse (`exec_kept`), and the queue holds no fuse. -/
theorem everyStepKeepsFuses : Obligations.EveryStepKeepsFuses := fun _ _ h0 h => (step_kept h).fuses h0

/-- Settles O58: every command keeps the held ranges (`exec_kept`). -/
theorem everyStepKeepsRanges : Obligations.EveryStepKeepsRanges := fun _ _ h0 h => (step_kept h).ranges h0

/-- Settles O60: every write of memory keeps its form, and so does every command (`exec_kept`). -/
theorem everyStepKeepsMemoryForm : Obligations.EveryStepKeepsMemoryForm := fun _ _ h0 h => (step_kept h).mem h0

/-- Settles O59: no command touches the queue (`exec_kept`), of which the step drops the front. -/
theorem everyStepDropsOneCommand : Obligations.EveryStepDropsOneCommand := fun _ _ h => (step_kept h).pending

end

section
/-! O1 to O5: tor words. A tor that is issuing acts on the word that its stream holds next; one lemma per way of issuing
says what `exec` then does, and the words are read off from it. The registers of a tor are lists of what was written, so a
write is seen by the reads of its register alone. -/

namespace Sys2Proof.Machine
open Sys2Proof

/-- Two branchings on equivalent conditions agree where their branches do. -/
theorem ite_eq_ite_of_iff {α : Type} {p q : Prop} [Decidable p] [Decidable q] {a b c d : α} (h : p ↔ q) (hac : a = c) (hbd : b = d) :
    (if p then a else b) = if q then c else d := by
  simp only [h, hac, hbd]

/-! ## Who issues -/

theorem State.issuing_runner {s : State} {t : TorIdx} {c : CtxIdx} (h : s.issuing t c) : s.runner t = some c := h.1

/-- A tor's runner is its context, which runs while every block works. -/
theorem State.runner_eq_some {s : State} {t : TorIdx} {c : CtxIdx} (h : s.runner t = some c) :
    s.live = true ∧ s.torUsable t = true ∧ s.torCtx t = some c ∧ (s.ctx c).state = 3 := by
  unfold State.runner at h
  split at h
  · cases h
  next hlive =>
    split at h
    · split at h
      · cases h
        simp_all
      · cases h
    · cases h

/-- On an issuing tor the next word has an issuer. -/
theorem State.issuer_of_issuing {s : State} {t : TorIdx} {c : CtxIdx} {w : BitVec 128} (h : s.issuing t c)
    (hw : s.asks c t w = true) : s.issuer t w = some c := by
  obtain ⟨hrun, hstate, hstop, -, -⟩ := h
  obtain ⟨hlive, husable, hctx, hrunning⟩ := State.runner_eq_some hrun
  simp [State.issuer, hlive, husable, hstop, hstate, hctx, hrunning, hw]

/-- A word that no context asks for has no issuer. -/
theorem State.issuer_of_unasked {s : State} {t : TorIdx} {w : BitVec 128} (h : ∀ c, s.asks c t w = false) :
    s.issuer t w = none := by
  unfold State.issuer
  dsimp only
  split
  · rfl
  · split
    · simp [h]
    · rfl

theorem State.issue_of_issuing {s : State} {t : TorIdx} {c : CtxIdx} {w : BitVec 128} (h : s.issuing t c)
    (hw : s.asks c t w = true) (f : CtxIdx → Tor → Tor) : s.issue t w f = s.setTor t (f c (s.tor t)).next := by
  simp [State.issue, State.issuer_of_issuing h hw, h.2.2.2.1, h.2.2.2.2]

theorem State.issueJump_of_issuing {s : State} {t : TorIdx} {c : CtxIdx} {w : BitVec 128} (h : s.issuing t c)
    (hw : s.asks c t w = true) (f : CtxIdx → Tor → Tor) : s.issueJump t w f = s.setTor t (f c (s.tor t)) := by
  simp [State.issueJump, State.issuer_of_issuing h hw, h.2.2.2.1, h.2.2.2.2]

theorem State.issueWide_of_issuing {s : State} {t : TorIdx} {c : CtxIdx} {im : Sched} {w : BitVec 128} (h : s.issuingOf t c im)
    (hw : s.asks c t w = true) (f : CtxIdx → Sched → State) : s.issueWide t w f = f c im := by
  obtain ⟨hi, him⟩ := h
  simp [State.issueWide, State.issuer_of_issuing hi hw, hi.2.2.2.1, hi.2.2.2.2, him]

section Unasked
variable {s : State} {t : TorIdx} {w : BitVec 128} (h : ∀ c, s.asks c t w = false)
include h

theorem State.issue_of_unasked (f : CtxIdx → Tor → Tor) : s.issue t w f = s := by
  simp [State.issue, State.issuer_of_unasked h]

theorem State.issueJump_of_unasked (f : CtxIdx → Tor → Tor) : s.issueJump t w f = s := by
  simp [State.issueJump, State.issuer_of_unasked h]

theorem State.issueWide_of_unasked (f : CtxIdx → Sched → State) : s.issueWide t w f = s := by
  simp [State.issueWide, State.issuer_of_unasked h]

end Unasked

/-! ## The next word -/

/-- The next word of a command is the one it spells. -/
theorem State.asks_of_nextWord {s : State} {c : CtxIdx} {i : Instr} {t : TorIdx} {w : BitVec 128} (h : s.nextWord c i)
    (hi : i.torWord = some (t, w)) : s.asks c t w = true := by
  obtain ⟨t', w', h', ha⟩ := h
  cases hi.symm.trans h'
  exact ha

/-- A tor word that is issued by changing its tor alone. -/
theorem torWord_of_issue {i : Instr} {t : TorIdx} {w : BitVec 128} {f : State → CtxIdx → Tor → Tor} (hi : i.torWord = some (t, w))
    (hexec : ∀ s, exec i s = .next (s.issue t w (f s))) : TorWord i t (fun s c r => (f s c r).next) := fun s c h hn => by
  rw [hexec, State.issue_of_issuing h (State.asks_of_nextWord hn hi)]

theorem torWord_of_issueJump {i : Instr} {t : TorIdx} {w : BitVec 128} {f : CtxIdx → Tor → Tor} (hi : i.torWord = some (t, w))
    (hexec : ∀ s, exec i s = .next (s.issueJump t w f)) : TorWord i t (fun _ c r => f c r) := fun s c h hn => by
  rw [hexec, State.issueJump_of_issuing h (State.asks_of_nextWord hn hi)]

/-- A tor word whose effect reaches beyond its tor. -/
theorem runsTo_of_issueWide {s : State} {t : TorIdx} {c : CtxIdx} {im : Sched} {i : Instr} {w : BitVec 128}
    {f : CtxIdx → Sched → State} (h : s.issuingOf t c im) (hi : i.torWord = some (t, w)) (hexec : exec i s = .next (s.issueWide t w f)) :
    s.runsTo c i (f c im) := fun hn => by
  rw [hexec, State.issueWide_of_issuing h (State.asks_of_nextWord hn hi)]

/-! ## The program counter (R115, R389) -/

/-- The program counter moves on where no open loop ends at the next word. -/
theorem Tor.next_noLoop {r : Tor} (h : r.loops = []) : r.next = { r with pc := BitVec.ofNat 32 (r.pc.toNat + 1) } := by
  simp [Tor.next, Tor.goto, closeLoops, h]

section InnermostLoop
variable {r : Tor} {l : LoopFrame} {ls : List LoopFrame} (h : r.loops = l :: ls) (hd : l.depth = r.stack.length)
include h hd

theorem Tor.next_insideLoop (hpc : r.pc.toNat + 1 < l.start + l.len) :
    r.next = { r with pc := BitVec.ofNat 32 (r.pc.toNat + 1) } := by
  have h1 : ¬ r.pc.toNat + 1 = l.start + l.len := by omega
  have h2 : ¬ l.start + l.len < r.pc.toNat + 1 := by omega
  simp [Tor.next, Tor.goto, closeLoops, h, hd, h1, h2]

theorem Tor.next_loopAgain (hpc : r.pc.toNat + 1 = l.start + l.len) (hleft : 1 < l.left) :
    r.next = { r with pc := BitVec.ofNat 32 l.start, loops := { l with left := l.left - 1 } :: ls } := by
  simp [Tor.next, Tor.goto, closeLoops, h, hd, hpc, hleft]

end InnermostLoop

theorem Tor.next_leavesLoop {r : Tor} {l : LoopFrame} (h : r.loops = [l]) (hd : l.depth = r.stack.length)
    (hpc : r.pc.toNat + 1 = l.start + l.len) (hleft : l.left ≤ 1) :
    r.next = { r with pc := BitVec.ofNat 32 (r.pc.toNat + 1), loops := [] } := by
  have hlast : ¬ 1 < l.left := by omega
  simp [Tor.next, Tor.goto, closeLoops, h, hd, hpc, hlast]

/-! ## Registers (R119) -/

section Registers
variable (r : Tor) (t : TorIdx) (i j : Nat)

theorem Tor.readS_writeS (v : Word) : (r.writeS i v).readS t j = if j = i then v else r.readS t j := by
  by_cases h : j = i
  · simp [Tor.readS, Tor.writeS, regPut_find, h]
  · rw [if_neg h, Tor.readS, Tor.writeS, regPut_find, if_neg h, Tor.readS]

theorem Tor.readV_writeV (v : BitVec 1024) : (r.writeV i v).readV t j = if j = i then v else r.readV t j := by
  by_cases h : j = i
  · simp [Tor.readV, Tor.writeV, regPut_find, h]
  · rw [if_neg h, Tor.readV, Tor.writeV, regPut_find, if_neg h, Tor.readV]

theorem Tor.readP_writeP (v : BitVec 32) :
    (r.writeP i v).readP t j = if j = 0 then BitVec.allOnes 32 else if j = i then v else r.readP t j := by
  by_cases hj : j = 0
  · simp [Tor.readP, hj]
  · by_cases hi : i = 0
    · simp [Tor.writeP, hi, hj]
    · by_cases h : j = i <;> simp [Tor.readP, Tor.writeP, hi, hj, regPut_find, h]

theorem Tor.readS_writeP (v : BitVec 32) : (r.writeP i v).readS t j = r.readS t j := by
  simp only [Tor.writeP]
  split <;> rfl

theorem Tor.readV_writeP (v : BitVec 32) : (r.writeP i v).readV t j = r.readV t j := by
  simp only [Tor.writeP]
  split <;> rfl

end Registers

/-! ## Packed lanes -/

/-- Lane 0 of a vector that a lane and others above it make up. -/
theorem extractLsb'_zero_or_shift {w ew : Nat} (v : BitVec ew) (x : BitVec w) (h : ew ≤ w) :
    (v.setWidth w ||| x <<< ew).extractLsb' 0 ew = v := by
  ext k hk
  simp [hk, show k < w by omega]

/-- The lanes above lane 0. -/
theorem extractLsb'_or_shift {w ew o : Nat} (v : BitVec ew) (x : BitVec w) (h : ew + o + ew ≤ w) :
    (v.setWidth w ||| x <<< ew).extractLsb' (ew + o) ew = x.extractLsb' o ew := by
  ext k hk
  have h1 : ¬ ew + o + k < ew := by omega
  have h2 : ew + o + k - ew = o + k := by omega
  have h3 : o + k < w := by omega
  simp [h1, h2, show ew + o + k < w by omega, BitVec.getLsbD_of_ge v (ew + o + k) (by omega), BitVec.getLsbD_eq_getElem h3]

theorem getLane_packLanes {w ew : Nat} (l : List (BitVec ew)) (j : Nat) (hj : j < l.length) (hw : ew * (j + 1) ≤ w) :
    getLane ew (packLanes w ew l) j = l[j] := by
  induction l generalizing j with
  | nil => simp at hj
  | cons v vs ih =>
    cases j with
    | zero => exact extractLsb'_zero_or_shift v _ (by simpa using hw)
    | succ j =>
      have hlt : ew * (j + 1) ≤ w := Nat.le_trans (Nat.mul_le_mul_left ew (by omega)) hw
      have hoff : ew * (j + 1) = ew + ew * j := by rw [Nat.mul_succ, Nat.add_comm]
      simp only [List.getElem_cons_succ, ← ih j (by simpa using hj) hlt, getLane, packLanes, hoff]
      refine extractLsb'_or_shift v _ ?_
      rw [Nat.mul_succ, hoff] at hw
      exact hw

/-! ## Vector results (R119, R125) -/

/-- The flags that lanes add, one by one. -/
theorem bit_foldl_flags (l : List FpRes) (a : BitVec 5) (k : Nat) :
    bit (l.foldl (fun (a : BitVec 5) (x : FpRes) => a ||| x.flags) a) k = (bit a k || l.any (fun x => bit x.flags k)) := by
  induction l generalizing a with
  | nil => simp
  | cons x l ih => rw [List.foldl_cons, ih, List.any_cons, ← Bool.or_assoc, bit, BitVec.getLsbD_or]; rfl

section VectorResult
variable (r : Tor) (t : TorIdx) (act : BitVec 32) (vd : Nat) (f : Nat → FpRes)

/-- The value of each lane of VD: the result where the lane is active, else what it held. -/
theorem Tor.vlane_vlanes (j : Nat) (hj : j < 32) :
    vlane ((r.vlanes t act vd f).readV t vd) j = if bit act j then (f j).val else vlane (r.readV t vd) j := by
  unfold Tor.vlanes
  rw [Tor.readV_writeV, if_pos rfl, vlane, getLane_packLanes _ j (by simpa using hj) (by omega)]
  simp only [List.getElem_map, List.getElem_range]
  split <;> rfl

theorem Tor.bit_fpf_vlanes (k : Nat) :
    bit (r.vlanes t act vd f).fpf k = (bit r.fpf k || (List.range 32).any (fun j => bit act j && bit (f j).flags k)) := by
  have hlane (j : Nat) : bit (if bit act j then f j else ({ val := vlane (r.readV t vd) j } : FpRes)).flags k
      = (bit act j && bit (f j).flags k) := by
    cases bit act j <;> simp [bit]
  have hfold := bit_foldl_flags
    ((List.range 32).map (fun j => if bit act j then f j else ({ val := vlane (r.readV t vd) j } : FpRes))) 0 k
  simp only [List.any_map, Function.comp_def, hlane] at hfold
  simp only [Tor.vlanes, Tor.writeV]
  rw [bit, BitVec.getLsbD_or]
  change (bit r.fpf k || bit _ k) = _
  rw [hfold]
  simp [bit]

theorem Tor.readV_vlanes_ne (j : Nat) (h : j ≠ vd) : (r.vlanes t act vd f).readV t j = r.readV t j := by
  unfold Tor.vlanes
  rw [Tor.readV_writeV, if_neg h]
  rfl

end VectorResult

/-- A comparison's bits, lane by lane into a predicate. -/
theorem bit_setLane_one (p : BitVec 32) (i j : Nat) (b : Bool) (hj : j < 32) :
    bit (setLane 1 p i (BitVec.ofBool b)) j = if j = i then b else bit p j := by
  simp only [bit, setLane, Nat.one_mul]
  by_cases h : j = i
  · subst h
    cases b <;> simp [hj]
  · by_cases hlt : j < i
    · simp [hj, hlt, h]
    · have h1 : (j - i) ≠ 0 := by omega
      cases b <;> simp [hj, hlt, h, h1]

/-- Bits below the lanes that are written keep their values. -/
theorem bit_foldl_setLane_lt (res : List (Bool × Bool × Bool × Bool)) (n : Nat) (p : BitVec 32) (j : Nat) (hj : j < 32) (hlt : j < n) :
    bit ((res.zipIdx n).foldl (fun (p : BitVec 32) q => if q.1.1 then setLane 1 p q.2 (BitVec.ofBool q.1.2.1) else p) p) j = bit p j := by
  induction res generalizing n p with
  | nil => simp
  | cons x res ih =>
    simp only [List.zipIdx_cons, List.foldl_cons]
    rw [ih (n + 1) _ (by omega)]
    split
    · rw [bit_setLane_one _ _ _ _ hj, if_neg (by omega)]
    · rfl

theorem bit_compareFold (res : List (Bool × Bool × Bool × Bool)) (n : Nat) (p : BitVec 32) (j : Nat) (hj : j < 32)
    (hn : n ≤ j) (hlen : j - n < res.length) :
    bit ((res.zipIdx n).foldl (fun (p : BitVec 32) q => if q.1.1 then setLane 1 p q.2 (BitVec.ofBool q.1.2.1) else p) p) j =
      if (res[j - n]).1 then (res[j - n]).2.1 else bit p j := by
  induction res generalizing n p with
  | nil => simp at hlen
  | cons x res ih =>
    have hbit (b : Bool) : bit (if b then setLane 1 p n (BitVec.ofBool x.2.1) else p) j =
        if b = true ∧ j = n then x.2.1 else bit p j := by
      cases b
      · simp
      · simp [bit_setLane_one _ _ _ _ hj]
    simp only [List.zipIdx_cons, List.foldl_cons]
    by_cases h : j = n
    · subst h
      rw [bit_foldl_setLane_lt _ _ _ _ hj (Nat.lt_succ_self j), hbit]
      simp
    · have hidx : j - n = (j - (n + 1)) + 1 := by omega
      rw [ih (n + 1) _ (by omega) (by simp only [List.length_cons] at hlen; omega), hbit]
      simp [hidx, h]

end Sys2Proof.Machine

open Sys2Proof Sys2Proof.Machine

/-- Settles O1: a write is seen by the reads of its register alone, and a vector word's lanes are packed and unpacked again. -/
theorem torRegistersHold : Obligations.TorRegistersHold :=
  ⟨⟨Tor.readS_writeS, Tor.readV_writeV, Tor.readP_writeP, fun _ _ _ _ _ => ⟨rfl, rfl⟩, fun _ _ _ _ _ => ⟨rfl, rfl⟩,
      fun r t i j v => ⟨Tor.readS_writeP r t i j v, Tor.readV_writeP r t i j v⟩⟩,
    fun r t act vd f => ⟨Tor.vlane_vlanes r t act vd f, fun k _ => Tor.bit_fpf_vlanes r t act vd f k,
      Tor.readV_vlanes_ne r t act vd f, fun _ => ⟨rfl, rfl⟩, rfl, rfl⟩⟩

end

section
/-! O2 to O5: scalar, predicate, control and vector words. Each is issued in one of the three ways of the layer above; a word
with a reserved field is refused before anything else. -/

namespace Sys2Proof.Machine
open Sys2Proof

/-! ## A word that the stream does not hold next (R115, R117) -/

/-- The outcome o changes nothing: the state stays, or the word is refused by name. -/
def NoEffect (s : State) (o : Host.Outcome State Fault Refusal) : Prop :=
  o = .next s ∨ ∃ name, o = .refused (.reservedEncoding name)

theorem NoEffect.next {s u : State} (h : u = s) : NoEffect s (.next u) := .inl (congrArg _ h)

theorem NoEffect.refused (s : State) (name : String) : NoEffect s (.refused (.reservedEncoding name)) := .inr ⟨name, rfl⟩

theorem NoEffect.ite {p : Prop} [Decidable p] {s : State} {a b : Host.Outcome State Fault Refusal} (ha : NoEffect s a)
    (hb : NoEffect s b) : NoEffect s (if p then a else b) := by
  split
  · exact ha
  · exact hb

/-- A word that is refused or changes the state to u, where u is the state it had. -/
theorem NoEffect.word {p : Prop} [Decidable p] {s u : State} {name : String} (h : u = s) :
    NoEffect s (if p then .refused (.reservedEncoding name) else .next u) :=
  .ite (.refused s name) (.next h)

section Unasked
variable {s : State} {t : TorIdx} {w : BitVec 128} (h : ∀ c, s.asks c t w = false)
include h

theorem vectorWord_of_unasked {op : Byte} {o : VOp} (hw : w = encVector op o) (name : String) (f : FpMode → F32 → F32 → F32 → FpRes) :
    NoEffect s (s.vectorWord t op o name f) := by
  subst hw
  exact .word (State.issue_of_unasked h _)

theorem convWord_of_unasked {op : Byte} {o : ConvOp} (hw : w = encConv op o) (ecc : EccObs) (port : Desc → TorIdx)
    (blocks : State → CtxIdx → Sched → TorIdx → ConvOp → Option (List (Nat × QBlock))) :
    s.convWord t op o ecc port blocks = s := by
  subst hw
  exact State.issueWide_of_unasked h _

theorem execVcmp_of_unasked {o : VCmpOp} (hw : w = encVcmp o) : NoEffect s (execVcmp t o s) := by
  subst hw
  unfold execVcmp
  rw [State.issuer_of_unasked h]
  exact .word rfl

theorem execDeq_of_unasked {o : ConvOp} (hw : w = encConv 0x51 o) : NoEffect s (execDeq t o s) := by
  subst hw
  unfold execDeq
  rw [State.issuer_of_unasked h]
  exact .word rfl

theorem execAlt_of_unasked {tile : BitVec 20} {pos : Bool} {skip : BitVec 16} (hw : w = encAlt tile pos skip) :
    NoEffect s (execAlt t tile pos skip s) := by
  subst hw
  unfold execAlt
  rw [State.issuer_of_unasked h]
  exact .next rfl

theorem execLdq_of_unasked {stream : BitVec 24} (hw : w = encStream 0x70 stream) : NoEffect s (execLdq t stream s) := by
  subst hw
  refine .next ?_
  split
  · rfl
  · split
    · rw [h, if_neg Bool.false_ne_true, State.issueWide_of_unasked h]
      exact ite_self s
    · rfl

end Unasked

/-- A tor word other than the one that its tor's stream holds next changes nothing. -/
theorem exec_of_unasked {s : State} {i : Instr} {t : TorIdx} {w : BitVec 128} (hi : i.torWord = some (t, w))
    (h : ∀ c, s.asks c t w = false) : NoEffect s (exec i s) := by
  cases i with
  | nop => cases hi; exact .next (State.issue_of_unasked h _)
  | loop => cases hi; exact .word (State.issueJump_of_unasked h _)
  | skipb => cases hi; exact .next (State.issueWide_of_unasked h _)
  | call => cases hi; exact .next (State.issueJump_of_unasked h _)
  | ret => cases hi; exact .next (State.issueWide_of_unasked h _)
  | tmm => cases hi; exact .word (State.issueWide_of_unasked h _)
  | tconv => cases hi; exact .word (State.issueWide_of_unasked h _)
  | vadd => cases hi; exact vectorWord_of_unasked h rfl ..
  | vsub => cases hi; exact vectorWord_of_unasked h rfl ..
  | vmul => cases hi; exact vectorWord_of_unasked h rfl ..
  | vfma => cases hi; exact vectorWord_of_unasked h rfl ..
  | vmin => cases hi; exact vectorWord_of_unasked h rfl ..
  | vmax => cases hi; exact vectorWord_of_unasked h rfl ..
  | vcmp => cases hi; exact execVcmp_of_unasked h rfl
  | vdiv => cases hi; exact vectorWord_of_unasked h rfl ..
  | vsqrt => cases hi; exact vectorWord_of_unasked h rfl ..
  | vrcp => cases hi; exact .ite (.refused ..) (vectorWord_of_unasked h rfl ..)
  | vrsq => cases hi; exact .ite (.refused ..) (vectorWord_of_unasked h rfl ..)
  | vcvt => cases hi; exact .word (State.issue_of_unasked h _)
  | vred => cases hi; exact .word (State.issue_of_unasked h _)
  | vdrop => cases hi; exact .word (State.issue_of_unasked h _)
  | vrand => cases hi; exact .next (State.issue_of_unasked h _)
  | vfpf => cases hi; exact .next (State.issue_of_unasked h _)
  | vld => cases hi; exact .next (State.issueWide_of_unasked h _)
  | vst => cases hi; exact .next (State.issueWide_of_unasked h _)
  | vbcast => cases hi; exact .next (State.issue_of_unasked h _)
  | smovi => cases hi; exact .next (State.issue_of_unasked h _)
  | sadd => cases hi; exact .next (State.issue_of_unasked h _)
  | ssub => cases hi; exact .next (State.issue_of_unasked h _)
  | smul => cases hi; exact .next (State.issue_of_unasked h _)
  | sand => cases hi; exact .next (State.issue_of_unasked h _)
  | sor => cases hi; exact .next (State.issue_of_unasked h _)
  | sxor => cases hi; exact .next (State.issue_of_unasked h _)
  | sshl => cases hi; exact .next (State.issue_of_unasked h _)
  | sasr => cases hi; exact .next (State.issue_of_unasked h _)
  | pmov => cases hi; exact .word (State.issue_of_unasked h _)
  | pand => cases hi; exact .word (State.issue_of_unasked h _)
  | por => cases hi; exact .word (State.issue_of_unasked h _)
  | pnot => cases hi; exact .word (State.issue_of_unasked h _)
  | qnt => cases hi; exact .next (convWord_of_unasked h rfl ..)
  | deq => cases hi; exact execDeq_of_unasked h rfl
  | rotq => cases hi; exact .next (convWord_of_unasked h rfl ..)
  | wait => cases hi; exact .next (State.issueWide_of_unasked h _)
  | signal => cases hi; exact .word (State.issueWide_of_unasked h _)
  | ldq => cases hi; exact execLdq_of_unasked h rfl
  | drq => cases hi; exact .next (State.issueWide_of_unasked h _)
  | hand => cases hi; exact .next (State.issueWide_of_unasked h _)
  | nchk => cases hi; exact .next (State.issueWide_of_unasked h _)
  | alt => cases hi; exact execAlt_of_unasked h rfl
  | settle => cases hi; exact .next (State.issueWide_of_unasked h _)
  | cairn => cases hi; exact .next (State.issueWide_of_unasked h _)
  | _ => cases hi

/-! ## Refused words -/

/-- A word whose field test fails is refused by name. -/
theorem refusedAs_of_if {i : Instr} {name : String} {p : Prop} [Decidable p] {f : State → Host.Outcome State Fault Refusal}
    (hexec : ∀ s, exec i s = if p then .refused (.reservedEncoding name) else f s) (hp : p) : RefusedAs i name := fun s => by
  rw [hexec, if_pos hp]

/-- A word whose field test passes does what follows the test. -/
theorem exec_of_if_neg {i : Instr} {name : String} {p : Prop} [Decidable p] {f : State → Host.Outcome State Fault Refusal}
    (hexec : ∀ s, exec i s = if p then .refused (.reservedEncoding name) else f s) (hp : ¬ p) (s : State) : exec i s = f s := by
  rw [hexec, if_neg hp]

/-- The reserved forms of the row VADD … VRSQ. -/
theorem vectorWord_refused {o : VOp} (h : o.sub ≠ 0 ∨ vmodeOk o.mode = false) (s : State) (t : TorIdx) (op : Byte) (name : String)
    (f : FpMode → F32 → F32 → F32 → FpRes) : s.vectorWord t op o name f = .refused (.reservedEncoding name) :=
  if_pos (h.imp id fun h => by simp [h])

theorem strictOnly_refused {o : VOp} (h : o.sub ≠ 0 ∨ vmodeOk o.mode = false) (s : State) (t : TorIdx) (op : Byte) (name : String)
    (f : FpMode → F32 → F32 → F32 → FpRes) :
    (if bit o.mode 3 then .refused (.reservedEncoding name) else s.vectorWord t op o name f) = .refused (.reservedEncoding name) := by
  rw [vectorWord_refused h, ite_self]

/-- The modes that are not reserved: fast, and strict in one of five roundings. -/
theorem vmodeOk_eq (mode : BitVec 4) : vmodeOk mode = decide (mode.toNat = 0 ∨ (8 ≤ mode.toNat ∧ mode.toNat ≤ 12)) := by
  revert mode
  decide

/-! ## Vector words -/

/-- Whether a mode is reserved does not depend on the context's class. -/
theorem vmodeOk_of_vmode {pilot : Bool} {mode : BitVec 4} {md : FpMode} (h : vmode pilot mode = some md) : vmodeOk mode = true := by
  unfold vmodeOk vmode
  unfold vmode at h
  split
  next hs => rw [if_pos hs] at h; rw [h]; rfl
  next hs =>
    rw [if_neg hs] at h
    split at h
    next hf => rw [if_pos hf]; rfl
    · cases h

/-- The lanes of a three-source word on an issuing tor. -/
def Tor.lanesOf (r : Tor) (t : TorIdx) (o : VOp) (f : F32 → F32 → F32 → FpRes) : Tor :=
  r.vlanes t (r.lanes t o.pred o.pneg) o.vd.toNat (fun j =>
    f (vlane (r.readV t o.va.toNat) j) (vlane (r.readV t o.vb.toNat) j) (vlane (r.readV t o.vc.toNat) j))

section Vector
variable {s : State} {t : TorIdx} {c : CtxIdx} {o : VOp} {md : FpMode} (h : s.issuing t c) (hm : vmode (s.pilot c) o.mode = some md)
include h hm

theorem vector_of_issuing {op : Byte} (hw : s.asks c t (encVector op o) = true) (f : FpMode → F32 → F32 → F32 → FpRes) :
    s.vector t op o f = s.setTor t ((s.tor t).lanesOf t o (f md)).next := by
  rw [State.vector, State.issue_of_issuing h hw, hm]
  rfl

/-- A word of the row VADD … VRSQ with SUB = 0 runs. -/
theorem runsTo_vectorWord {i : Instr} {op : Byte} {name : String} {f : FpMode → F32 → F32 → F32 → FpRes}
    (hi : i.torWord = some (t, encVector op o)) (hexec : exec i s = s.vectorWord t op o name f) (hsub : o.sub = 0) :
    s.runsTo c i (s.setTor t ((s.tor t).lanesOf t o (f md)).next) := fun hn => by
  have hok : ¬ (o.sub ≠ 0 ∨ ¬ vmodeOk o.mode) := by simp [hsub, vmodeOk_of_vmode hm]
  rw [hexec, State.vectorWord, if_neg hok, vector_of_issuing h hm (State.asks_of_nextWord hn hi)]

/-- VRCP and VRSQ run in fast mode. -/
theorem runsTo_fastWord {i : Instr} {op : Byte} {name : String} {f : FpMode → F32 → F32 → F32 → FpRes}
    (hi : i.torWord = some (t, encVector op o))
    (hexec : exec i s = if bit o.mode 3 then .refused (.reservedEncoding name) else s.vectorWord t op o name f)
    (hsub : o.sub = 0) (hfast : bit o.mode 3 = false) :
    s.runsTo c i (s.setTor t ((s.tor t).lanesOf t o (f md)).next) :=
  runsTo_vectorWord h hm hi (hexec.trans (if_neg (by simp [hfast]))) hsub

theorem runsTo_vcvt {f : F32 → FpRes} (hsub : ¬ 2 ≤ o.sub.toNat)
    (hf : ∀ a : F32, (if o.sub = 0 then fpToInt md a else intToFp md a.toInt) = f a) :
    s.runsTo c (.vcvt t o) (s.setTor t ((s.tor t).lanesOf t o (fun a _ _ => f a)).next) := fun hn => by
  have hok : ¬ (2 ≤ o.sub.toNat ∨ ¬ vmodeOk o.mode) := by simp [vmodeOk_of_vmode hm, hsub]
  change execVcvt t o s = _
  rw [execVcvt, if_neg hok, vector_of_issuing h hm (State.asks_of_nextWord hn rfl)]
  simp only [hf]

end Vector

/-! ## VCMP -/

/-- What the lanes of a comparison answer. -/
def compareLanes (md : FpMode) (r : Tor) (t : TorIdx) (o : VCmpOp) : List (Bool × Bool × Bool × Bool) :=
  (List.range 32).map (fun j => (bit (r.lanes t o.pred o.pneg) j,
    fpCompare md o.cmp.toNat (vlane (r.readV t o.va.toNat) j) (vlane (r.readV t o.vb.toNat) j)))

/-- The predicate that a comparison leaves in PD. -/
def compareBits (md : FpMode) (r : Tor) (t : TorIdx) (o : VCmpOp) : BitVec 32 :=
  (compareLanes md r t o).zipIdx.foldl (fun (p : BitVec 32) q => if q.1.1 then setLane 1 p q.2 (BitVec.ofBool q.1.2.1) else p)
    (r.readP t o.pd.toNat)

theorem bit_compareBits (md : FpMode) (r : Tor) (t : TorIdx) (o : VCmpOp) (j : Nat) (hj : j < 32) :
    bit (compareBits md r t o) j = if bit (r.lanes t o.pred o.pneg) j
      then (fpCompare md o.cmp.toNat (vlane (r.readV t o.va.toNat) j) (vlane (r.readV t o.vb.toNat) j)).1
      else bit (r.readP t o.pd.toNat) j := by
  have hlen : j - 0 < (compareLanes md r t o).length := by simp [compareLanes, hj]
  have hcmp := bit_compareFold (compareLanes md r t o) 0 (r.readP t o.pd.toNat) j hj (Nat.zero_le j) hlen
  rw [compareBits, hcmp]
  simp [compareLanes]

/-- The flags that a comparison adds, and the state it takes a free value from: in fast mode none; a signalling NaN is invalid;
of a quiet NaN the spec leaves it open. -/
def State.compareFlags (s : State) (md : FpMode) (o : VCmpOp) (res : List (Bool × Bool × Bool × Bool)) : BitVec 5 × State :=
  if md.isFast then (0, s) else if res.any (fun q => q.1 && q.2.2.2) then (flInvalid, s)
  else if res.any (fun q => q.1 && q.2.2.1) && (o.cmp == 1 || o.cmp == 2) then
    (if (s.takeFree 1).1 = 1 then flInvalid else 0, (s.takeFree 1).2)
  else (0, s)

theorem State.compareFlags_spec (s : State) (md : FpMode) (o : VCmpOp) (res : List (Bool × Bool × Bool × Bool)) :
    ∃ fl n, s.compareFlags md o res = (fl, { s with free := n }) ∧ (fl = 0 ∨ fl = flInvalid) ∧
      (md.isFast = true → fl = 0 ∧ n = s.free) ∧ s.free ≤ n := by
  unfold State.compareFlags
  split
  · exact ⟨0, s.free, rfl, .inl rfl, fun _ => ⟨rfl, rfl⟩, Nat.le_refl _⟩
  next hslow =>
    have hfast : md.isFast = true → False := hslow
    split
    · exact ⟨flInvalid, s.free, rfl, .inr rfl, fun hf => (hfast hf).elim, Nat.le_refl _⟩
    · split
      · refine ⟨_, s.free + 1, rfl, ?_, fun hf => (hfast hf).elim, Nat.le_succ _⟩
        split
        · exact .inr rfl
        · exact .inl rfl
      · exact ⟨0, s.free, rfl, .inl rfl, fun hf => (hfast hf).elim, Nat.le_refl _⟩

theorem execVcmp_of_issuing {s : State} {t : TorIdx} {c : CtxIdx} {o : VCmpOp} {md : FpMode} (h : s.issuing t c)
    (hm : vmode (s.pilot c) o.mode = some md) (hpd : o.pd ≠ 0) (hw : s.asks c t (encVcmp o) = true) :
    execVcmp t o s = .next ((s.compareFlags md o (compareLanes md (s.tor t) t o)).2.issue t (encVcmp o) (fun _ r =>
      Tor.writeP { r with fpf := r.fpf ||| (s.compareFlags md o (compareLanes md (s.tor t) t o)).1 } o.pd.toNat
        (compareBits md (s.tor t) t o))) := by
  have hok : ¬ (o.pd = 0 ∨ ¬ vmodeOk o.mode = true) := not_or.2 ⟨hpd, not_not_intro (vmodeOk_of_vmode hm)⟩
  rw [execVcmp, if_neg hok, State.issuer_of_issuing h hw]
  dsimp only
  rw [hm]
  rfl

end Sys2Proof.Machine

open Sys2Proof Sys2Proof.Machine

/-- Settles O2: every scalar and predicate word is issued by changing its tor alone; the test of PD comes first. -/
theorem scalarAndPredicateWordsComplete : Obligations.ScalarAndPredicateWordsComplete := by
  refine ⟨⟨fun _ _ _ => torWord_of_issue rfl fun _ => rfl, fun t o => ?scalar⟩, fun t sd sa h => ?pmov, fun t o h => ?predicate,
    fun _ _ _ h => refusedAs_of_if (fun _ => rfl) h, fun _ _ h => ?refused⟩
  case scalar =>
    exact ⟨torWord_of_issue rfl fun _ => rfl, torWord_of_issue rfl fun _ => rfl, torWord_of_issue rfl fun _ => rfl,
      torWord_of_issue rfl fun _ => rfl, torWord_of_issue rfl fun _ => rfl, torWord_of_issue rfl fun _ => rfl,
      torWord_of_issue rfl fun _ => rfl, torWord_of_issue rfl fun _ => rfl⟩
  case pmov => exact torWord_of_issue rfl (exec_of_if_neg (fun _ => rfl) h)
  case predicate =>
    exact ⟨torWord_of_issue rfl (exec_of_if_neg (fun _ => rfl) h), torWord_of_issue rfl (exec_of_if_neg (fun _ => rfl) h),
      torWord_of_issue rfl (exec_of_if_neg (fun _ => rfl) h)⟩
  case refused =>
    exact ⟨refusedAs_of_if (fun _ => rfl) h, refusedAs_of_if (fun _ => rfl) h, refusedAs_of_if (fun _ => rfl) h⟩

/-- Settles O3: the four cases of the program counter, one lemma each; the control words by the way they are issued; and no
command acts on a tor word that no context asks for (`exec_of_unasked`). -/
theorem controlWordsComplete : Obligations.ControlWordsComplete := by
  refine ⟨⟨fun _ => Tor.next_noLoop, fun _ _ _ => Tor.next_insideLoop, fun _ _ _ => Tor.next_loopAgain, fun _ _ => Tor.next_leavesLoop⟩,
    ⟨fun t => torWord_of_issue rfl fun _ => rfl, fun t len count hlen hcount => ?loop, fun t len hlen => ?passedLoop,
      fun t count => fun _ => rfl, fun t entry => torWord_of_issueJump rfl fun _ => rfl,
      fun s t c im f fs h hstack hsettle => ?ret, fun s t c im f fs tile desc h hstack hsettle htile => ?retSettle,
      fun s t c im branch skip h hreplay => ?skipb⟩,
    fun s i t w hi h => exec_of_unasked hi h⟩
  case loop =>
    have hrun := torWord_of_issueJump (i := .loop t len count) rfl (exec_of_if_neg (fun _ => rfl) hlen)
    simpa only [if_neg hcount] using hrun
  case passedLoop =>
    exact torWord_of_issueJump (i := .loop t len 0) (f := fun _ r => r.goto (r.pc.toNat + 1 + len.toNat)) rfl
      (exec_of_if_neg (fun _ => rfl) hlen)
  case ret =>
    have hrun := runsTo_of_issueWide (s := s) (i := .ret t) h rfl rfl
    simpa only [hstack, hsettle, if_neg Bool.false_ne_true] using hrun
  case retSettle =>
    have hrun := runsTo_of_issueWide (s := s) (i := .ret t) h rfl rfl
    simpa only [hstack, hsettle, if_true, htile] using hrun
  case skipb =>
    have hrun := runsTo_of_issueWide (s := s) (i := .skipb t branch skip) h rfl rfl
    simpa only [hreplay, if_neg Bool.false_ne_true, State.pcNext] using hrun

/-- Settles O4: the words of one row run alike (`runsTo_vectorWord`), VRED and VDROP past their mode test; a
comparison writes PD lane by lane (`bit_compareBits`). -/
theorem vectorWordsComplete : Obligations.VectorWordsComplete := by
  refine ⟨fun s t c o md h hm => ⟨fun hsub => ?row, fun hsub => ?toFloat, fun hsub hfast => ?fast⟩,
    ⟨fun s t c o md h hm => ?vred, fun s t c o md h hm => ?vdrop, fun t o => torWord_of_issue rfl fun _ => rfl,
      fun t sd clear => torWord_of_issue rfl fun _ => rfl, fun t pred pneg vd sa => torWord_of_issue rfl fun _ => rfl⟩,
    fun s t c o md h hm hpd hn => ?vcmp⟩
  case row =>
    have hrow {i : Instr} {op : Byte} {name : String} (f : FpMode → F32 → F32 → F32 → FpRes) :=
      runsTo_vectorWord (i := i) (op := op) (name := name) (f := f) h hm
    exact ⟨hrow (fun md a b _ => fpAdd md a b) rfl rfl hsub, hrow (fun md a b _ => fpSub md a b) rfl rfl hsub,
      hrow (fun md a b _ => fpMul md a b) rfl rfl hsub, hrow (fun md a b d => fpFma md a b d) rfl rfl hsub,
      hrow (fun md a b _ => fpMinMax md false a b) rfl rfl hsub, hrow (fun md a b _ => fpMinMax md true a b) rfl rfl hsub,
      hrow (fun md a b _ => fpDiv md a b) rfl rfl hsub, hrow (fun md a _ _ => fpSqrt md a) rfl rfl hsub,
      runsTo_vcvt h hm (by rw [hsub]; decide) fun a => if_pos hsub⟩
  case toFloat =>
    have hne : o.sub ≠ 0 := by rw [hsub]; decide
    exact runsTo_vcvt (f := fun a => intToFp md a.toInt) h hm (by rw [hsub]; decide) fun _ => if_neg hne
  case fast =>
    exact ⟨runsTo_fastWord (f := fun md a _ _ => { val := recipFast (md == .fast true) a }) h hm rfl rfl hsub hfast,
      runsTo_fastWord (f := fun md a _ _ => { val := rsqrtFast (md == .fast true) a }) h hm rfl rfl hsub hfast⟩
  case vred =>
    intro r act q hn
    change execVred t o s = _
    rw [execVred, if_neg (not_not_intro (vmodeOk_of_vmode hm)), State.issue_of_issuing h (State.asks_of_nextWord hn rfl), hm]
  case vdrop =>
    intro r hn
    change execVdrop t o s = _
    rw [execVdrop, if_neg (not_not_intro (vmodeOk_of_vmode hm)), State.issue_of_issuing h (State.asks_of_nextWord hn rfl), hm]
  case vcmp =>
    have hw := State.asks_of_nextWord hn rfl
    obtain ⟨fl, n, hflags, hfl, hfast, hle⟩ := s.compareFlags_spec md o (compareLanes md (s.tor t) t o)
    refine ⟨fl, n, compareBits md (s.tor t) t o, ?_, hfl, hfast, hle, bit_compareBits md (s.tor t) t o⟩
    change execVcmp t o s = _
    rw [execVcmp_of_issuing h hm hpd hw, hflags]
    exact congrArg _ (State.issue_of_issuing (s := { s with free := n }) h hw _)

/-- Settles O5: the field test of every vector word comes before anything else, and the modes are sixteen. -/
theorem reservedVectorWordsRefused : Obligations.ReservedVectorWordsRefused :=
  ⟨fun t o h => ⟨fun s => vectorWord_refused h s t .., fun s => vectorWord_refused h s t .., fun s => vectorWord_refused h s t ..,
      fun s => vectorWord_refused h s t .., fun s => vectorWord_refused h s t .., fun s => vectorWord_refused h s t ..,
      fun s => vectorWord_refused h s t .., fun s => vectorWord_refused h s t .., fun s => strictOnly_refused h s t ..,
      fun s => strictOnly_refused h s t ..⟩,
    fun _ _ h => refusedAs_of_if (fun _ => rfl) (h.imp id fun h => by simp [h]),
    fun _ _ h => ⟨refusedAs_of_if (fun _ => rfl) h, refusedAs_of_if (fun _ => rfl) h⟩,
    fun _ _ h => refusedAs_of_if (fun _ => rfl) (h.imp id fun h => by simp [h]),
    fun _ _ h => refusedAs_of_if (fun _ => rfl) (by simp [h]), fun _ _ h => refusedAs_of_if (fun _ => rfl) (by simp [h]), vmodeOk_eq⟩

end

section
/-! O6 to O9 and O14: the tor words whose effect reaches beyond their tor. Each is issued by `issueWide` (or, for DEQ, ALT and a
PRE LDQ, by a test of its own), so what it does is its body at the tor's context and image. -/

namespace Sys2Proof.Machine
open Sys2Proof

/-! ## The bytes that a VST stores (R126) -/

/-- Byte k of lane j is byte 4 j + k of its register. -/
theorem nth_leBytes_vlane (v : BitVec 1024) (j k : Nat) (hk : k < 4) :
    nth 0 (leBytes 4 (vlane v j)) k = v.extractLsb' (8 * (4 * j + k)) 8 := by
  simp only [nth, leBytes, List.getElem?_map, List.getElem?_range hk, Option.map_some, Option.getD_some]
  ext i hi
  simp only [vlane, getLane, BitVec.getElem_setWidth, BitVec.getLsbD_ushiftRight, BitVec.getLsbD_extractLsb', BitVec.getElem_extractLsb']
  rw [decide_eq_true (show 8 * k + i < 32 by omega), Bool.true_and, show 32 * j + (8 * k + i) = 8 * (4 * j + k) + i by omega]

/-- The first n lanes of a store. -/
def storeFirst (m : Memory) (a : Nat) (v : BitVec 1024) (act : BitVec 32) (bad : List Nat) (n : Nat) : Memory :=
  (List.range n).foldl (fun m j =>
    if bit act j && !bad.contains (j / 2) then memSetBytes m (a + 4 * j) (leBytes 4 (vlane v j)) else m) m

/-- A byte of the first n lanes takes its lane's byte where the lane is active and its word is not a bad one; every other byte
reads as before. -/
theorem memByte_storeFirst (m : Memory) (a : Nat) (v : BitVec 1024) (act : BitVec 32) (bad : List Nat) (b n : Nat) :
    memByte (storeFirst m a v act bad n) b =
      if a ≤ b ∧ b < a + 4 * n ∧ bit act ((b - a) / 4) = true ∧ bad.contains ((b - a) / 8) = false
      then v.extractLsb' (8 * (b - a)) 8 else memByte m b := by
  induction n with
  | zero => exact (if_neg (by omega)).symm
  | succ n ih =>
    have hlen : (leBytes 4 (vlane v n)).length = 4 := by simp [leBytes]
    have hstep : storeFirst m a v act bad (n + 1) = if bit act n && !bad.contains (n / 2)
        then memSetBytes (storeFirst m a v act bad n) (a + 4 * n) (leBytes 4 (vlane v n)) else storeFirst m a v act bad n := by
      rw [storeFirst, List.range_succ, List.foldl_append]
      rfl
    rw [hstep]
    by_cases hb : a + 4 * n ≤ b ∧ b < a + 4 * n + 4
    · have hlane : (b - a) / 4 = n := by omega
      have hword : (b - a) / 8 = n / 2 := by omega
      rw [hlane, hword] at ih ⊢
      by_cases hw : bit act n = true ∧ bad.contains (n / 2) = false
      · rw [if_pos (by simp only [hw.1, hw.2]; rfl), memByte_memSetBytes, hlen, if_pos hb, if_pos ⟨by omega, by omega, hw.1, hw.2⟩,
          nth_leBytes_vlane v n _ (by omega), show 4 * n + (b - (a + 4 * n)) = b - a by omega]
      · rw [if_neg (by simpa using hw), ih, if_neg (fun h => hw h.2.2), if_neg (fun h => hw h.2.2)]
    · have hsame : memByte (if bit act n && !bad.contains (n / 2)
          then memSetBytes (storeFirst m a v act bad n) (a + 4 * n) (leBytes 4 (vlane v n)) else storeFirst m a v act bad n) b
          = memByte (storeFirst m a v act bad n) b := by
        split
        · rw [memByte_memSetBytes, hlen, if_neg hb]
        · rfl
      rw [hsame, ih]
      refine ite_eq_ite_of_iff (and_congr_right fun hab => and_congr_left fun _ => ?_) rfl rfl
      omega

/-- A VST with a good address and a free range stores its lanes, and fails its work where a word is bad. -/
theorem runsTo_vst {s : State} {t : TorIdx} {c : CtxIdx} {im : Sched} {o : VMemOp} {a : Nat} (h : s.issuingOf t c im) (ecc : EccObs)
    (ha : vaddr (s.tor t) t o = some a) (hp : s.rangePending c t a (a + 128) = false) :
    let r := s.tor t
    let act := r.lanes t o.pred o.pneg
    let bad := (partWords act).filter ecc.bad.contains
    let r' : Tor := { (if (partWords act).isEmpty then r else r.noteEcc ecc) with
      store := storeLanes r.store a (r.readV t o.v.toNat) act bad }
    (bad = [] → s.runsTo c (.vst t o ecc) ((s.setTor t r').pcNext t)) ∧
    (bad ≠ [] → s.runsTo c (.vst t o ecc) (((s.setTor t r').failEcc c im t).pcNext t)) := by
  have hst := runsTo_of_issueWide (i := .vst t o ecc) h rfl rfl
  simp only [ha, hp, Bool.false_eq_true, if_false] at hst
  refine ⟨fun hb => ?_, fun hb => ?_⟩
  · rw [if_pos (List.isEmpty_iff.2 hb)] at hst
    by_cases hw : (partWords ((s.tor t).lanes t o.pred o.pneg)).isEmpty = true
    · simp only [if_pos hw] at hst ⊢
      exact hst
    · simp only [if_neg hw] at hst ⊢
      exact hst
  · rw [if_neg (mt List.isEmpty_iff.1 hb)] at hst
    by_cases hw : (partWords ((s.tor t).lanes t o.pred o.pneg)).isEmpty = true
    · simp only [if_pos hw] at hst ⊢
      exact hst
    · simp only [if_neg hw] at hst ⊢
      exact hst

/-! ## DEQ and ALT, issued by tests of their own -/

/-- What a DEQ does on an issuing tor with a good address and a free range. -/
theorem exec_deq_of_issuing {s : State} {t : TorIdx} {c : CtxIdx} {im : Sched} {o : ConvOp} (h : s.issuingOf t c im) (hpl : o.pl ≠ 3)
    (hn : s.nextWord c (.deq t o))
    (hreplay : (im.desc o.desc.toNat).cls ≠ 6 ∨ (s.ctx c).replayWaits (im.workOfWord t.toNat (s.tor t).pc.toNat) = false)
    (ha : convAddrOk (im.desc o.desc.toNat) o = true)
    (hp : s.rangePending c t o.tsaddr.toNat (o.tsaddr.toNat + convExtent (im.desc o.desc.toNat) o) = false) :
    exec (.deq t o) s = .next (
      let missing := ((List.range o.count.toNat).map (o.seq.toNat + ·)).filter
        (fun q => !(s.missingPlanes (s.ctx c) im o.desc.toNat q (s.deqPlanes (s.ctx c) im o q)).isEmpty)
      if missing = [] then
        match (s.setTor t { s.tor t with deqWait := false }).deqBlocks c im t o o.count.toNat 0 with
        | ([], s') => s'.pcNext t
        | (k :: ks, s') => (s'.failItem c (im.workOfWord t.toNat (s'.tor t).pc.toNat) k 7 t.toNat ks.length).pcNext t
      else missing.foldl (fun s q => s.fetchPlanes c im o.desc.toNat q o.pl.toNat) (s.setTor t { s.tor t with deqWait := true })) := by
  obtain ⟨hi, him⟩ := h
  obtain ⟨-, -, -, halt, hdeq⟩ := id hi
  change execDeq t o s = _
  rw [execDeq, if_neg hpl, State.issuer_of_issuing hi (State.asks_of_nextWord hn rfl)]
  dsimp only
  have hready : ((im.desc o.desc.toNat).cls == 6 && (s.ctx c).replayWaits (im.workOfWord t.toNat (s.tor t).pc.toNat)) = false := by
    rcases hreplay with hcls | hrep
    · simp [hcls]
    · simp [hrep]
  simp only [him, halt, hready, ha, hp, hdeq, Bool.or_self, Bool.false_eq_true, if_false, Bool.not_true]
  congr 1
  by_cases hm : ((List.range o.count.toNat).map (o.seq.toNat + ·)).filter
        (fun q => !(s.missingPlanes (s.ctx c) im o.desc.toNat q (s.deqPlanes (s.ctx c) im o q)).isEmpty) = []
  · rw [if_pos hm, hm]
    rfl
  · rw [if_neg hm, if_pos (by simpa using hm)]

/-- What an ALT does on an issuing tor whose work has no replay to wait for. -/
theorem exec_alt_of_issuing {s : State} {t : TorIdx} {c : CtxIdx} {im : Sched} {tile : BitVec 20} {pos : Bool} {skip : BitVec 16}
    (h : s.issuingOf t c im) (hn : s.nextWord c (.alt t tile pos skip))
    (hreplay : (s.ctx c).replayWaits (im.workOfTile t.toNat tile.toNat) = false) :
    exec (.alt t tile pos skip) s = .next (if pos then s.altAfter c im t tile.toNat else s.altBefore c im t tile.toNat skip.toNat) := by
  obtain ⟨hi, him⟩ := h
  obtain ⟨-, -, -, halt, hdeq⟩ := id hi
  change execAlt t tile pos skip s = _
  rw [execAlt, State.issuer_of_issuing hi (State.asks_of_nextWord hn rfl)]
  simp only [him, halt, hdeq, hreplay, Bool.or_self, Bool.false_eq_true, if_false]

/-! ## Local SIGNAL (R133) -/

theorem State.wakeToken_of_none {s : State} {c : CtxIdx} {token : Nat}
    (h : ∀ im, (s.ctx c).image = some im → ∀ e ∈ im.tors, (s.tor (BitVec.ofNat 13 e.tor)).state ≠ 2) : s.wakeToken c token = s := by
  unfold State.wakeToken
  cases him : (s.ctx c).image with
  | none => rfl
  | some im =>
    have hnone := h im him
    dsimp only
    generalize im.tors = es at hnone
    induction es with
    | nil => rfl
    | cons e es ih =>
      have hne : ((s.tor (BitVec.ofNat 13 e.tor)).state == 2) = false := by simpa using hnone e List.mem_cons_self
      rw [List.foldl_cons, hne]
      exact ih fun e' he' => hnone e' (List.mem_cons_of_mem _ he')

@[simp] theorem State.recordCause_tor (s : State) (cause ordinal row tor : Nat) (t : TorIdx) :
    (s.recordCause cause ordinal row tor).tor t = s.tor t := rfl

/-- What a local SIGNAL sets and leaves where no tor waits for a token. -/
theorem State.signalLocal_of_none {s : State} {c : CtxIdx} {t : TorIdx} {token inc : Nat}
    (h : ∀ im, (s.ctx c).image = some im → ∀ e ∈ im.tors, (s.tor (BitVec.ofNat 13 e.tor)).state ≠ 2) :
    ((s.signalLocal c t token inc).ctx c).tokens =
        mapSet 0 (s.ctx c).tokens token (BitVec.ofNat 16 (min ((mapGet 0 (s.ctx c).tokens token).toNat + inc) 65535)) ∧
      ((s.signalLocal c t token inc).tor t).pc = (s.tor t).pc ∧ ((s.signalLocal c t token inc).tor t).later = (s.tor t).later ∧
      (s.signalLocal c t token inc).mem = s.mem ∧ (s.signalLocal c t token inc).links = s.links ∧
      (s.signalLocal c t token inc).pending = s.pending := by
  have hadd : s.addToken c token inc = State.setCtx
      (if decide (65535 < (mapGet 0 (s.ctx c).tokens token).toNat + inc) then s.recordCause 0x20 0 7 0 else s) c
      { s.ctx c with
        tokens := mapSet 0 (s.ctx c).tokens token (BitVec.ofNat 16 (min ((mapGet 0 (s.ctx c).tokens token).toNat + inc) 65535))
        tokenOverflow := (s.ctx c).tokenOverflow || decide (65535 < (mapGet 0 (s.ctx c).tokens token).toNat + inc) } := by
    refine State.wakeToken_of_none fun im him => ?_
    rw [State.setCtx_ctx_self] at him
    intro e he
    rw [State.setCtx_tor]
    split <;> exact h im him e he
  unfold State.signalLocal
  rw [hadd]
  dsimp only
  split <;> split <;>
    simp only [State.setTor_ctx, State.setCtx_ctx_self, State.setTor_tor_self, State.setTor_mem, State.setCtx_mem, State.setTor_links,
      State.setCtx_links, State.setTor_pending, State.setCtx_pending, State.setCtx_tor, State.recordCause_tor, State.recordCause_mem,
      State.recordCause_links, State.recordCause_pending, and_self]

/-- With nothing outstanding before it, a SIGNAL that is queued alone takes effect at once. -/
theorem State.settleLater_of_idle {s : State} {c : CtxIdx} {im : Sched} {t : TorIdx} {token inc : Nat} {sys : BitVec 15} {remote : Bool}
    (him : (s.ctx c).image = some im) (hlater : (s.tor t).later = [{ op := .signal token sys remote inc, passes := [], loads := [] }])
    (hrot : s.rotOpen (s.ctx c) im t = false)
    (hdone : (((s.setTor t { s.tor t with later := [] }).doLater c im t (.signal token sys remote inc)).tor t).later = []) :
    s.settleLater c t = (s.setTor t { s.tor t with later := [] }).doLater c im t (.signal token sys remote inc) := by
  have hend (u : State) (hu : (u.tor t).later = []) : u.runLater 1 c t = u := by
    rw [State.runLater, hu]
    cases (u.ctx c).image <;> rfl
  rw [State.settleLater, hlater, State.runLater, hlater, him]
  simp only [hrot, List.any_nil, Bool.or_self, Bool.false_eq_true, if_false]
  exact hend _ hdone

end Sys2Proof.Machine

open Sys2Proof Sys2Proof.Machine

/-- Settles O6: both words are their bodies at the address, range and words that the tor's state gives; the bytes of a VST lane
by lane (`memByte_storeFirst`). -/
theorem storeAccessWordsComplete : Obligations.StoreAccessWordsComplete := by
  refine ⟨fun s t c im o ecc h => ?_, fun m a v act bad b => memByte_storeFirst m a v act bad b 32⟩
  have hld := runsTo_of_issueWide (i := .vld t o ecc) h rfl rfl
  have hst := runsTo_of_issueWide (i := .vst t o ecc) h rfl rfl
  refine ⟨fun ha => ?noAddr, fun a ha hp => ?waits, fun a ha hp => ⟨fun hb => ?load, fun hb => ?loadFails, runsTo_vst h ecc ha hp⟩⟩
  case noAddr => exact ⟨by simpa only [ha] using hld, by simpa only [ha] using hst⟩
  case waits => exact ⟨by simpa only [ha, hp, if_true] using hld, by simpa only [ha, hp, if_true] using hst⟩
  case load => simpa only [ha, hp, hb, Bool.false_eq_true, if_false, List.isEmpty_nil, Bool.not_true] using hld
  case loadFails =>
    have hbad : ecc.bad.isEmpty = false := by simpa using hb
    simpa only [ha, hp, hbad, Bool.false_eq_true, if_false, Bool.not_false, if_true] using hld

/-- Settles O7: QNT and ROTQ share one body, `State.convWord`; DEQ asks for its planes before it decodes. -/
theorem conversionWordsComplete : Obligations.ConversionWordsComplete := by
  refine ⟨fun s t c im o ecc h => ?_, fun t o hpl => refusedAs_of_if (fun _ => rfl) hpl, fun s t c im o h hpl => ?_⟩
  · have hq := runsTo_of_issueWide (i := .qnt t o ecc) h rfl rfl
    have hr := runsTo_of_issueWide (i := .rotq t o ecc) h rfl rfl
    refine ⟨fun ha => ?noAddr, fun ha hp => ?waits, fun ha hp => ?runs⟩
    case noAddr =>
      simp only [ha, Bool.not_false, if_true] at hq hr
      exact ⟨hq, hr⟩
    case waits =>
      simp only [ha, hp, Bool.not_true, Bool.false_eq_true, if_false, if_true] at hq hr
      exact ⟨hq, hr⟩
    case runs =>
      simp only [ha, hp, Bool.not_true, Bool.false_eq_true, if_false] at hq hr
      refine ⟨fun hb => ?fails, fun hb => ?writes⟩
      case fails =>
        have hbad : ecc.bad.isEmpty = false := by simpa using hb
        simp only [hbad, Bool.not_false, if_true] at hq hr
        exact ⟨hq, hr⟩
      case writes =>
        simp only [hb, List.isEmpty_nil, Bool.not_true, Bool.false_eq_true, if_false] at hq hr
        refine ⟨fun qs hqs => ?_, fun hqs => ?_, fun qs hqs => ?_, fun hqs => ?_⟩
        · simpa only [hqs] using hq
        · simpa only [hqs] using hq
        · simpa only [hqs] using hr
        · simpa only [hqs] using hr
  · intro d x missing hreplay ha hp
    refine ⟨fun hm => ⟨fun s' hs' hn => ?decodes, fun k ks s' hs' hn => ?badBlock⟩, fun hm hn => ?fetches⟩
    case decodes => rw [exec_deq_of_issuing h hpl hn hreplay ha hp, if_pos hm, hs']
    case badBlock => rw [exec_deq_of_issuing h hpl hn hreplay ha hp, if_pos hm, hs']
    case fetches => rw [exec_deq_of_issuing h hpl hn hreplay ha hp, if_neg hm]

/-- Settles O8: both words are issued with their effect; a local SIGNAL with nothing before it takes effect at once
(`settleLater_of_idle`), and wakes no tor where none waits (`wakeToken_of_none`). -/
theorem tokenWordsComplete : Obligations.TokenWordsComplete := by
  refine ⟨⟨fun s t c im token count remote h => ?wait, fun s t c im token sys remote inc h hsys => ?signal,
    fun t token sys inc h => refusedAs_of_if (fun _ => rfl) ⟨rfl, h⟩⟩, fun s t c im token inc h hlater hpass hload hrot hwait hn => ?localSignal⟩
  case wait =>
    have hrun := runsTo_of_issueWide (i := .wait t token count remote) h rfl rfl
    exact ⟨fun hc => by simpa only [if_pos hc] using hrun, fun hc => by simpa only [if_neg hc] using hrun⟩
  case signal =>
    have hok : ¬ (!remote ∧ sys ≠ 0) := by
      rcases hsys with hr | hs
      · simp [hr]
      · simp [hs]
    exact runsTo_of_issueWide (i := .signal t token sys remote inc) h rfl (if_neg hok)
  case localSignal =>
    have hrun := runsTo_of_issueWide (i := .signal t token 0 false inc) h rfl rfl hn
    let r : Tor := { s.tor t with later := [{ op := .signal token.toNat 0 false inc.toNat, passes := [], loads := [] }] }
    have hpush : s.pushLater c t (.signal token.toNat 0 false inc.toNat) = s.setTor t r := by
      rw [State.pushLater, hlater, hpass, hload]
      rfl
    let u : State := ((s.setTor t r).setTor t r.next).setTor t { r.next with later := [] }
    have hnone : ∀ im', (u.ctx c).image = some im' → ∀ e ∈ im'.tors, (u.tor (BitVec.ofNat 13 e.tor)).state ≠ 2 := by
      intro im' him' e he
      cases h.2.symm.trans him'
      by_cases heq : BitVec.ofNat 13 e.tor = t
      · rw [heq, State.setTor_tor_self]
        have hstate := hwait e he
        rw [heq] at hstate
        exact hstate
      · rw [State.setTor_tor_ne _ _ _ _ heq, State.setTor_tor_ne _ _ _ _ heq, State.setTor_tor_ne _ _ _ _ heq]
        exact hwait e he
    obtain ⟨htok, hpc, hlat, hmem, hlinks, hpend⟩ := State.signalLocal_of_none (t := t) (token := token.toNat) (inc := inc.toNat) hnone
    have hsettle : (((s.pushLater c t (.signal token.toNat 0 false inc.toNat)).pcNext t).settleLater c t)
        = u.signalLocal c t token.toNat inc.toNat := by
      rw [hpush, State.pcNext, State.setTor_tor_self]
      have hidle := State.settleLater_of_idle (s := (s.setTor t r).setTor t r.next) (c := c) (t := t) (token := token.toNat)
        (inc := inc.toNat) (sys := 0) (remote := false) h.2 (by rw [State.setTor_tor_self]; rfl) hrot
      rw [State.setTor_tor_self] at hidle
      exact hidle (hlat.trans (by rw [State.setTor_tor_self]))
    refine ⟨u.signalLocal c t token.toNat inc.toNat, hrun.trans (congrArg _ hsettle), ?_, fun k hk => ?_, ?_, hmem, hlinks, hpend⟩
    · rw [htok, mapGet_mapSet_self, BitVec.toNat_ofNat, Nat.mod_eq_of_lt (by omega)]
      rfl
    · rw [htok, mapGet_mapSet_ne _ _ _ _ _ hk]
      rfl
    · rw [hpc, State.setTor_tor_self]
      rfl

/-- Settles O9: the words of the loader, the drain and the hand-over. -/
theorem streamWordsComplete : Obligations.StreamWordsComplete := by
  refine ⟨fun s t stream hfull => ?full, fun s t c im stream h hroom hn => ?load, fun s t c im stream hrun him hpre hroom hn => ?pre,
    fun s t c im stream ecc h => ?drain,
    fun s t c im desc tile chunk slot h => runsTo_of_issueWide (i := .hand t desc tile chunk slot) h rfl rfl,
    fun s t c im pre h => runsTo_of_issueWide (i := .cairn t pre) h rfl rfl⟩
  case full =>
    change execLdq t stream s = _
    rw [execLdq, if_pos hfull]
  case load =>
    have hw := State.asks_of_nextWord hn rfl
    obtain ⟨hrun, hstate, -⟩ := id h.1
    have hissues : (s.tor t).issuesPre = false := by simp [Tor.issuesPre, hstate]
    have hpre : s.preIssuer t = false := by simp [State.preIssuer, hissues]
    change execLdq t stream s = _
    rw [execLdq, if_neg (Nat.not_le.2 hroom), hrun]
    simp only [hpre, Bool.false_eq_true, if_false, State.issueWide_of_issuing h hw, State.queueLoad, h.2, Bool.not_false, if_true,
      Tor.wordAt, hissues]
    rfl
  case pre =>
    have hw := State.asks_of_nextWord hn rfl
    have hissues : (s.tor t).issuesPre = true := (Bool.and_eq_true_iff.1 hpre).2
    change execLdq t stream s = _
    rw [execLdq, if_neg (Nat.not_le.2 hroom), hrun]
    simp only [hpre, if_true, hw, State.queueLoad, him, Bool.not_true, Bool.false_eq_true, if_false, Tor.wordAt, hissues]
  case drain =>
    have hrun := runsTo_of_issueWide (i := .drq t ⟨stream, ecc⟩) h rfl rfl
    refine ⟨fun hb he => ?_, fun hb he => ?_, fun hb => ?_⟩
    · simp only [hb, he, Bool.false_eq_true, if_false, List.isEmpty_nil, Bool.not_true] at hrun
      exact hrun
    · have hbad : ecc.bad.isEmpty = false := by simpa using he
      simp only [hb, hbad, Bool.false_eq_true, if_false, Bool.not_false, if_true] at hrun
      exact hrun
    · simp only [hb, if_true] at hrun
      exact hrun

/-- Settles O14: ALT by its position and selector, SETTLE as a word with an effect of its own. -/
theorem alternateWordsComplete : Obligations.AlternateWordsComplete := by
  intro s t c im tile h
  refine ⟨fun skip hreplay => ⟨fun hsel hn => ?keep, fun a hsel ha hn => ?calls, fun hp hv hn => ?waits, fun hp hn => ?before⟩,
    fun desc => runsTo_of_issueWide (i := .settle t tile desc) h rfl rfl⟩
  case keep => rw [exec_alt_of_issuing h hn hreplay, if_pos rfl, State.altAfter, if_pos hsel, State.pcNext]
  case calls =>
    rw [exec_alt_of_issuing h hn hreplay, if_pos rfl, State.altAfter, if_neg hsel, ha]
    rfl
  case waits => rw [exec_alt_of_issuing h hn hreplay, if_neg Bool.false_ne_true, State.altBefore, if_pos ⟨hp, hv⟩]
  case before => rw [exec_alt_of_issuing h hn hreplay, if_neg Bool.false_ne_true]

end

section
/-! O10 and O12: tile words, the start, the waves, the end and the release of an unfused pass. Such a pass has one tor and no
partner, so each loop over the group is one step, and each command is its case's outcome. -/

namespace Sys2Proof.Machine
open Sys2Proof

/-! ## One tor alone -/

theorem State.group_of_unfused {s : State} {t : TorIdx} (h : s.fused t = false) : s.group t = [t] := by simp [State.group, h]

theorem State.leadOf_of_unfused {s : State} {t : TorIdx} (h : s.fused t = false) : s.leadOf t = t := by simp [State.leadOf, h]

/-! ## Changed delay bits -/

/-- Changed bits of delay copies leave what a tor has queued and holds. -/
theorem foldl_upsetDelay_passes (cube : Bool) (us : List DelayUpset) (r : Tor) :
    (us.foldl (Tor.upsetDelay cube) r).passes = r.passes := by
  induction us generalizing r with
  | nil => rfl
  | cons u us ih =>
    rw [List.foldl_cons, ih]
    cases cube <;> rfl

/-- Of an unfused tor only the changed bits of its own copies count. -/
theorem State.upsetDelays_alone (s : State) (t : TorIdx) (cube : Bool) (us : List DelayUpset) (h : (s.tor t).passes ≠ []) :
    (∀ x, (s.upsetDelays [t] cube us).setTor t x = s.setTor t x) ∧ (s.upsetDelays [t] cube us).ctxs = s.ctxs ∧
      (s.upsetDelays [t] cube us).tor t = (us.filter (fun u => u.tor == 0)).foldl (Tor.upsetDelay cube) (s.tor t) := by
  induction us generalizing s with
  | nil => exact ⟨fun _ => rfl, rfl, rfl⟩
  | cons u us ih =>
    by_cases hu : u.tor = 0
    · have hstep : s.upsetDelays [t] cube (u :: us) = (s.setTor t ((s.tor t).upsetDelay cube u)).upsetDelays [t] cube us := by
        simp [State.upsetDelays, hu]
      have hpasses : ((s.tor t).upsetDelay cube u).passes = (s.tor t).passes := foldl_upsetDelay_passes cube [u] (s.tor t)
      have hne : (s.tor t).upsetDelay cube u ≠ {} := fun he => h (by rw [← hpasses, he])
      obtain ⟨hset, hctxs, htor⟩ := ih (s.setTor t ((s.tor t).upsetDelay cube u)) (by rw [State.setTor_tor_self, hpasses]; exact h)
      rw [hstep]
      refine ⟨fun x => (hset x).trans (State.setTor_setTor s t _ x hne), hctxs, ?_⟩
      rw [htor, State.setTor_tor_self, List.filter_cons_of_pos (by simpa using hu), List.foldl_cons]
    · have hget : [t][u.tor.toNat]? = none := by
        have : u.tor.toNat ≠ 0 := fun h0 => hu (BitVec.eq_of_toNat_eq h0)
        simpa using this
      have hstep : s.upsetDelays [t] cube (u :: us) = s.upsetDelays [t] cube us := by
        simp only [State.upsetDelays, List.foldl_cons, hget]
      rw [hstep, List.filter_cons_of_neg (by simpa using hu)]
      exact ih s h

/-! ## Tile words -/

theorem exec_tmm {t : TorIdx} {o : TileOp} (ha : o.apl ≠ 3) (hb : o.bpl ≠ 3) (s : State) : exec (.tmm t o) s = .next (s.tileWord t false o) :=
  if_neg (not_or.2 ⟨ha, hb⟩)

theorem exec_tconv {t : TorIdx} {o : TileOp} (ha : o.apl ≠ 3) (hb : o.bpl ≠ 3) (s : State) :
    exec (.tconv t o) s = .next (s.tileWord t true o) :=
  if_neg (not_or.2 ⟨ha, hb⟩)

/-- A full pass queue stalls a tile word, whoever issues it. -/
theorem State.tileWord_of_full {s : State} {t : TorIdx} (h : 9 ≤ (s.tor t).queued) (conv : Bool) (o : TileOp) : s.tileWord t conv o = s := by
  simp only [State.tileWord, State.issueWide, if_pos h]
  split
  · rfl
  · split
    · rfl
    · split <;> rfl

theorem State.tileWord_of_issuing {s : State} {t : TorIdx} {c : CtxIdx} {im : Sched} {conv : Bool} {o : TileOp} (h : s.issuingOf t c im)
    (hroom : (s.tor t).queued < 9) (hw : s.asks c t (encTile (if conv then 0x11 else 0x10) o) = true) :
    s.tileWord t conv o = (s.setTor t { (s.tor t).next with
      passes := (s.tor t).passes ++ [{ conv := conv, op := o, rung := (im.drain t.toNat o.drain.toNat).rung, uid := (s.tor t).tileSeq }]
      tileSeq := (s.tor t).tileSeq + 1 }).progress c t := by
  rw [State.tileWord, State.issueWide_of_issuing h hw, if_neg (Nat.not_le.2 hroom)]
  rfl

/-! ## The start of a pass -/

/-- The head of the queue of tor t enters the array of a state that differs from s in tor t alone. -/
theorem State.enterPass_of_same {u s : State} {c : CtxIdx} {im : Sched} {t : TorIdx} {q : PassReq} {rest : List PassReq}
    (hset : ∀ x, u.setTor t x = s.setTor t x) (hctx : u.ctxs = s.ctxs) (hq : (u.tor t).passes = q :: rest) :
    u.enterPass c im t = s.setTor t { u.tor t with
      passes := rest, pass := some (s.newPass c im t q), tail := if (u.tor t).pass.isSome then (u.tor t).pass else (u.tor t).tail } := by
  have hnew : u.newPass c im t q = s.newPass c im t q := by simp only [State.newPass, State.ctx, hctx]
  rw [State.enterPass, hq]
  simp only [hset, hnew]

theorem State.headsAgree_of_unfused {s : State} {t : TorIdx} {q : PassReq} {rest : List PassReq} (h : s.fused t = false)
    (hq : (s.tor t).passes = q :: rest) : s.headsAgree t = true := by
  simp [State.headsAgree, State.group_of_unfused h, hq]

/-! ## A pass alone in the array -/

/-- What a wave of its one pass does in a tor. -/
def aloneStep (t : TorIdx) (w : WaveRes) (o : WaveObs) : TorStep := { tor := t, tail := none, pass := some w, obs := o }

theorem aloneStep_needs (t : TorIdx) (w : WaveRes) (o : WaveObs) : (aloneStep t w o).needs = (List.range 4).map (nth 0 w.needs) := by
  simp [aloneStep, TorStep.needs]

/-- A pass is alone in its tor's array. -/
structure State.Alone (s : State) (t : TorIdx) (p : Pass) : Prop where
  unfused : s.fused t = false
  tail : (s.tor t).tail = none
  pass : (s.tor t).pass = some p

theorem Tor.ne_reset_of_pass {r : Tor} {p : Pass} (h : r.pass = some p) : r ≠ {} := fun he => by
  rw [he] at h
  cases h

section Alone
variable {s : State} {t : TorIdx} {p : Pass} (h : s.Alone t p)
include h

theorem State.Alone.heldUp (hrun : p.wave < s.totalWaves t p) : s.heldUp t = false := by
  simp [State.heldUp, Tor.inArray, h.tail, h.pass, State.running, hrun]

theorem State.Alone.inArray_running (hrun : p.wave < s.totalWaves t p) :
    ((s.tor t).inArray.any fun p => s.running t p) = true := by
  simp [Tor.inArray, h.tail, h.pass, State.running, hrun]

theorem State.Alone.groupWave (o : WaveObs) :
    s.groupWave [t] [o] = (s.torWave t false p o).map fun w => [aloneStep t w o] := by
  cases hw : s.torWave t false p o <;> simp [State.groupWave, nth, Tor.slot, h.tail, h.pass, hw, aloneStep]

/-- What an unfused tor takes of a wave of its one pass. -/
theorem State.Alone.takeWave (w : WaveRes) (o : WaveObs) :
    s.takeWave (aloneStep t w o) = s.setTor t { (s.tor t).noteEcc o.ecc with
      pass := some { w.pass with wave := w.pass.wave + 1 }
      queues := List.zipWith (· + ·) (s.tor t).queues ((List.range 4).map (nth 0 w.needs))
      rowBuffer := w.rowBuffer.foldl (fun m e => regPut m e.1 e.2) (s.tor t).rowBuffer
      feeders := w.feeders.foldl (fun m e => regPut m e.1 e.2) (s.tor t).feeders } := by
  have htail : ((s.tor t).noteEcc o.ecc).tail = none := h.tail
  rw [State.takeWave, aloneStep_needs]
  simp [aloneStep, htail]

end Alone

/-- With no older pass in the array there is none to fail. -/
theorem State.failWith_old_of_none {s : State} {t : TorIdx} (h : (s.tor t).tail = none) (c : CtxIdx) (im : Sched)
    (z row : Nat) : s.failWith c im t true [(t, z, row)] = s := by
  simp [State.failWith, Tor.slot, h]

/-- A wave's observations fail no older pass where there is none. -/
theorem State.endBadWave_old_of_none {s : State} {t : TorIdx} (h : (s.tor t).tail = none) (c : CtxIdx) (im : Sched) (w : WaveRes)
    (o : WaveObs) (reads : Bool) : s.endBadWave c im t [aloneStep t w o] true reads = s := by
  have hcs : waveCauses [aloneStep t w o] true reads = if reads && !o.ecc.bad.isEmpty then [(t, 0x08, 7)] else [] := by
    simp [waveCauses, TorStep.slot, aloneStep]
  have hmet : metCauses [aloneStep t w o] true = [] := by simp [metCauses, TorStep.slot, aloneStep]
  rw [State.endBadWave, hcs, hmet]
  split
  · exact State.failWith_old_of_none h c im 0x08 7
  · rfl

/-- The causes that a wave of one pass has met. -/
def aloneCauses (t : TorIdx) (w : WaveRes) (o : WaveObs) (newest : Bool) : List (TorIdx × Nat × Nat) :=
  w.causes.map (fun z => (t, z)) ++ (if newest && !o.ecc.bad.isEmpty then [(t, 0x08, 7)] else [])

theorem State.endBadWave_new (s : State) (t : TorIdx) (c : CtxIdx) (im : Sched) (w : WaveRes) (o : WaveObs) (newest : Bool) :
    s.endBadWave c im t [aloneStep t w o] false newest = if aloneCauses t w o newest = [] then s
      else s.failWith c im t false ((aloneCauses t w o newest ++ w.pass.met.map (fun m => (t, m.cause, m.phys))).eraseDups) := by
  have hcs : waveCauses [aloneStep t w o] false newest = aloneCauses t w o newest := by
    simp [waveCauses, TorStep.slot, aloneCauses, aloneStep]
  have hmet : metCauses [aloneStep t w o] false = w.pass.met.map (fun m => (t, m.cause, m.phys)) := by
    simp [metCauses, TorStep.slot, aloneStep]
  rw [State.endBadWave, hcs, hmet]
  simp

/-- A WAVE of a pass alone in its array: it freezes where a slice or a queue's room is lacking, and else runs. -/
theorem exec_wave_of_alone {s : State} {t : TorIdx} {c : CtxIdx} {im : Sched} {p : Pass} (h : s.Alone t p) (hrun : s.runner t = some c)
    (him : (s.ctx c).image = some im) (hmore : p.wave < s.totalWaves t p) (o : WaveObs) :
    exec (.wave t [o]) s = .next (match s.torWave t false p o with
      | none => s.freeze [t]
      | some w =>
        if (List.zip (s.tor t).queues ((List.range 4).map (nth 0 w.needs))).any (fun q => q.1 != 0 && decide (32 < q.1 + q.2))
        then s.freeze [t]
        else ((((s.takeWave (aloneStep t w o)).endBadWave c im t
          [aloneStep t w o] true (!decide (p.wave < p.waves))).endBadWave c im t
          [aloneStep t w o] false (decide (p.wave < p.waves))).drainQueues [t])) := by
  change execWave t [o] s = _
  rw [execWave, hrun]
  simp only [him, State.group_of_unfused h.unfused, State.leadOf_of_unfused h.unfused, h.heldUp hmore, h.inArray_running hmore,
    h.groupWave, ne_eq, not_true_eq_false, if_false, Bool.false_eq_true, Bool.not_true, h.pass, Option.any_some]
  cases s.torWave t false p o with
  | none => rfl
  | some w =>
    simp only [Option.map_some, List.any_cons, List.any_nil, Bool.or_false, aloneStep_needs]
    rfl

/-! ## The end of a pass -/

theorem Pass.upset_drain (p : Pass) (us : List (Byte × Byte)) : (p.upset us).drain = p.drain := by
  unfold Pass.upset
  induction us generalizing p with
  | nil => rfl
  | cons u us ih => exact (ih _).trans rfl

/-- The causes that end a pass alone in its array: its residues, a value that is not finite, a word of the tor store. -/
def endCauses (s : State) (t : TorIdx) (p : Pass) (z : Drained) (lost : Bool) : List (TorIdx × Nat × Nat) :=
  p.badRows.map (fun l => (t, 0x01, physRow (s.tor t).rowOut l)) ++ (if z.nan then [(t, 0x07, 7)] else [])
    ++ (if lost then [(t, 0x08, 7)] else [])

/-- A failure of the one pass of an unfused tor does not depend on whether the tor was written just before. -/
theorem State.failWith_setTor_tor {s : State} {t : TorIdx} {p : Pass} (h : s.Alone t p) (c : CtxIdx) (im : Sched)
    {cs : List (TorIdx × Nat × Nat)} (hne : cs ≠ []) (hcs : ∀ e ∈ cs, e.1 = t) :
    (s.setTor t (s.tor t)).failWith c im t false cs = s.failWith c im t false cs := by
  have hself : (s.setTor t (s.tor t)).tor t = s.tor t := State.setTor_tor_self ..
  have hset (x : Tor) : (s.setTor t (s.tor t)).setTor t x = s.setTor t x := State.setTor_setTor s t _ x (Tor.ne_reset_of_pass h.pass)
  have hgroup : (s.setTor t (s.tor t)).group t = [t] := State.group_of_unfused h.unfused
  have hfail (p : Pass) (cause row others : Nat) : (s.setTor t (s.tor t)).failPass c im t false p cause row others
      = s.failPass c im t false p cause row others := by
    simp only [State.failPass, hgroup, State.group_of_unfused h.unfused, List.foldl_cons, List.foldl_nil, hself, hset]
  unfold State.failWith
  cases hsort : cs.mergeSort (fun a b => decide (causeRank a.2.1 ≤ causeRank b.2.1)) with
  | nil => exact absurd (List.length_eq_zero_iff.1 (by rw [← List.length_mergeSort, hsort]; rfl)) hne
  | cons e rest =>
    obtain ⟨u, z, row⟩ := e
    have hu : u = t := hcs (u, z, row) (List.mem_mergeSort.1 (hsort ▸ List.mem_cons_self))
    subst hu
    simp only [hself, Tor.slot, Bool.false_eq_true, if_false, h.pass, hfail]

theorem endCauses_tor {s : State} {t : TorIdx} {p : Pass} {z : Drained} {lost : Bool} : ∀ e ∈ endCauses s t p z lost, e.1 = t := by
  simp only [endCauses, List.mem_append, List.mem_map]
  rintro e ((⟨l, -, rfl⟩ | he) | he)
  · rfl
  · split at he <;> simp_all
  · split at he <;> simp_all

theorem endCauses_eq_nil {s : State} {t : TorIdx} {p : Pass} {z : Drained} {lost : Bool} :
    endCauses s t p z lost = [] ↔ p.badRows = [] ∧ z.nan = false ∧ lost = false := by
  simp only [endCauses, List.append_eq_nil_iff, List.map_eq_nil_iff]
  cases z.nan <;> cases lost <;> simp

/-- The tor whose pass has entered the drain. -/
def Tor.drainPass (r : Tor) (p : Pass) (z : Drained) : Tor :=
  { Tor.dropOperands { r with pass := none } p.req.uid with
    failedTiles := r.failedTiles.filter (· != p.req.op.tile.toNat)
    drains := if r.stopped && DrainEntry.norm p.drain then r.drains else r.drains ++
      [{ uid := p.req.uid, tile := p.req.op.tile.toNat, drain := p.drain, ceiling := p.od.ceiling, blocks := z.blocks, raw := z.raw,
         counts := Counts.sum {} z.counts, norm := DrainEntry.norm p.drain, rung := p.req.rung, sat32 := z.sat32,
         logNorm := if DrainEntry.norm p.drain then logNorm z.norm p.od.ceiling else 0 }] }

theorem State.enterDrain_new (s : State) (t : TorIdx) (p : Pass) (z : Drained) :
    s.enterDrain false (Counts.sum {} z.counts) z.norm z.sat32 (t, p, z) = s.setTor t ((s.tor t).drainPass p z) := rfl

theorem exec_tilePassEnd_of_alone {s : State} {t : TorIdx} {c : CtxIdx} {im : Sched} {p : Pass} (h : s.Alone t p)
    (hrun : s.runner t = some c) (him : (s.ctx c).image = some im) (hdone : s.totalWaves t p ≤ p.wave)
    (hqueues : (s.tor t).queues.all (· == 0) = true) (hroom : (s.tor t).drains.length < 2) (us : List RegisterUpset) (ecc : EccObs) :
    let p' := p.upset ((us.filter (fun u => u.tor == 0)).map (fun u => (u.elem, u.bit)))
    let z := s.drained c im t p'
    let part := DrainEntry.toStore p.drain
    let r := if part then (s.tor t).noteEcc ecc else s.tor t
    exec (.tilePassEnd t us [ecc]) s = .next (if endCauses s t p' z (part && !ecc.bad.isEmpty) = []
      then (s.setTor t (r.drainPass p' z)).progress c t
      else (s.setTor t r).failWith c im t false (endCauses s t p' z (part && !ecc.bad.isEmpty))) := by
  intro p' z part r
  have hold : (s.tor t).tail.isSome = false := by rw [h.tail]; rfl
  have hslot : (s.tor t).slot false = some p := h.pass
  have hrunning : s.running t p = false := by simp [State.running, hdone]
  have hempty : s.queuesEmpty [t] = true := by simp [State.queuesEmpty, hqueues]
  have hfull : s.drainsFull [t] = false := by simp [State.drainsFull, hroom]
  have hus : us.filter (fun v => v.tor.toNat == 0) = us.filter (fun v => v.tor == 0) :=
    List.filter_congr fun v _ => by
      rw [Bool.eq_iff_iff, beq_iff_eq, beq_iff_eq]
      exact ⟨fun he => BitVec.eq_of_toNat_eq he, fun he => by rw [he]; rfl⟩
  change execTilePassEnd t us [ecc] s = _
  rw [execTilePassEnd, hrun]
  simp only [him, hold, hslot, State.leadOf_of_unfused h.unfused, State.group_of_unfused h.unfused, hrunning, hempty, hfull, ne_eq,
    not_true_eq_false, Bool.false_eq_true, Bool.not_true, or_self, if_false, List.zipIdx_cons, List.zipIdx_nil, List.zip_cons_cons,
    List.zip_nil_left, List.filterMap_cons, List.filterMap_nil, Option.map_some, hus, List.filter_cons, List.filter_nil, Option.any_some,
    List.foldl_cons, List.foldl_nil, List.flatMap_cons, List.flatMap_nil, List.append_nil]
  have hite (l : List (TorIdx × Nat × Nat)) (x y : State) : (if (!l.isEmpty) = true then x else y) = if l = [] then y else x := by
    cases l <;> rfl
  rw [show p.upset ((us.filter (fun v => v.tor == 0)).map (fun v => (v.elem, v.bit))) = p' from rfl, show s.drained c im t p' = z from rfl]
  have hnan : (if z.nan = true then [(t, p', z)] else []).map (fun w => (w.1, 0x07, 7)) = if z.nan then [(t, 0x07, 7)] else [] := by
    split <;> rfl
  cases hpart : DrainEntry.toStore p.drain with
  | false =>
    have hcs : endCauses s t p' z (part && !ecc.bad.isEmpty) = p'.badRows.map (fun l => (t, 0x01, physRow (s.tor t).rowOut l))
        ++ (if z.nan then [(t, 0x07, 7)] else []) := by simp [endCauses, part, hpart]
    have hr : r = s.tor t := by simp [r, part, hpart]
    rw [hr]
    simp only [Bool.false_eq_true, if_false, List.foldl_nil, List.filter_nil, List.map_nil, List.append_nil, hite, Nat.zero_add, hnan]
    rw [← hcs, State.enterDrain_new]
    by_cases hnil : endCauses s t p' z (part && !ecc.bad.isEmpty) = []
    · rw [if_pos hnil, if_pos hnil]
    · rw [if_neg hnil, if_neg hnil, State.failWith_setTor_tor h c im hnil endCauses_tor]
  | true =>
    have hcs : endCauses s t p' z (part && !ecc.bad.isEmpty) = p'.badRows.map (fun l => (t, 0x01, physRow (s.tor t).rowOut l))
        ++ (if z.nan then [(t, 0x07, 7)] else []) ++ (if !ecc.bad.isEmpty then [(t, 0x08, 7)] else []) := by
      simp [endCauses, part, hpart]
    have hlost : (if (!ecc.bad.isEmpty) = true then [(t, ecc)] else []).map (fun e => (e.1, 0x08, 7))
        = if !ecc.bad.isEmpty then [(t, 0x08, 7)] else [] := by split <;> rfl
    have hr : r = (s.tor t).noteEcc ecc := by simp [r, part, hpart]
    have hset (x : Tor) : (s.setTor t ((s.tor t).noteEcc ecc)).setTor t x = s.setTor t x :=
      State.setTor_setTor s t _ x (Tor.ne_reset_of_pass (p := p) h.pass)
    rw [hr, hcs]
    simp only [if_true, List.foldl_cons, List.foldl_nil, List.filter_cons, List.filter_nil, hite, Nat.zero_add, hnan, hlost,
      State.setTor_tor_self, State.enterDrain_new, hset]
    rfl

end Sys2Proof.Machine

open Sys2Proof Sys2Proof.Machine

/-- Settles O10: a tile word stalls on a full queue or enters it; the start of an unfused pass writes one tor, whatever bits of
its delay copies changed before. -/
theorem tileWordsComplete : Obligations.TileWordsComplete := by
  refine ⟨⟨fun s t c im o h ha hb => ?words, fun t o h => ⟨refusedAs_of_if (fun _ => rfl) h, refusedAs_of_if (fun _ => rfl) h⟩⟩,
    fun s t c im q rest bs cs hrun him hf hroom hq => ?start⟩
  case words =>
    refine ⟨fun hroom => ⟨fun hn => ?_, fun hn => ?_⟩, fun hfull => ⟨?_, ?_⟩⟩
    · have hw : s.asks c t (encTile 0x10 o) = true := State.asks_of_nextWord hn rfl
      exact (exec_tmm ha hb s).trans (congrArg _ (State.tileWord_of_issuing (conv := false) h hroom hw))
    · have hw : s.asks c t (encTile 0x11 o) = true := State.asks_of_nextWord hn rfl
      exact (exec_tconv ha hb s).trans (congrArg _ (State.tileWord_of_issuing (conv := true) h hroom hw))
    · rw [exec_tmm ha hb, State.tileWord_of_full hfull]
    · rw [exec_tconv ha hb, State.tileWord_of_full hfull]
  case start =>
    intro r0 r s' bad
    have hne : (s.tor t).passes ≠ [] := by simp [hq]
    have hexec : exec (.tilePassStart t bs cs) s = .next (if (bad.map fun l => (t, 0x0A, physRow r.rowOut l)).isEmpty
        then s'.progress c t else s'.failWith c im t false (bad.map fun l => (t, 0x0A, physRow r.rowOut l))) := by
      obtain ⟨hset1, hctx1, htor1⟩ := s.upsetDelays_alone t false bs hne
      have hne1 : ((s.upsetDelays [t] false bs).tor t).passes ≠ [] := by rw [htor1, foldl_upsetDelay_passes]; exact hne
      obtain ⟨hset2, hctx2, htor2⟩ := (s.upsetDelays [t] false bs).upsetDelays_alone t true cs hne1
      change execTilePassStart t bs cs s = _
      rw [execTilePassStart, hrun]
      simp only [him, State.group_of_unfused hf, State.leadOf_of_unfused hf, State.headsAgree_of_unfused hf hq, hroom,
        List.all_cons, List.all_nil, Bool.and_self, and_self, not_true_eq_false, ne_eq, or_self, if_false,
        List.foldl_cons, List.foldl_nil, List.flatMap_cons, List.flatMap_nil, List.append_nil]
      have hq2 : (((s.upsetDelays [t] false bs).upsetDelays [t] true cs).tor t).passes = q :: rest := by
        rw [htor2, foldl_upsetDelay_passes, htor1, foldl_upsetDelay_passes, hq]
      rw [State.enterPass_of_same (fun x => (hset2 x).trans (hset1 x)) (hctx2.trans hctx1) hq2, htor2, htor1, State.setTor_tor_self]
      rfl
    refine ⟨fun hok => ?_, fun hbad => ?_⟩
    · rw [hexec, hok]
      rfl
    · rw [hexec, if_neg (by simpa using hbad)]

/-- Settles O12: a pass alone in its array has one slot and one tor; what its waves and its end do is read off from
`exec_wave_of_alone` and `exec_tilePassEnd_of_alone`. -/
theorem tilePassRuns : Obligations.TilePassRuns := by
  refine ⟨fun s t c im p o hrun him hf htail hpass hmore => ?wave,
    fun s t c im p us ecc hrun him hf htail hpass hdone hqueues hroom => ?ends, fun s t c im hrun him => ?release⟩
  case wave =>
    have h : s.Alone t p := ⟨hf, htail, hpass⟩
    have hexec := exec_wave_of_alone h hrun him hmore o
    refine ⟨fun hw => by rw [hexec, hw], fun w hw => ?_⟩
    intro needs full cs s'
    have htake : s.takeWave (aloneStep t w o) = s' := h.takeWave w o
    have hold : (s'.tor t).tail = none := by
      rw [State.setTor_tor_self]
      exact htail
    rw [hw] at hexec
    dsimp only at hexec
    rw [htake, State.endBadWave_old_of_none hold, State.endBadWave_new] at hexec
    refine ⟨fun hf => by rw [hexec, if_pos hf], fun hf hc => ?_, fun hf hc => ?_⟩
    · change aloneCauses t w o (decide (p.wave < p.waves)) = [] at hc
      rw [hexec, if_neg (Bool.eq_false_iff.1 hf), if_pos hc]
    · change aloneCauses t w o (decide (p.wave < p.waves)) ≠ [] at hc
      rw [hexec, if_neg (Bool.eq_false_iff.1 hf), if_neg hc]
      rfl
  case ends =>
    have h : s.Alone t p := ⟨hf, htail, hpass⟩
    have hexec := exec_tilePassEnd_of_alone h hrun him hdone hqueues hroom us ecc
    intro p' z tile n part r0 lost r
    refine ⟨fun hrows hnan hlost => ?_, fun hbad => ?_⟩
    · refine hexec.trans ?_
      rw [if_pos (endCauses_eq_nil.2 ⟨hrows, hnan, hlost⟩)]
      cases hpart : DrainEntry.toStore p.drain with
      | false =>
        simp only [r, r0, part, hpart, Bool.false_eq_true, if_false]
        rfl
      | true =>
        simp only [r, r0, part, hpart, if_true]
        rfl
    · refine hexec.trans (congrArg _ (if_neg fun hnil => ?_))
      obtain ⟨hrows, hnan, hlost⟩ := endCauses_eq_nil.1 hnil
      rcases hbad with h1 | h1 | h1
      · exact h1 hrows
      · exact Bool.false_ne_true (hnan.symm.trans h1)
      · exact Bool.false_ne_true (hlost.symm.trans h1)
  case release =>
    have hexec : exec (.drainRelease t) s = execDrainRelease t s := rfl
    refine ⟨fun hb => ?_, fun b hb => ?_⟩
    · rw [hexec, execDrainRelease, hrun]
      simp only [him, hb]
    · rw [hexec, execDrainRelease, hrun]
      simp only [him, hb]
      refine ⟨fun hraw => ?_, fun hraw => ?_⟩
      · rw [if_pos (List.isEmpty_iff.2 hraw)]
        rfl
      · rw [if_neg (mt List.isEmpty_iff.1 hraw)]
        rfl

end

section
/-! O11: residues modulo 127. A residue of a sum is the sum of the residues, that of a product their product, and a shift by s
multiplies by 2^(s mod 7), since 2^7 is 1 modulo 127; so with no upset every residue of a wave follows its register. -/

namespace Sys2Proof.Machine
open Sys2Proof

/-! ## Residues modulo 127 (R87) -/

theorem mod127_cast (x : Int) : (mod127 x : Int) = x % 127 := Int.toNat_of_nonneg (Int.emod_nonneg x (by decide))

theorem mod127_add (x y : Int) : mod127 (x + y) = (mod127 x + mod127 y) % 127 := by
  have h : (mod127 (x + y) : Int) = ((mod127 x + mod127 y) % 127 : Nat) := by
    push_cast
    rw [mod127_cast, mod127_cast, mod127_cast, ← Int.add_emod]
  exact_mod_cast h

theorem mod127_mul (x y : Int) : mod127 (x * y) = mod127 x * mod127 y % 127 := by
  have h : (mod127 (x * y) : Int) = (mod127 x * mod127 y % 127 : Nat) := by
    push_cast
    rw [mod127_cast, mod127_cast, mod127_cast, ← Int.mul_emod]
  exact_mod_cast h

/-- 2^n modulo 127 depends on n modulo 7. -/
theorem two_pow_mod_127 (n : Nat) : 2 ^ n % 127 = 2 ^ (n % 7) % 127 := by
  calc 2 ^ n % 127 = 2 ^ (7 * (n / 7) + n % 7) % 127 := by rw [Nat.div_add_mod]
    _ = (2 ^ 7 % 127) ^ (n / 7) % 127 * (2 ^ (n % 7) % 127) % 127 := by rw [Nat.pow_add, Nat.pow_mul, Nat.mul_mod, Nat.pow_mod]
    _ = 2 ^ (n % 7) % 127 := by simp

/-- The residue of a value shifted left is `res127` of its residue. -/
theorem mod127_shift (x : Int) {s : Int} (hs : 0 ≤ s) : mod127 (x * 2 ^ s.toNat) = res127 (mod127 x) s := by
  obtain ⟨n, rfl⟩ := Int.eq_ofNat_of_zero_le hs
  have hpow : mod127 ((2 : Int) ^ n) = 2 ^ n % 127 := by
    have h : (mod127 ((2 : Int) ^ n) : Int) = (2 ^ n % 127 : Nat) := by
      rw [mod127_cast]
      push_cast
      rfl
    exact_mod_cast h
  have hmod : ((n : Int).emod 7).toNat = n % 7 := by
    change ((n : Int) % (7 : Nat)).toNat = n % 7
    rw [← Int.natCast_emod, Int.toNat_natCast]
  rw [res127, hmod, mod127_mul, Int.toNat_natCast, hpow, two_pow_mod_127, Nat.mul_mod_mod]

/-! ## One wave of one element -/

/-- The residues of a K-step's products agree with the products. -/
structure Products.Agree (r : Products) : Prop where
  bad : r.bad = false
  sum : mod127 r.sum = r.res
  outs : ∀ o ∈ r.outs, mod127 o.val = o.res

theorem Products.Agree.addOutlier {r : Products} (h : r.Agree) (pz : Nat) (x y q : Int) :
    Products.Agree (if pz ≠ 0 then r else
      { r with outs := r.outs ++ [{ val := x * y, res := mod127 x * mod127 y % 127, q := q }]
               bad := r.bad || mod127 (x * y) != mod127 x * mod127 y % 127 }) := by
  split
  · exact h
  · refine ⟨by simp [h.bad, mod127_mul], h.sum, fun o ho => ?_⟩
    rcases List.mem_append.1 ho with ho | ho
    · exact h.outs o ho
    · rw [List.mem_singleton.1 ho]
      exact mod127_mul x y

/-- With no upset every residue point of the products agrees. -/
theorem cellProducts_agree (digA : Bool) (pz : Nat) (a b : Slice) : (cellProducts digA pz a b []).Agree := by
  unfold cellProducts
  refine List.foldlRecOn _ _ ⟨rfl, rfl, fun o ho => absurd ho List.not_mem_nil⟩ fun r hr ab hab => ?_
  clear hab
  obtain ⟨⟨x, y⟩, k⟩ := ab
  cases x <;> cases y
  case num.num x y =>
    refine ⟨by simp only [flipped, List.foldl_nil, hr.bad, mod127_mul, bne_self_eq_false, Bool.or_self], ?_, hr.outs⟩
    change mod127 (r.sum + _) = _
    rw [mod127_add, hr.sum]
    exact congrArg (fun n => (r.res + n) % 127) (mod127_mul _ _)
  case esc.num x y => exact hr.addOutlier pz x y _
  case num.esc x y => exact hr.addOutlier pz x y _
  case esc.esc x y => exact hr.addOutlier pz x y _

/-- The exact register after the outlier products of a wave, each shifted by what `sh` gives it. -/
def Cell.addOuts (sh : OutProduct → Int) (g : Cell) (outs : List OutProduct) : Cell :=
  outs.foldl (fun g o => { g with exact := g.exact + o.val * 2 ^ (sh o).toNat, res := (g.res + res127 o.res (sh o)) % 127 }) g

theorem Cell.addOuts_agree {sh : OutProduct → Int} {outs : List OutProduct} (hsh : ∀ o ∈ outs, 0 ≤ sh o)
    (houts : ∀ o ∈ outs, mod127 o.val = o.res) {g : Cell} (hg : mod127 g.exact = g.res) :
    mod127 (g.addOuts sh outs).exact = (g.addOuts sh outs).res := by
  refine List.foldlRecOn (motive := fun g : Cell => mod127 g.exact = g.res) outs _ hg fun r hr o ho => ?_
  rw [mod127_add, mod127_shift o.val (hsh o ho), houts o ho, hr]

end Sys2Proof.Machine

open Sys2Proof Sys2Proof.Machine

/-- Settles O11: the products' residues agree (`cellProducts_agree`), a sum in range passes the segment register unchanged, and
where no span cause is reported every shift is a shift to the left (`mod127_shift`). -/
theorem residuesFollowRegisters : Obligations.ResiduesFollowRegisters := by
  intro digA pz anchor a b fold g hseg hexact hlo hhi hglo hghi
  have hz := cellProducts_agree digA pz a b
  have hflip (v : Int) (h1 : -(2 ^ 35) ≤ v) (h2 : v < 2 ^ 35) : (BitVec.ofInt 36 v).toInt = v := by
    rw [BitVec.toInt_ofInt]
    exact Int.bmod_eq_of_le (by omega) (by omega)
  unfold cellStep
  simp only [List.foldl_nil]
  split
  · rw [hflip _ hglo hghi]
    exact ⟨List.not_mem_nil, fun _ => ⟨hseg, hexact⟩⟩
  · simp only [hflip _ hlo hhi]
    generalize cellProducts digA pz a b [] = z at *
    have hsum : mod127 (g.seg + z.sum) = (g.segRes + z.res) % 127 := by rw [mod127_add, hseg, hz.sum]
    have hres : (z.bad || fold && mod127 (g.seg + z.sum) != (g.segRes + z.res) % 127) = false := by simp [hz.bad, hsum]
    rw [hres, if_neg Bool.false_ne_true, List.nil_append]
    refine ⟨by split <;> decide, fun hspan => ?_⟩
    have hok := fun h => show False from absurd (hspan.symm.trans (if_pos h)) (List.cons_ne_nil _ _).symm
    have houts : ∀ o ∈ z.outs, 0 ≤ a.e + b.e - o.q - anchor := fun o ho => by
      refine Decidable.byContradiction fun hneg => hok (Bool.or_eq_true_iff.2 (.inr (List.any_eq_true.2 ⟨o, ho, ?_⟩)))
      simp only [Bool.or_eq_true, decide_eq_true_eq]
      omega
    have hagree : mod127 (g.addOuts (fun o => a.e + b.e - o.q - anchor) z.outs).exact
        = (g.addOuts (fun o => a.e + b.e - o.q - anchor) z.outs).res := Cell.addOuts_agree houts hz.outs hexact
    cases fold with
    | false => exact ⟨hsum, hagree⟩
    | true =>
      have hsh : 0 ≤ a.e + b.e - a.q - b.q - anchor := by
        refine Decidable.byContradiction fun hneg => hok (Bool.or_eq_true_iff.2 (.inl ?_))
        simp only [Bool.true_and, Bool.or_eq_true, decide_eq_true_eq]
        omega
      refine ⟨rfl, ?_⟩
      change mod127 ((g.addOuts (fun o => a.e + b.e - o.q - anchor) z.outs).exact + _) =
        ((g.addOuts (fun o => a.e + b.e - o.q - anchor) z.outs).res + _) % 127
      rw [mod127_add, mod127_shift _ hsh, hsum, hagree]

end

section
/-! O15, O55 and O56: what a home takes and a verdict decides; the front of the queue; the state after a recognised reset. -/

namespace Sys2Proof.Machine
open Sys2Proof

/-- The weight of the tiles that pass a test is a sum over all tiles with 0 for the others. -/
theorem foldl_add_filter {α : Type} (q : α → Bool) (w : α → Nat) (l : List α) (n : Nat) :
    (l.filter q).foldl (fun a t => a + w t) n = l.foldl (fun a t => if q t then a + w t else a) n := by
  rw [List.foldl_filter]

end Sys2Proof.Machine

open Sys2Proof Sys2Proof.Machine

/-- Settles O15: the reports of the home are taken in order; the verdict is due, and its weighted fraction is summed over the early
tiles (`foldl_add_filter`). -/
theorem reportsAndVerdictsComplete : Obligations.ReportsAndVerdictsComplete := by
  refine ⟨fun s home hlive => ?reports, fun s c im hlive hstate him hroom => ?verdict⟩
  case reports =>
    change execCeilingReport home s = _
    simp only [execCeilingReport, hlive, Bool.not_true, Bool.false_eq_true, if_false] <;> rfl
  case verdict =>
    intro p ts hfinal w early f prev v
    have hf : (s.normTiles im).foldl (fun a t => if t.2.1 ≤ (s.ctx c).verdicts.length ∧ ((s.ctx c).ladder t.1).jumped ∧
        ¬ ((s.ctx c).ladder t.1).storm then a + t.2.2 else a) 0 = f := by
      rw [show f = _ from foldl_add_filter _ (fun t => t.2.2) ts 0]
      refine congrArg (fun g => List.foldl g 0 ts) <| funext fun a => funext fun t => ite_eq_ite_of_iff ?_ rfl rfl
      simp [p, and_assoc]
    have hexec : exec (.stormVerdict c) s = .next (
        let s1 := s.setCtx c { s.ctx c with
          verdicts := (s.ctx c).verdicts ++ [v], entryPhase := if v && !prev then some p else (s.ctx c).entryPhase }
        if v && !prev then s1.prefetchPlanes c im p else s1) := by
      change execStormVerdict c s = _
      have hdue : (s.ctx c).phasesFinal (s.normTiles im) (s.ctx c).verdicts.length = true := hfinal
      have hlen : decide (63 < (s.ctx c).verdicts.length) = false := by simpa using hroom
      simp only [execStormVerdict, him, hlive, hstate, hlen, hdue, hf, bne_self_eq_false, Bool.not_true, Bool.or_self,
        Bool.false_eq_true, if_false]
      rfl
    refine ⟨fun hv hp => ?_, fun hno => ?_⟩
    · rw [hexec, hv, hp]
      rfl
    · have henter : (v && !prev) = false := by rcases hno with h | h <;> simp [h]
      rw [hexec, henter]
      rfl

/-- Settles O55: `step` is defined by the front of its queue. -/
theorem stepRunsFrontCommand : Obligations.StepRunsFrontCommand := ⟨fun _ _ _ => rfl, fun _ => rfl⟩

/-- Settles O56: each register is read off the state after a recognised reset. -/
theorem resetRegisters : Obligations.ResetRegisters := by
  unfold Obligations.ResetRegisters
  decide

end

section
/-! O17: the burst code. The syndrome is a sum over GF(16), so it is linear in the burst: it vanishes on what `encodeBurst` gives,
and an error in one symbol leaves the symbol's error times its locator, from which the position and the error are read back. -/

namespace Sys2Proof.Machine
open Sys2Proof

/-! ## GF(16) (R167) -/

theorem gfX_xor : ∀ a c : BitVec 4, gfX (a ^^^ c) = gfX a ^^^ gfX c := by decide

theorem gfMul_xor_left (a c b : BitVec 4) : gfMul (a ^^^ c) b = gfMul a b ^^^ gfMul c b := by
  have hite (p : Bool) (x y : BitVec 4) : (if p then x ^^^ y else 0) = (if p then x else 0) ^^^ (if p then y else 0) := by
    cases p <;> simp
  simp only [gfMul, gfX_xor, hite]
  ac_rfl

@[simp] theorem gfMul_zero_left : ∀ b : BitVec 4, gfMul 0#4 b = 0#4 := by decide
@[simp] theorem gfMul_zero_right : ∀ a : BitVec 4, gfMul a 0#4 = 0#4 := by decide
@[simp] theorem gfMul_one_right : ∀ a : BitVec 4, gfMul a 1#4 = a := by decide
theorem gfMul_eight_right : ∀ a : BitVec 4, gfMul a 8#4 = gfMul 8#4 a := by decide

/-- Division by a nonzero element undoes multiplication by it. -/
theorem gfMul_gfInv : ∀ e a : BitVec 4, e ≠ 0 → gfMul (gfMul e a) (gfInv e) = a := by decide

/-! ## Sums of symbols -/

/-- The sum of two groups of four symbols. -/
def Sym4.add (s t : Sym4) : Sym4 := { x0 := s.x0 ^^^ t.x0, x1 := s.x1 ^^^ t.x1, x2 := s.x2 ^^^ t.x2, x3 := s.x3 ^^^ t.x3 }

theorem Sym4.acc_zero (t p : Sym4) : t.acc 0 p = t := by simp [Sym4.acc]

theorem Sym4.zero_add (t : Sym4) : Sym4.add {} t = t := by simp [Sym4.add]

theorem Sym4.acc_xor (s t : Sym4) (u v : BitVec 4) (p : Sym4) : (s.add t).acc (u ^^^ v) p = (s.acc u p).add (t.acc v p) := by
  simp only [Sym4.acc, Sym4.add, gfMul_xor_left, Sym4.mk.injEq]
  refine ⟨?_, ?_, ?_, ?_⟩ <;> ac_rfl

theorem gfSum_succ {w : Nat} (x : BitVec w) (n : Nat) : gfSum x (n + 1) = (gfSum x n).acc (getLane 4 x n) (gfPoint n) := by
  rw [gfSum]
  split
  next h => rw [h, Sym4.acc_zero]
  · rfl

/-- The syndrome is linear. -/
theorem gfSum_xor {w : Nat} (x y : BitVec w) (n : Nat) : gfSum (x ^^^ y) n = (gfSum x n).add (gfSum y n) := by
  induction n with
  | zero => exact (Sym4.zero_add {}).symm
  | succ n ih =>
    have hlane : getLane 4 (x ^^^ y) n = getLane 4 x n ^^^ getLane 4 y n := BitVec.extractLsb'_xor
    rw [gfSum_succ, gfSum_succ, gfSum_succ, ih, hlane, Sym4.acc_xor]

/-- Bits above the first n symbols do not count. -/
theorem gfSum_append {w v : Nat} (c : BitVec v) (d : BitVec w) (n : Nat) (hn : 4 * n ≤ w) : gfSum (c ++ d) n = gfSum d n := by
  induction n with
  | zero => rfl
  | succ n ih =>
    have hlane : getLane 4 (c ++ d) n = getLane 4 d n := BitVec.extractLsb'_append_eq_of_add_le (by omega)
    rw [gfSum_succ, gfSum_succ, ih (by omega), hlane]

/-- Symbol n of a burst whose one symbol that is not 0 is symbol i. -/
theorem getLane_single (e : BitVec 4) (i n : Nat) (hn : n < 72) :
    getLane 4 (e.setWidth 288 <<< (4 * i)) n = if n = i then e else 0 := by
  ext k hk
  simp only [getLane, BitVec.getElem_extractLsb', BitVec.getLsbD_shiftLeft, BitVec.getLsbD_setWidth]
  by_cases h : n = i
  · subst h
    simp [show 4 * n + k < 288 by omega, show k < 288 by omega, BitVec.getLsbD_eq_getElem hk]
  · rw [if_neg h]
    by_cases hlt : 4 * n + k < 4 * i
    · simp [hlt]
    · simp [BitVec.getLsbD_of_ge e (4 * n + k - 4 * i) (by omega)]

/-- The syndrome of an error in one symbol: the error times the symbol's locator. -/
theorem gfSum_single (e : BitVec 4) (i n : Nat) (hn : n ≤ 72) :
    gfSum (e.setWidth 288 <<< (4 * i)) n = if i < n then Sym4.acc {} e (gfPoint i) else {} := by
  induction n with
  | zero => rfl
  | succ n ih =>
    rw [gfSum_succ, ih (by omega), getLane_single e i n (by omega)]
    by_cases h : n = i
    · subst h
      rw [if_neg (Nat.lt_irrefl n), if_pos rfl, if_pos (Nat.lt_succ_self n)]
    · rw [if_neg h, Sym4.acc_zero]
      exact ite_eq_ite_of_iff (by omega) rfl rfl

/-! ## Encoded bursts -/

theorem gfPoint_68 : gfPoint 68 = { x0 := 1#4 } := rfl
theorem gfPoint_69 : gfPoint 69 = { x1 := 1#4 } := rfl
theorem gfPoint_70 : gfPoint 70 = { x0 := 1#4, x1 := 1#4, x2 := 1#4 } := rfl
theorem gfPoint_71 : gfPoint 71 = { x0 := 1#4, x1 := 8#4, x3 := 1#4 } := rfl

/-- A check symbol cancels what it was formed from. -/
theorem xor_self_cancel (a b c : BitVec 4) : a ^^^ (a ^^^ b ^^^ c) ^^^ b ^^^ c = 0#4 := by
  rw [show a ^^^ (a ^^^ b ^^^ c) ^^^ b ^^^ c = (a ^^^ a) ^^^ (b ^^^ b) ^^^ (c ^^^ c) by ac_rfl]
  simp

/-- The symbols of CODE. -/
theorem getLane_code (c0 c1 c2 c3 : BitVec 4) (d : BitVec 272) :
    getLane 4 ((c3 ++ c2 ++ c1 ++ c0 : BitVec 16) ++ d) 68 = c0 ∧ getLane 4 ((c3 ++ c2 ++ c1 ++ c0 : BitVec 16) ++ d) 69 = c1 ∧
      getLane 4 ((c3 ++ c2 ++ c1 ++ c0 : BitVec 16) ++ d) 70 = c2 ∧ getLane 4 ((c3 ++ c2 ++ c1 ++ c0 : BitVec 16) ++ d) 71 = c3 := by
  refine ⟨?_, ?_, ?_, ?_⟩
  all_goals
    ext k hk
    simp only [getLane, BitVec.getElem_extractLsb', BitVec.getLsbD_append]
    obtain rfl | rfl | rfl | rfl : k = 0 ∨ k = 1 ∨ k = 2 ∨ k = 3 := by omega
    all_goals simp

/-- The syndrome of a burst with its CODE vanishes. -/
theorem gfSum_encodeBurst (d : BitVec 272) : gfSum (encodeBurst d) 72 = {} := by
  have h68 : gfSum (encodeBurst d) 68 = gfSum d 68 := gfSum_append _ d 68 (by decide)
  rw [gfSum_succ, gfSum_succ, gfSum_succ, gfSum_succ, h68]
  unfold encodeBurst
  generalize gfSum d 68 = t
  obtain ⟨h0, h1, h2, h3⟩ := getLane_code (t.x0 ^^^ t.x2 ^^^ t.x3) (t.x1 ^^^ t.x2 ^^^ gfMul 8 t.x3) t.x2 t.x3 d
  rw [h0, h1, h2, h3]
  rw [gfPoint_68, gfPoint_69, gfPoint_70, gfPoint_71]
  simp [Sym4.acc, gfMul_eight_right, xor_self_cancel]

theorem setWidth_append_low (c : BitVec 16) (d : BitVec 272) : (c ++ d).setWidth 272 = d := by
  ext k hk
  rw [BitVec.getElem_setWidth, BitVec.getLsbD_append, if_pos hk, BitVec.getLsbD_eq_getElem hk]

theorem setWidth_encodeBurst (d : BitVec 272) : (encodeBurst d).setWidth 272 = d := setWidth_append_low _ d

/-! ## Reading an error back (R168) -/

/-- The position and the error that a syndrome names; none where it names no single wrong symbol. -/
def locate (t : Sym4) : Option (Nat × BitVec 4) :=
  if t.x0 = 0 then (if t.x2 = 0 ∧ t.x3 = 0 then some (69, t.x1) else none)
  else
    let a := gfMul t.x2 (gfInv t.x0)
    let b := gfMul t.x3 (gfInv t.x0)
    if t.x1 ≠ gfMul t.x0 (gfQ a b) then none else (gfPosition (16 * b.toNat + a.toNat)).map (·, t.x0)

/-- Four symbols packed into 16 bits. -/
theorem getLane_symbols (c0 c1 c2 c3 : BitVec 4) :
    getLane 4 (c3 ++ c2 ++ c1 ++ c0 : BitVec 16) 0 = c0 ∧ getLane 4 (c3 ++ c2 ++ c1 ++ c0 : BitVec 16) 1 = c1 ∧
      getLane 4 (c3 ++ c2 ++ c1 ++ c0 : BitVec 16) 2 = c2 ∧ getLane 4 (c3 ++ c2 ++ c1 ++ c0 : BitVec 16) 3 = c3 := by
  refine ⟨?_, ?_, ?_, ?_⟩
  all_goals
    ext k hk
    simp only [getLane, BitVec.getElem_extractLsb', BitVec.getLsbD_append]
    obtain rfl | rfl | rfl | rfl : k = 0 ∨ k = 1 ∨ k = 2 ∨ k = 3 := by omega
    all_goals simp

/-- The four symbols of a syndrome are what its 16 bits spell. -/
theorem syndrome_inj {t u : Sym4} (h : (t.x3 ++ t.x2 ++ t.x1 ++ t.x0 : BitVec 16) = u.x3 ++ u.x2 ++ u.x1 ++ u.x0) : t = u := by
  obtain ⟨h0, h1, h2, h3⟩ := getLane_symbols t.x0 t.x1 t.x2 t.x3
  rw [h] at h0 h1 h2 h3
  obtain ⟨k0, k1, k2, k3⟩ := getLane_symbols u.x0 u.x1 u.x2 u.x3
  cases t
  cases u
  simp only [Sym4.mk.injEq]
  exact ⟨h0.symm.trans k0, h1.symm.trans k1, h2.symm.trans k2, h3.symm.trans k3⟩

theorem decodeBurst_of_locate {x : Burst} {t : Sym4} {i : Nat} {v : BitVec 4} (hs : gfSum x 72 = t) (hl : locate t = some (i, v))
    (hv : v ≠ 0) : decodeBurst x = .corrected ((x ^^^ (v.setWidth 288 <<< (4 * i))).setWidth 272) := by
  have hz : (t.x3 ++ t.x2 ++ t.x1 ++ t.x0 : BitVec 16) ≠ 0 := fun h => by
    rw [syndrome_inj (u := {}) h] at hl
    exact hv (congrArg Prod.snd (Option.some.inj hl)).symm
  have hp : (t.x3 ++ t.x2 ++ t.x1 ++ t.x0 : BitVec 16) ≠ 0x1000 := fun h => by
    rw [syndrome_inj (u := { x3 := 1 }) h] at hl
    cases hl
  unfold locate at hl
  rw [decodeBurst, hs]
  simp only [if_neg hz, if_neg hp]
  by_cases h0 : t.x0 = 0
  · rw [if_pos h0] at hl ⊢
    by_cases h23 : t.x2 = 0 ∧ t.x3 = 0
    · rw [if_pos h23] at hl ⊢
      cases hl
      rfl
    · rw [if_neg h23] at hl
      cases hl
  · rw [if_neg h0] at hl ⊢
    dsimp only at hl
    split at hl
    · cases hl
    next hq =>
      rw [if_neg hq]
      cases hpos : gfPosition (16 * (gfMul t.x3 (gfInv t.x0)).toNat + (gfMul t.x2 (gfInv t.x0)).toNat) with
      | none =>
        rw [hpos] at hl
        cases hl
      | some j =>
        rw [hpos] at hl
        cases hl
        rfl

/-- A data symbol's locator holds its position. -/
theorem gfPosition_gfPoint : ∀ i < 68, gfPosition (16 * (gfPoint i).x3.toNat + (gfPoint i).x2.toNat) = some i := by decide

theorem gfPoint_data {i : Nat} (h : i < 68) : (gfPoint i).x0 = 1#4 ∧ (gfPoint i).x1 = gfQ (gfPoint i).x2 (gfPoint i).x3 := by
  simp [gfPoint, show i ≠ 68 by omega, show i ≠ 69 by omega, show i ≠ 70 by omega, show i ≠ 71 by omega]

/-- One wrong symbol is located. -/
theorem locate_acc {i : Nat} {e : BitVec 4} (hi : i < 72) (he : e ≠ 0) : locate (Sym4.acc {} e (gfPoint i)) = some (i, e) := by
  have hloc {p : Sym4} (h0 : p.x0 = 1#4) (h1 : p.x1 = gfQ p.x2 p.x3) (hp : gfPosition (16 * p.x3.toNat + p.x2.toNat) = some i) :
      locate (Sym4.acc {} e p) = some (i, e) := by
    have hx0 : (Sym4.acc {} e p).x0 = e := by simp [Sym4.acc, h0]
    have hx1 : (Sym4.acc {} e p).x1 = gfMul e (gfQ p.x2 p.x3) := by simp [Sym4.acc, h1]
    have hx2 : (Sym4.acc {} e p).x2 = gfMul e p.x2 := by simp [Sym4.acc]
    have hx3 : (Sym4.acc {} e p).x3 = gfMul e p.x3 := by simp [Sym4.acc]
    simp only [locate, hx0, hx1, hx2, hx3, if_neg he, gfMul_gfInv e _ he, ne_eq, not_true_eq_false, if_false, hp, Option.map_some]
  by_cases hd : i < 68
  · exact hloc (gfPoint_data hd).1 (gfPoint_data hd).2 (gfPosition_gfPoint i hd)
  · obtain rfl | rfl | rfl | rfl : i = 68 ∨ i = 69 ∨ i = 70 ∨ i = 71 := by omega
    · exact hloc rfl (by decide) rfl
    · simp [locate, gfPoint_69, Sym4.acc]
    · exact hloc rfl (by decide) rfl
    · exact hloc rfl (by decide) rfl

end Sys2Proof.Machine

open Sys2Proof Sys2Proof.Machine

/-- Settles O17: the syndrome of a burst with its CODE vanishes, that of a poisoned one is the poison's, and that of one with a wrong
symbol locates it (`locate_acc`). -/
theorem burstCodeCorrects : Obligations.BurstCodeCorrects := by
  refine ⟨fun d => ?clean, fun d => ?poison, fun d i e hi he => ?corrected⟩
  case clean =>
    rw [decodeBurst, gfSum_encodeBurst, setWidth_encodeBurst]
    rfl
  case poison =>
    have hs : gfSum (poisonBurst d) 72 = { x3 := 1#4 } := by
      rw [poisonBurst, gfSum_xor, gfSum_encodeBurst, Sym4.zero_add]
      decide
    rw [decodeBurst, hs]
    rfl
  case corrected =>
    have hs : gfSum (encodeBurst d ^^^ (e.setWidth 288 <<< (4 * i))) 72 = Sym4.acc {} e (gfPoint i) := by
      rw [gfSum_xor, gfSum_encodeBurst, Sym4.zero_add, gfSum_single e i 72 (Nat.le_refl _), if_pos hi]
    have hfix : ((encodeBurst d ^^^ (e.setWidth 288 <<< (4 * i))) ^^^ (e.setWidth 288 <<< (4 * i))).setWidth 272 = d := by
      rw [BitVec.xor_assoc, BitVec.xor_self, BitVec.xor_zero, setWidth_encodeBurst]
    rw [decodeBurst_of_locate hs (locate_acc hi he) he, hfix]

end

section
/-! O18 and O19: memory requests, grants and completed reads. What leaves the module (`Sent`) touches neither its memory nor what
containment records, so an uncorrectable read leaves exactly its record. -/

namespace Sys2Proof.Machine
open Sys2Proof

/-! ## What leaves the module -/

/-- From s to t packets and events left: at most the links, the management queue, the host mirror and the output differ. -/
def Sent (s t : State) : Prop := t = { s with links := t.links, mgt := t.mgt, host := t.host, out := t.out }

theorem Sent.refl (s : State) : Sent s s := rfl

theorem Sent.trans {s t u : State} (h1 : Sent s t) (h2 : Sent t u) : Sent s u := by
  unfold Sent at *
  rw [h1] at h2
  exact h2

theorem Sent.foldl {α : Type} {f : State → α → State} (h : ∀ s a, Sent s (f s a)) (l : List α) (s : State) : Sent s (l.foldl f s) := by
  induction l generalizing s with
  | nil => exact Sent.refl s
  | cons a l ih => exact (h s a).trans (ih (f s a))

section Fields
variable {s t : State} (h : Sent s t)
include h

theorem Sent.mem : t.mem = s.mem := by rw [h]
theorem Sent.err : t.err = s.err := by rw [h]
theorem Sent.crn : t.crn = s.crn := by rw [h]
theorem Sent.boot : t.boot = s.boot := by rw [h]
theorem Sent.dmp : t.dmp = s.dmp := by rw [h]

end Fields

theorem State.emits_sent (s : State) (os : List Output) : Sent s (s.emits os) := rfl

theorem State.emit_sent (s : State) (o : Output) : Sent s (s.emit o) := rfl

theorem State.sendHead_sent (s : State) : Sent s s.sendHead := by
  unfold State.sendHead
  split
  · split <;> rfl
  · rfl

theorem State.raise_sent (s : State) (code detail : Nat) : Sent s (s.raise code detail) := by
  have hqueued (m : Mgmt) (h : HostPort) (fresh serious : Bool) : Sent s (
      let s1 : State := { s with mgt := m, host := h }
      let s2 := if fresh then s1.sendHead else s1
      if serious then s2.emit (.msix 8) else s2) := by
    have hhead : Sent s (if fresh then State.sendHead { s with mgt := m, host := h } else { s with mgt := m, host := h }) := by
      split
      · exact Sent.trans (t := { s with mgt := m, host := h }) rfl (State.sendHead_sent _)
      · rfl
    dsimp only
    split
    · exact hhead.trans (State.emit_sent _ _)
    · exact hhead
  exact hqueued _ _ _ _

theorem State.raiseBlocked_sent (s : State) : Sent s s.raiseBlocked := by
  unfold State.raiseBlocked
  split
  · rfl
  · exact Sent.trans (t := { s with mgt := { s.mgt with blockedRaised := true } }) rfl (State.raise_sent _ _ _)

theorem State.queueOn_sent (s : State) (n : Nat) (k : Packet) (ahead : Bool) : Sent s (s.queueOn n k ahead) := by
  unfold State.queueOn
  dsimp only
  split
  · exact Sent.trans (t := { s with mgt := { s.mgt with blockedLink := satInc s.mgt.blockedLink } }) rfl (State.raiseBlocked_sent _)
  · split <;> rfl

theorem State.pumpPort_sent (s : State) (n : Nat) : Sent s (s.pumpPort n) := rfl

theorem State.sendOnPair_sent (s : State) (type q : Nat) (arg : Word) (payload : List Byte) : Sent s (s.sendOnPair type q arg payload) := by
  unfold State.sendOnPair
  exact Sent.trans (t := s.setSlotFlow _ _) rfl
    (Sent.foldl (fun s n => (State.queueOn_sent s n _ false).trans (State.pumpPort_sent _ n)) _ _)

theorem State.sendWithdraw_sent (s : State) : Sent { s with crn := { s.crn with withdrawn := true } } s.sendWithdraw := by
  unfold State.sendWithdraw
  exact Sent.foldl (fun s q => (State.emits_sent s _).trans (State.sendOnPair_sent _ _ _ _ _)) _ _

/-! ## Uncorrectable reads (R170) -/

/-- What containment records, where the module is not yet contained. -/
theorem State.contain_of_free {s : State} {cause : Nat} (h : s.err.containState ≠ 1) :
    (s.contain cause).err.containState = 1 ∧ (s.contain cause).err.containCause = BitVec.ofNat 8 cause ∧
      (s.contain cause).dmp.active = true ∧ (s.mem.contained = true → (s.contain cause).dmp.suspect = true) ∧
      (s.contain cause).crn.withdrawn = true := by
  have hsent := State.sendWithdraw_sent s
  rw [State.contain, if_neg h]
  refine ⟨rfl, rfl, rfl, fun hc => ?_, congrArg Cairn.withdrawn hsent.crn⟩
  have hmem : s.sendWithdraw.mem = s.mem := hsent.mem
  dsimp only
  rw [hmem, hc]
  rfl

theorem State.contain_mem (s : State) (cause : Nat) : (s.contain cause).mem = s.mem := by
  unfold State.contain
  split
  · rfl
  · exact (State.sendWithdraw_sent s).mem

/-- A cause of class module with no start cause is recorded and raised; before and in ready mode it contains the module. -/
theorem State.moduleCause_eq (s : State) (cause event : Nat) : s.moduleCause cause 0 0 event =
    if s.boot.mode = 0 ∨ s.boot.mode = 1 then ((s.recordCause cause 0 7 0).raise event cause).contain cause
    else (s.recordCause cause 0 7 0).raise event cause := by
  have hboot := (State.raise_sent (s.recordCause cause 0 7 0) event cause).boot
  simp only [State.moduleCause, ne_eq, not_true_eq_false, and_false, if_false, hboot, State.recordCause_boot]

theorem State.moduleCause_mem (s : State) (cause event : Nat) : (s.moduleCause cause 0 0 event).mem = s.mem := by
  have hraise : ((s.recordCause cause 0 7 0).raise event cause).mem = s.mem :=
    (State.raise_sent (s.recordCause cause 0 7 0) event cause).mem
  rw [State.moduleCause_eq]
  split
  · exact (State.contain_mem _ _).trans hraise
  · exact hraise

/-- What an uncorrectable read leaves in the memory's own registers. -/
theorem State.memUe_mem (s : State) (b : Nat) (sy : BitVec 16) (src : Nat) : (s.memUe b sy src).mem =
    if s.mem.contained then { s.mem with multiUe := true }
    else { s.mem with contained := true, ueAddr := BitVec.ofNat 36 b, ueSynd := sy, ueSource := BitVec.ofNat 4 src } := by
  unfold State.memUe
  split
  · exact State.moduleCause_mem _ _ _
  · exact State.moduleCause_mem _ _ _

theorem State.memUe_cells (s : State) (b : Nat) (sy : BitVec 16) (src : Nat) : (s.memUe b sy src).mem.cells = s.mem.cells := by
  rw [State.memUe_mem]
  split <;> rfl

/-- A memory error of a module in ready mode contains it; its memory is suspect, for reads have stopped. -/
theorem State.memUe_contains {s : State} (b : Nat) (sy : BitVec 16) (src : Nat) (hmode : s.boot.mode = 1) (hfree : s.err.containState ≠ 1) :
    (s.memUe b sy src).err.containState = 1 ∧ (s.memUe b sy src).err.containCause = 0x40 ∧
      (s.memUe b sy src).dmp.active = true ∧ (s.memUe b sy src).dmp.suspect = true ∧ (s.memUe b sy src).crn.withdrawn = true := by
  have hcause (u : State) (hu : u.boot.mode = 1) (hf : u.err.containState ≠ 1) (hc : u.mem.contained = true) :
      (u.moduleCause 0x40 0 0 0x0001).err.containState = 1 ∧ (u.moduleCause 0x40 0 0 0x0001).err.containCause = 0x40 ∧
        (u.moduleCause 0x40 0 0 0x0001).dmp.active = true ∧ (u.moduleCause 0x40 0 0 0x0001).dmp.suspect = true ∧
        (u.moduleCause 0x40 0 0 0x0001).crn.withdrawn = true := by
    have hsent := State.raise_sent (u.recordCause 0x40 0 7 0) 0x0001 0x40
    have herr : ((u.recordCause 0x40 0 7 0).raise 0x0001 0x40).err.containState ≠ 1 := by
      rw [hsent.err, State.recordCause, Errors.record]
      split <;> exact hf
    obtain ⟨h1, h2, h3, h4, h5⟩ := State.contain_of_free (cause := 0x40) herr
    rw [State.moduleCause_eq, if_pos (.inr hu)]
    exact ⟨h1, h2, h3, h4 (by rw [hsent.mem]; exact hc), h5⟩
  unfold State.memUe
  split
  next hc => exact hcause _ hmode hfree hc
  next hc => exact hcause _ hmode hfree rfl

/-! ## Requests (R161, R164, R169, R170) -/

/-- Only the client of a tor's read may change. -/
theorem State.requestLeaf_eq (s : State) (r : MemReq) :
    s.requestLeaf r = { r with client := (s.requestLeaf r).client } ∧ (r.write.isSome = true → s.requestLeaf r = r) := by
  unfold State.requestLeaf
  split
  next hw => exact ⟨rfl, fun h => by rw [hw] at h; cases h⟩
  · exact ⟨rfl, fun _ => rfl⟩

/-! ## What a subchannel may grant (R164, R170, R177) -/

/-- An eligible request stands behind no request for its burst, and is a write once reads have stopped. -/
theorem State.eligible_spec (s : State) {r : MemReq} : ∀ {q : List MemReq} {seen : List Nat}, r ∈ s.eligible q seen →
    (∃ before after, q = before ++ r :: after ∧ (∀ x ∈ before, x.addr ≠ r.addr) ∧ r.addr.toNat ∉ seen) ∧
      (s.mem.contained = true → r.write.isSome = true)
  | [], seen, h => absurd h List.not_mem_nil
  | a :: q, seen, h => by
    rw [State.eligible, List.mem_append] at h
    rcases h with h | h
    · split at h
      next hok =>
        cases List.mem_singleton.1 h
        simp only [Bool.and_eq_true, Bool.not_eq_true', Bool.or_eq_true, List.contains_eq_mem, decide_eq_false_iff_not] at hok
        obtain ⟨⟨hseen, hread⟩, -⟩ := hok
        exact ⟨⟨[], q, rfl, fun _ hx => absurd hx List.not_mem_nil, hseen⟩, fun hc => hread.resolve_right (by simp [hc])⟩
      · exact absurd h List.not_mem_nil
    · obtain ⟨⟨before, after, rfl, hbefore, hseen⟩, hread⟩ := State.eligible_spec s h
      refine ⟨⟨a :: before, after, rfl, fun x hx => ?_, fun hin => hseen (List.mem_append_left _ hin)⟩, hread⟩
      rcases List.mem_cons.1 hx with rfl | hx
      · exact fun he => hseen (List.mem_append_right _ (by rw [he]; exact List.mem_singleton_self _))
      · exact hbefore x hx

/-- The arbiters choose among the requests they are given. -/
theorem descend_mem (rounds : SMap (Nat × Nat)) {r : MemReq} : ∀ {f : Nat} {cands : List (MemReq × List ArbHop)},
    descend rounds f cands = some r → r ∈ cands.map Prod.fst
  | 0, _, h => by cases h
  | f + 1, [], h => by cases h
  | f + 1, (a, []) :: rest, h => by
    cases h
    exact List.mem_cons_self
  | f + 1, (a, x :: xs) :: rest, h => by
    rw [descend] at h
    split at h
    · cases h
    · have hmem := descend_mem rounds h
      simp only [List.map_map, List.mem_map, List.mem_filter, Function.comp_apply] at hmem
      obtain ⟨q, ⟨hq, -⟩, rfl⟩ := hmem
      exact List.mem_map_of_mem hq

/-- The scheduled candidate: the head of the scheduled queue, where it may go. -/
def State.schedHead (s : State) (i : Nat) : Option MemReq :=
  match (s.sub i).queue.find? (fun r => !clientDynamic r.client) with
  | some r => if (s.eligible (s.sub i).queue []).contains r then some r else none
  | none => none

/-- The dynamic candidates with their ways through the arbiters. -/
def State.dynCands (s : State) (i : Nat) : List (MemReq × List ArbHop) :=
  ((s.eligible (s.sub i).queue []).filter (fun r => clientDynamic r.client)).map (fun r => (r, s.arbPath r.client (i / 64)))

theorem State.mem_dynCands {s : State} {i : Nat} {r : MemReq} (h : r ∈ (s.dynCands i).map Prod.fst) :
    r ∈ s.eligible (s.sub i).queue [] ∧ clientDynamic r.client = true := by
  simp only [State.dynCands, List.map_map, List.mem_map, List.mem_filter, Function.comp_apply] at h
  obtain ⟨q, hq, rfl⟩ := h
  exact hq

theorem State.schedHead_eq_some {s : State} {i : Nat} {r : MemReq} : s.schedHead i = some r ↔
    (s.sub i).queue.find? (fun r => !clientDynamic r.client) = some r ∧ r ∈ s.eligible (s.sub i).queue [] := by
  unfold State.schedHead
  cases hf : (s.sub i).queue.find? (fun r => !clientDynamic r.client) with
  | none => simp
  | some a =>
    simp only [List.contains_eq_mem, decide_eq_true_eq, Option.some.injEq]
    constructor
    · intro h
      split at h
      next hm =>
        cases h
        exact ⟨rfl, hm⟩
      · cases h
    · rintro ⟨rfl, hm⟩
      rw [if_pos hm]

/-- A grant is the scheduled candidate, or the arbiters' choice; the arbiters' where both may go only under the quota. -/
theorem State.choose_cases {s : State} {i : Nat} {r : MemReq} (h : s.choose i = some r) :
    s.schedHead i = some r ∨ (descend (s.sub i).rounds 8 (s.dynCands i) = some r ∧
      (s.schedHead i = none ∨ popCount16 (s.sub i).recent < 2)) := by
  have hc : s.choose i = match s.schedHead i, descend (s.sub i).rounds 8 (s.dynCands i) with
    | some a, some b => if popCount16 (s.sub i).recent < 2 then some b else some a
    | some a, none => some a
    | none, d => d := rfl
  rw [hc] at h
  cases hs : s.schedHead i with
  | none =>
    rw [hs] at h
    exact .inr ⟨h, .inl rfl⟩
  | some a =>
    cases hd : descend (s.sub i).rounds 8 (s.dynCands i) with
    | none =>
      rw [hs, hd] at h
      exact .inl h
    | some b =>
      rw [hs, hd] at h
      dsimp only at h
      split at h
      next hq => exact .inr ⟨h, .inr hq⟩
      · exact .inl h

end Sys2Proof.Machine

open Sys2Proof Sys2Proof.Machine

/-- Settles O18: a request joins its queue unless it is barred; what a grant does; and the two candidates of `State.choose_cases`. -/
theorem memoryRequestsAndGrants : Obligations.MemoryRequestsAndGrants := by
  refine ⟨⟨fun s r hw hpop hbar => ?joins, fun s r hw hpop hcl hwr hc => ?dropped, fun s r hw hpop hcl => ?mgmt,
    fun s r hw hpop hcl => ?stops, fun s r h => ?noSnoop⟩, fun s sub r hw hinit hch hscrub => ?grant, fun s i r hch => ?choice⟩
  case joins =>
    intro r' s1 q
    obtain ⟨hleaf, hsame⟩ := s.requestLeaf_eq r
    refine ⟨hleaf, hsame, ?_⟩
    have haddr : (s.requestLeaf r).addr = r.addr := by rw [hleaf]
    have hwrite : (s.requestLeaf r).write = r.write := by rw [hleaf]
    change execMemoryRequest r s = _
    simp only [execMemoryRequest, hw, Bool.not_true, Bool.false_eq_true, if_false, if_neg (Nat.not_le.2 hpop), hbar,
      State.queueRequest, haddr, hwrite]
    rfl
  case dropped =>
    have hbar : s.writeBarred r = true := by simp [State.writeBarred, hwr, hcl, State.hostCut, hc]
    change execMemoryRequest r s = _
    simp [execMemoryRequest, hw, Nat.not_le.2 hpop, hbar]
  case mgmt =>
    change execMemoryRequest r s = _
    simp [execMemoryRequest, hw, hpop, hcl]
  case stops =>
    change execMemoryRequest r s = _
    simp [execMemoryRequest, hw, hpop, hcl]
  case noSnoop =>
    refine if_pos ?_
    rcases h with h | h
    · simp [h]
    · simp only [h, Bool.not_false, Bool.or_true, Bool.true_or]
  case grant =>
    intro i q dyn left q'
    have hscrub : (r.client == .scrub && (s.sub i).scrubDue) = false := hscrub
    have hexec : exec (.subchannelGrant sub) s = .next (s.grant i) := by
      change execSubchannelGrant sub s = _
      simp [execSubchannelGrant, hw, hinit, i]
    refine ⟨fun hr => ?_, fun d hr hcut => ?_, fun d hr hcut => ?_⟩
    · rw [hexec, State.grant, hch]
      simp only [hscrub, Bool.false_eq_true, if_false, hr]
      rfl
    · rw [hexec, State.grant, hch]
      simp only [hscrub, hcut, Bool.false_eq_true, if_false, hr]
      rfl
    · rw [hexec, State.grant, hch]
      simp only [hscrub, hcut, Bool.false_eq_true, if_false, if_true, hr]
      rfl
  case choice =>
    have helig : r ∈ s.eligible (s.sub i).queue [] := by
      rcases State.choose_cases hch with h | ⟨h, -⟩
      · exact (State.schedHead_eq_some.1 h).2
      · exact (State.mem_dynCands (descend_mem _ h)).1
    obtain ⟨⟨before, after, hq, hbefore, -⟩, hread⟩ := s.eligible_spec helig
    refine ⟨⟨before, after, hq, hbefore⟩, hread, fun h hf hh hdyn => ?_, fun hsched => ?_⟩
    · have hhead := State.schedHead_eq_some.2 ⟨hf, hh⟩
      rcases State.choose_cases hch with hs | ⟨-, hs | hs⟩
      · have hnd := List.find?_some (State.schedHead_eq_some.1 hs).1
        simp [hdyn] at hnd
      · rw [hhead] at hs
        cases hs
      · exact hs
    · rcases State.choose_cases hch with hs | ⟨hs, -⟩
      · exact (State.schedHead_eq_some.1 hs).1
      · rw [(State.mem_dynCands (descend_mem _ hs)).2] at hsched
        cases hsched

/-- Settles O19: a completed read is answered by its decode; the first uncorrectable one leaves its record (`State.memUe_mem`) and
contains the module (`State.memUe_contains`). -/
theorem memoryReadsComplete : Obligations.MemoryReadsComplete := by
  refine ⟨fun s sub flip f rest hw hin => ?read, fun s b sy src hb hsrc => ?record⟩
  case read =>
    intro s1 b
    have hexec : exec (.memoryReadDone sub flip) s = .next (s1.finishRead sub.toNat f (decodeBurst (f.raw ^^^ flip))) := by
      change execMemoryReadDone sub flip s = _
      simp only [execMemoryReadDone, hw, if_true, State.readDone, hin]
      rfl
    refine ⟨fun d t hd hc => ?_, fun d t hd hc => ?_, fun t hd hc => ?_, fun sy t hd hc => ?_, fun hd hc => ?_⟩
    all_goals
      rw [hexec, hd, State.finishRead]
      simp only [hc, clientTor] <;> rfl
  case record =>
    refine ⟨fun hc => ?_, fun hc => ?_, fun hmode hfree => State.memUe_contains b sy src hmode hfree, State.memUe_cells s b sy src⟩
    · rw [State.memUe_mem, hc]
      exact ⟨rfl, rfl, rfl, rfl, rfl⟩
    · rw [State.memUe_mem, if_pos hc]

end

section
/-! O22 and O23: bursts in the cells of module memory. A burst is its own 36 cells, so a store reads back there and leaves every
cell outside the bursts it names (`SameOutside`). -/

namespace Sys2Proof.Machine
open Sys2Proof

/-! ## Bytes of a vector -/

/-- A bit of the vector that bytes spell. -/
theorem getLsbD_ofLe (w : Nat) (l : List Byte) (j : Nat) :
    (ofLe w l).getLsbD j = (decide (j < w) && (nth 0 l (j / 8)).getLsbD (j % 8)) := by
  induction l generalizing j with
  | nil => simp [ofLe, nth]
  | cons b bs ih =>
    rw [ofLe, BitVec.getLsbD_or, BitVec.getLsbD_setWidth, BitVec.getLsbD_shiftLeft, ih]
    by_cases hj : j < 8
    · rw [Nat.div_eq_of_lt hj, Nat.mod_eq_of_lt hj]
      simp [nth, hj]
    · have hdiv : j / 8 = (j - 8) / 8 + 1 := by omega
      have hmod : (j - 8) % 8 = j % 8 := by omega
      rw [hdiv, hmod, BitVec.getLsbD_of_ge b j (by omega)]
      by_cases hw : j < w
      · simp [nth, hj, hw, show j - 8 < w by omega]
      · simp [hw]

/-- The bytes of a vector of n bytes spell it. -/
theorem ofLe_leBytes (n : Nat) (x : BitVec (8 * n)) : ofLe (8 * n) (leBytes n x) = x := by
  apply BitVec.eq_of_getLsbD_eq
  intro j hj
  have hget : nth 0 (leBytes n x) (j / 8) = (x >>> (8 * (j / 8))).setWidth 8 := by
    simp [nth, leBytes, List.getElem?_range (show j / 8 < n by omega)]
  rw [getLsbD_ofLe, hget, BitVec.getLsbD_setWidth, BitVec.getLsbD_ushiftRight, Nat.div_add_mod, decide_eq_true hj]
  simp [Nat.mod_lt]

theorem memBytes_eq_map (m : Memory) (a n : Nat) : memBytes m a n = (List.range n).map (fun i => memByte m (a + i)) := by
  induction n generalizing a with
  | zero => rfl
  | succ n ih =>
    rw [memBytes, ih, List.range_succ_eq_map, List.map_cons, List.map_map]
    refine congrArg _ (List.map_congr_left fun i _ => ?_)
    rw [Function.comp_apply, Nat.succ_eq_add_one, Nat.add_assoc, Nat.add_comm 1 i]

/-- Bytes depend on their own addresses alone. -/
theorem memBytes_congr {m m' : Memory} {a n : Nat} (h : ∀ k, a ≤ k → k < a + n → memByte m k = memByte m' k) :
    memBytes m a n = memBytes m' a n := by
  rw [memBytes_eq_map, memBytes_eq_map]
  exact List.map_congr_left fun i hi => h (a + i) (Nat.le_add_right a i) (Nat.add_lt_add_left (List.mem_range.1 hi) a)

/-- Bytes that were set are read back. -/
theorem memBytes_memSetBytes (m : Memory) (a : Nat) (vs : List Byte) : memBytes (memSetBytes m a vs) a vs.length = vs := by
  rw [memBytes_eq_map]
  apply List.ext_getElem?
  intro i
  rw [List.getElem?_map]
  by_cases hi : i < vs.length
  · rw [List.getElem?_range hi, Option.map_some, memByte_memSetBytes, if_pos ⟨Nat.le_add_right a i, Nat.add_lt_add_left hi a⟩,
      Nat.add_sub_cancel_left, nth, List.getElem?_eq_getElem hi, Option.getD_some]
  · rw [List.getElem?_eq_none (by simpa using hi), List.getElem?_eq_none (by omega), Option.map_none]

/-! ## One burst -/

theorem length_leBytes (n : Nat) {w : Nat} (x : BitVec w) : (leBytes n x).length = n := by simp [leBytes]

theorem State.setRaw_cells (s : State) (b : Nat) (x : Burst) :
    (s.setRaw b x).mem.cells = memSetBytes s.mem.cells (36 * b) (leBytes 36 x) := by
  unfold State.setRaw
  dsimp only
  split <;> rfl

/-- What a burst's cells hold after its store, and after the store of another. -/
theorem State.rawBurst_setRaw (s : State) (b : Nat) (x : Burst) : (s.setRaw b x).rawBurst b = x := by
  have hbytes := memBytes_memSetBytes s.mem.cells (36 * b) (leBytes 36 x)
  rw [length_leBytes] at hbytes
  rw [State.rawBurst, State.cells, State.setRaw_cells, hbytes]
  exact ofLe_leBytes 36 x

/-- Outside the n bursts from b on, the bytes of module memory are the same in t as in s. -/
def SameOutside (b n : Nat) (s t : State) : Prop :=
  ∀ k, (k < 36 * b ∨ 36 * (b + n) ≤ k) → memByte t.mem.cells k = memByte s.mem.cells k

theorem SameOutside.of_eq {b n : Nat} {s t : State} (h : t.mem.cells = s.mem.cells) : SameOutside b n s t := fun _ _ => by rw [h]

theorem SameOutside.trans {b n : Nat} {s t u : State} (h1 : SameOutside b n s t) (h2 : SameOutside b n t u) : SameOutside b n s u :=
  fun k hk => (h2 k hk).trans (h1 k hk)

theorem SameOutside.mono {a m b n : Nat} {s t : State} (h : SameOutside a m s t) (hlo : b ≤ a) (hhi : a + m ≤ b + n) :
    SameOutside b n s t := fun k hk => h k (by omega)

theorem State.setRaw_same (s : State) (b : Nat) (x : Burst) : SameOutside b 1 s (s.setRaw b x) := fun k hk => by
  rw [State.setRaw_cells, memByte_memSetBytes, length_leBytes, if_neg (by omega)]

theorem State.rawBurst_of_same {b n c : Nat} {s t : State} (h : SameOutside b n s t) (hc : c + 1 ≤ b ∨ b + n ≤ c) :
    t.rawBurst c = s.rawBurst c := by
  rw [State.rawBurst, State.rawBurst]
  exact congrArg _ (memBytes_congr fun k h1 h2 => h k (by omega))

theorem State.serveWrite_same (s : State) (r : MemReq) (x : Burst) : SameOutside r.addr.toNat 1 s (s.serveWrite r x) := by
  unfold State.serveWrite
  split
  · exact (s.setRaw_same r.addr.toNat x).trans (.of_eq rfl)
  · exact .of_eq rfl

/-- An address of a populated burst fits its 36 bits. -/
theorem toNat_burstAddr {b : Nat} (h : b < moduleBursts) : (BitVec.ofNat 36 b).toNat = b := by
  rw [BitVec.toNat_ofNat]
  exact Nat.mod_eq_of_lt (Nat.lt_trans h (by decide))

theorem State.writeBurst_same {s : State} {b : Nat} (d : BitVec 272) (h : (BitVec.ofNat 36 b).toNat = b) :
    SameOutside b 1 s (s.writeBurst b d) := by
  have hw := s.serveWrite_same { client := .ni 0, addr := BitVec.ofNat 36 b, write := some d } (encodeBurst d)
  rw [show MemReq.addr _ = BitVec.ofNat 36 b from rfl, h] at hw
  exact hw

theorem State.hostStore_same {s : State} {b : Nat} (p : BitVec 256) (poison : Bool) (h : b < moduleBursts) :
    SameOutside b 1 s (s.hostStore b p poison) := by
  unfold State.hostStore
  have hw := s.serveWrite_same { client := .host, addr := BitVec.ofNat 36 b, write := some (mkBurst 0 0 p), poison := poison }
    (if poison then poisonBurst (mkBurst 0 0 p) else encodeBurst (mkBurst 0 0 p))
  rw [show MemReq.addr _ = BitVec.ofNat 36 b from rfl, toNat_burstAddr h] at hw
  exact hw

/-- What the state itself keeps apart from module memory. -/
theorem State.noteCorrected_same (s : State) (b : Nat) (d : BitVec 272) (writeBack : Bool) :
    SameOutside b 1 s (s.noteCorrected b d writeBack) := by
  have hback : SameOutside b 1 s (if writeBack then s.setRaw b (encodeBurst d) else s) := by
    split
    · exact s.setRaw_same b _
    · exact .of_eq rfl
  unfold State.noteCorrected
  generalize (if writeBack = true then s.setRaw b (encodeBurst d) else s) = u at hback ⊢
  dsimp only
  split
  · exact hback.trans (.of_eq ((congrArg Mem.cells (Sent.mem (State.raise_sent _ _ _))).trans rfl))
  · exact hback.trans (.of_eq rfl)

theorem State.moduleRead_same (s : State) (b source : Nat) : SameOutside b 1 s (s.moduleRead b source).2 := by
  unfold State.moduleRead
  split
  · exact .of_eq rfl
  · dsimp only
    split
    · exact .of_eq rfl
    · exact SameOutside.trans (t := s.countServed b (source != 1)) (.of_eq rfl) (State.noteCorrected_same _ b _ true)
    · exact .of_eq rfl
    · exact SameOutside.trans (t := s.countServed b (source != 1)) (.of_eq rfl) (.of_eq (State.memUe_cells _ _ _ _))

theorem State.mergeSlot_same {s : State} {b : Nat} (first : Nat) (ws : List (BitVec 32)) (h : (BitVec.ofNat 36 b).toNat = b) :
    SameOutside b 1 s (s.mergeSlot b first ws).2 := by
  have hread := s.moduleRead_same b 1
  unfold State.mergeSlot
  split
  next hr => rw [hr] at hread; exact hread
  next hr => rw [hr] at hread; exact hread
  next hr => 
    rw [hr] at hread
    exact hread.trans (State.writeBurst_same _ h)

theorem State.hostRead_same (s : State) (b : Nat) : SameOutside b 1 s (s.hostRead b).2 := by
  unfold State.hostRead
  dsimp only
  split
  · exact SameOutside.trans (t := s.countServed b true) (.of_eq rfl) (State.noteCorrected_same _ b _ true)
  · exact .of_eq rfl

/-! ## A host write (R56, R184, R171) -/

/-- A store behind no waiting request takes effect at once, and leaves the queues as they are. -/
theorem State.hostStore_of_free {s : State} {b : Nat} (p : BitVec 256) (poison : Bool) (h : b < moduleBursts) (hfree : s.waitingFor b = []) :
    s.hostStore b p poison =
      (s.setRaw b (if poison then poisonBurst (mkBurst 0 0 p) else encodeBurst (mkBurst 0 0 p))).countServed b true := by
  rw [State.hostStore, State.serveWrite, show MemReq.addr _ = BitVec.ofNat 36 b from rfl, toNat_burstAddr h, hfree]
  rfl

theorem State.setRaw_queue (s : State) (b : Nat) (x : Burst) (i : Nat) : ((s.setRaw b x).sub i).queue = (s.sub i).queue := by
  unfold State.setRaw
  dsimp only
  split
  · by_cases hi : i = subOf b
    · rw [hi, State.setSub_sub_self]
    · rw [State.setSub_sub_ne _ _ _ _ hi]
      rfl
  · rfl

theorem State.countServed_queue (s : State) (b : Nat) (dyn : Bool) (i : Nat) : ((s.countServed b dyn).sub i).queue = (s.sub i).queue := by
  unfold State.countServed
  by_cases hi : i = subOf b
  · rw [hi, State.setSub_sub_self]
  · rw [State.setSub_sub_ne _ _ _ _ hi]

/-- From s to t only the module's memory and its controllers differ. -/
def MemOnly (s t : State) : Prop := t = { s with mem := t.mem }

theorem MemOnly.trans {s t u : State} (h1 : MemOnly s t) (h2 : MemOnly t u) : MemOnly s u := by
  unfold MemOnly at *
  rw [h1] at h2
  exact h2

theorem State.setRaw_memOnly (s : State) (b : Nat) (x : Burst) : MemOnly s (s.setRaw b x) := by
  unfold State.setRaw
  dsimp only
  split <;> rfl

theorem State.hostStore_memOnly (s : State) (b : Nat) (p : BitVec 256) (poison : Bool) : MemOnly s (s.hostStore b p poison) := by
  unfold State.hostStore State.serveWrite
  split
  · exact (State.setRaw_memOnly s _ _).trans rfl
  · rfl

/-- Where no request waits for a burst, a read finds what its bits decode to. -/
theorem State.readBurst_of_free {s : State} {b : Nat} (h : s.waitingFor b = []) : s.readBurst b = decodeBurst (s.rawBurst b) := by
  rw [State.readBurst, h]
  rfl

/-- The two bursts of a line behind which nothing waits take what is stored, and nothing else changes. -/
theorem State.hostStore_line {s : State} {b : Nat} (p q : BitVec 256) (poison : Bool) (hb : b + 1 < moduleBursts)
    (h0 : s.waitingFor b = []) (h1 : s.waitingFor (b + 1) = []) :
    let t := (s.hostStore b p poison).hostStore (b + 1) q poison
    let found (x : BitVec 256) : ReadRes := if poison then .poison else .clean (mkBurst 0 0 x)
    t.readBurst b = found p ∧ t.readBurst (b + 1) = found q ∧
      (∀ a, a < 36 * b ∨ 36 * b + 72 ≤ a → memByte t.mem.cells a = memByte s.mem.cells a) ∧ t = { s with mem := t.mem } := by
  intro t found
  have hb0 : b < moduleBursts := by omega
  have hdecode (x : BitVec 256) :
      decodeBurst (if poison then poisonBurst (mkBurst 0 0 x) else encodeBurst (mkBurst 0 0 x)) = found x := by
    cases poison
    · exact burstCodeCorrects.1 _
    · exact burstCodeCorrects.2.1 _
  have hwait (c : Nat) (hc : s.waitingFor c = []) : (s.hostStore b p poison).waitingFor c = [] := by
    rw [State.hostStore_of_free p poison hb0 h0, State.waitingFor, State.countServed_queue, State.setRaw_queue]
    exact hc
  have hfirst := State.hostStore_of_free p poison hb0 h0
  have hsecond := State.hostStore_of_free q poison hb (hwait _ h1)
  have hwait2 (c : Nat) (hc : s.waitingFor c = []) : t.waitingFor c = [] := by
    rw [show t = _ from hsecond, State.waitingFor, State.countServed_queue, State.setRaw_queue]
    exact hwait c hc
  have hsame : SameOutside (b + 1) 1 (s.hostStore b p poison) t := State.hostStore_same q poison hb
  have hraw0 : t.rawBurst b = if poison then poisonBurst (mkBurst 0 0 p) else encodeBurst (mkBurst 0 0 p) := by
    rw [State.rawBurst_of_same hsame (.inl (Nat.le_refl _)), hfirst]
    exact State.rawBurst_setRaw s b _
  have hraw1 : t.rawBurst (b + 1) = if poison then poisonBurst (mkBurst 0 0 q) else encodeBurst (mkBurst 0 0 q) := by
    rw [show t = _ from hsecond]
    exact State.rawBurst_setRaw _ (b + 1) _
  refine ⟨?_, ?_, fun a ha => ?_, ?_⟩
  · rw [State.readBurst_of_free (hwait2 b h0), hraw0, hdecode]
  · rw [State.readBurst_of_free (hwait2 (b + 1) h1), hraw1, hdecode]
  · have hout : SameOutside b 2 s t := ((State.hostStore_same p poison hb0).mono (Nat.le_refl _) (by omega)).trans (hsame.mono (by omega) (Nat.le_refl _))
    exact hout a (by omega)
  · exact (State.hostStore_memOnly s b p poison).trans (State.hostStore_memOnly _ (b + 1) q poison)

/-! ## The dump's writes (R281) -/

theorem mapGet_of_notMem {α : Type} (d : α) {m : SMap α} {i : Nat} (h : ∀ e ∈ m, e.1 ≠ i) : mapGet d m i = d := by
  induction m with
  | nil => rfl
  | cons e m ih => rw [mapGet, if_neg (h e List.mem_cons_self), ih fun x hx => h x (List.mem_cons_of_mem _ hx)]

theorem mapGet_append_of_notMem {α : Type} (d : α) {m n : SMap α} {i : Nat} (h : ∀ e ∈ m, e.1 ≠ i) : mapGet d (m ++ n) i = mapGet d n i := by
  induction m with
  | nil => rfl
  | cons e m ih =>
    rw [List.cons_append, mapGet, if_neg (h e List.mem_cons_self), ih fun x hx => h x (List.mem_cons_of_mem _ hx)]

theorem mapGet_append_right_notMem {α : Type} (d : α) {m n : SMap α} {i : Nat} (h : ∀ e ∈ n, e.1 ≠ i) : mapGet d (m ++ n) i = mapGet d m i := by
  induction m with
  | nil => exact mapGet_of_notMem d h
  | cons e m ih => rw [List.cons_append, mapGet, mapGet, ih]

theorem length_chunks32 (n : Nat) (bs : List Byte) : (chunks32 n bs).length = n := by
  induction n generalizing bs with
  | zero => rfl
  | succ n ih => rw [chunks32, List.length_cons, ih]

/-- The cells of some bursts lie in those bursts. -/
theorem burstCells_range {b : Nat} {bs : List Byte} {e : Host.Cell} (h : e ∈ burstCells b bs) :
    36 * b ≤ e.1 ∧ e.1 < 36 * (b + (bs.length + 31) / 32) := by
  simp only [burstCells, List.mem_flatMap, List.mem_filter, List.mem_map] at h
  obtain ⟨c, hc, ⟨r, hr, rfl⟩, -⟩ := h
  have hc2 := (List.mem_zipIdx hc).2.1
  have hr2 := (List.mem_zipIdx hr).2.1
  rw [length_chunks32] at hc2
  rw [length_leBytes] at hr2
  exact ⟨by omega, by omega⟩

/-- Whole bursts laid in one piece into a memory leave its other cells. -/
theorem memByte_insertBursts (m : Memory) (b : Nat) (bs : List Byte) {k : Nat}
    (hk : k < 36 * b ∨ 36 * (b + (bs.length + 31) / 32) ≤ k) :
    memByte (m.filter (fun e => decide (e.1 < 36 * b)) ++ burstCells b bs
      ++ m.filter (fun e => decide (36 * (b + (bs.length + 31) / 32) ≤ e.1))) k = memByte m k := by
  have hmid : ∀ e ∈ burstCells b bs, e.1 ≠ k := fun e he => by
    have := burstCells_range he
    omega
  rcases hk with hk | hk
  · have hhigh : ∀ e ∈ m.filter (fun e => decide (36 * (b + (bs.length + 31) / 32) ≤ e.1)), e.1 ≠ k := fun e he => by
      have := of_decide_eq_true (List.mem_filter.1 he).2
      omega
    rw [memByte, mapGet_append_right_notMem 0 hhigh, mapGet_append_right_notMem 0 hmid,
      mapGet_filter_key 0 (fun i => decide (i < 36 * b)), if_pos (decide_eq_true hk)]
    rfl
  · have hlow : ∀ e ∈ m.filter (fun e => decide (e.1 < 36 * b)) ++ burstCells b bs, e.1 ≠ k := fun e he => by
      rcases List.mem_append.1 he with he | he
      · have := of_decide_eq_true (List.mem_filter.1 he).2
        omega
      · exact hmid e he
    rw [memByte, mapGet_append_of_notMem 0 hlow, mapGet_filter_key 0 (fun i => decide (36 * (b + (bs.length + 31) / 32) ≤ i)),
      if_pos (decide_eq_true hk)]
    rfl

theorem SameOutside.foldl {α : Type} {b n : Nat} {f : State → α → State} (l : List α) (s : State)
    (h : ∀ u, ∀ a ∈ l, SameOutside b n u (f u a)) : SameOutside b n s (l.foldl f s) :=
  List.foldlRecOn l f (motive := SameOutside b n s) (.of_eq rfl) fun u hu a ha => hu.trans (h u a ha)

theorem State.staleRange_same (s : State) (b n : Nat) : SameOutside b n s (s.staleRange b n) := .of_eq rfl

theorem State.writeDump_same (s : State) (a : Nat) (bs : List Byte) : SameOutside (a / 32) ((bs.length + 31) / 32) s (s.writeDump a bs) := by
  unfold State.writeDump
  dsimp only
  have hlaid : SameOutside (a / 32) ((bs.length + 31) / 32) s (s.setCells (s.cells.filter (fun e => decide (e.1 < 36 * (a / 32)))
      ++ burstCells (a / 32) bs ++ s.cells.filter (fun e => decide (36 * (a / 32 + (bs.length + 31) / 32) ≤ e.1)))) :=
    fun k hk => memByte_insertBursts s.mem.cells (a / 32) bs hk
  refine (hlaid.trans ((SameOutside.foldl _ _ fun u x hx k hk => ?busy).trans (SameOutside.foldl _ _ fun u x _ => .of_eq ?counted))).trans
    (State.staleRange_same _ _ _)
  case busy =>
    have hrange := (List.mem_filter.1 (List.mem_eraseDups.1 hx)).2
    simp only [Bool.and_eq_true, decide_eq_true_eq] at hrange
    have hlen : (memBytes s.cells (36 * x) 36).length = 36 := by simp [memBytes_eq_map]
    change memByte (memSetBytes u.cells (36 * x) (memBytes s.cells (36 * x) 36)) k = _
    rw [memByte_memSetBytes, hlen, if_neg (by omega)]
    rfl
  case counted => split <;> rfl

/-! ## Partial writes, grants and merges -/

theorem State.recordUes_cells (s : State) (source : Nat) (rs : List (Nat × ReadRes)) : (s.recordUes source rs).mem.cells = s.mem.cells := by
  unfold State.recordUes
  dsimp only
  split
  · split <;> simp only [State.memUe_cells]
  · exact State.memUe_cells _ _ _ _
  · rfl

theorem State.performWrite_same (s : State) (r : MemReq) (d : BitVec 272) : SameOutside r.addr.toNat 1 s (s.performWrite r d) := by
  unfold State.performWrite
  dsimp only
  split
  · exact s.setRaw_same _ _
  · exact (s.setRaw_same _ _).trans (.of_eq rfl)

theorem State.grant_same {s : State} {i : Nat} {r : MemReq} (h : s.choose i = some r) : SameOutside r.addr.toNat 1 s (s.grant i) := by
  unfold State.grant
  rw [h]
  dsimp only
  split
  · split
    · exact .of_eq rfl
    · exact SameOutside.trans (t := s.setSub i _) (.of_eq rfl) (State.performWrite_same _ r _)
  · exact .of_eq rfl

/-- The reads that a host's partial write begins with: each names one of its two bursts. -/
theorem hostReads_same {s : State} {b : Nat} {l : List Nat} (hl : ∀ j ∈ l, j ≤ 1) :
    let a := l.foldl (fun (a : List (Nat × ReadRes) × State) j =>
      let (r, s) := a.2.hostRead (b + j)
      (a.1 ++ [(b + j, r)], s)) ([], s)
    SameOutside b 2 s a.2 ∧ ∀ p ∈ a.1, b ≤ p.1 ∧ p.1 ≤ b + 1 := by
  refine List.foldlRecOn l _ (motive := fun a : List (Nat × ReadRes) × State => SameOutside b 2 s a.2 ∧ ∀ p ∈ a.1, b ≤ p.1 ∧ p.1 ≤ b + 1)
    ⟨.of_eq rfl, fun p hp => absurd hp List.not_mem_nil⟩ fun a ⟨hs, hps⟩ j hj => ⟨?_, fun p hp => ?_⟩
  · have := hl j hj
    exact hs.trans ((State.hostRead_same a.2 (b + j)).mono (Nat.le_add_right b j) (by omega))
  · have := hl j hj
    rcases List.mem_append.1 hp with hp | hp
    · exact hps p hp
    · rw [List.mem_singleton.1 hp]
      exact ⟨Nat.le_add_right b j, by dsimp only; omega⟩

theorem State.failWord_cells (s : State) (c : CtxIdx) (im : Sched) (t : TorIdx) (cause : Nat) :
    (s.failWord c im t cause).mem.cells = s.mem.cells := rfl

theorem State.statePoison_cells (s : State) : s.statePoison.mem.cells = s.mem.cells := congrArg Mem.cells (State.sendWithdraw_sent _).mem

/-- What follows a slot merge fails its writer where it met poison, and writes no cell. -/
theorem slotMerge_ends {u t : State} {r : ReadRes} {addr : BitVec 36} {cl : Client}
    (h : (match r with
      | .poison =>
        (match cl, clientTor cl with
          | .ni _, _ => .next u.statePoison
          | _, some t => (match u.torCtx t with
            | some c => (match (u.ctx c).image with
              | some im => .next ((if u.committedBurst addr.toNat then u.statePoison else u).failWord c im t 0x0C)
              | none => .next u)
            | none => .next u)
          | _, none => .next u)
      | _ => .next u : Host.Outcome State Fault Refusal) = .next t) : t.mem.cells = u.mem.cells := by
  have hpoison (p : Prop) [Decidable p] : (if p then u.statePoison else u).mem.cells = u.mem.cells := by
    split
    · exact State.statePoison_cells u
    · rfl
  split at h
  · split at h
    · cases h
      exact State.statePoison_cells u
    · split at h
      · split at h
        · cases h
          exact (State.failWord_cells _ _ _ _ _).trans (hpoison _)
        · cases h
          rfl
      · cases h
        rfl
    · cases h
      rfl
  · cases h
    rfl

end Sys2Proof.Machine

open Sys2Proof Sys2Proof.Machine

/-- Settles O22: both bursts are stored at once (`State.hostStore_line`). -/
theorem hostWriteStores : Obligations.HostWriteStores := by
  intro s hpa data b hserves hline hcut hb h0 h1
  have hexec (poison : Bool) : s.hostWrite hpa.toNat data poison =
      (s.hostStore b (data.extractLsb' 0 256) poison).hostStore (b + 1) (data.extractLsb' 256 256) poison := by
    simp only [State.hostWrite, hserves, hline, hcut, Bool.not_true, Bool.false_eq_true, if_false]
  have hclean : exec (.hostMemWrite hpa data) s = .next (s.hostWrite hpa.toNat data false) := rfl
  have hpoison : exec (.hostMemPoisonWrite hpa data) s = .next (s.hostWrite hpa.toNat data true) := rfl
  rw [hclean, hpoison, hexec, hexec]
  exact ⟨⟨_, rfl, State.hostStore_line _ _ false hb h0 h1⟩, ⟨_, rfl, State.hostStore_line _ _ true hb h0 h1⟩⟩

/-- Settles O23: each store names its bursts; what else it meets (corrections, uncorrectable reads, poison) writes no other. -/
theorem storesStayInTheirBursts : Obligations.StoresStayInTheirBursts := by
  refine ⟨fun s b d k hb hk => State.writeBurst_same d (toNat_burstAddr hb) k hk,
    fun s base size k => ⟨fun hk => ?_, fun hlo hhi => ?_⟩, fun s a bs k hk => State.writeDump_same s a bs k hk,
    fun s t hpa data mask b k hline hb hexec hk => ?partialWrite, fun s t sub r k hch hexec hk => ?grant,
    fun s t addr first ws cl k hexec hk => ?merge, fun s t a d k hexec hk => ?debug⟩
  · exact (memByte_memClear _ _ _ _).trans (if_neg (by omega))
  · exact (memByte_memClear _ _ _ _).trans (if_pos ⟨hlo, hhi⟩)
  case partialWrite =>
    change execHostMemPartialWrite hpa data mask s = .next t at hexec
    rw [execHostMemPartialWrite] at hexec
    split at hexec
    · cases hexec
      rfl
    · rw [hline] at hexec
      dsimp only at hexec
      have htouched : ∀ j ∈ [0, 1].filter (fun j => getLane 32 mask j != 0), j ≤ 1 := fun j hj => by
        have := (List.mem_filter.1 hj).1
        simp only [List.mem_cons, List.not_mem_nil, or_false] at this
        omega
      obtain ⟨hsame, hps⟩ := hostReads_same (s := s) (b := b) htouched
      split at hexec
      · cases hexec
        rw [State.recordUes_cells]
        exact hsame k (by omega)
      · cases hexec
        refine (hsame.trans (SameOutside.foldl _ _ fun u p hp => ?_)) k (by omega)
        have hrange := hps p hp
        exact (State.hostStore_same _ _ (by omega)).mono hrange.1 (by omega)
  case grant =>
    cases hexec
    split
    · exact State.grant_same hch k hk
    · rfl
  case merge =>
    have hmerge := State.mergeSlot_same (s := s) first.toNat ws (b := addr.toNat) (by simp) k (by omega)
    change execSlotMerge addr first ws cl s = .next t at hexec
    rw [execSlotMerge] at hexec
    split at hexec
    · cases hexec
      rfl
    · split at hexec
      · cases hexec
      · split at hexec
        · cases hexec
          rfl
        · rw [← hmerge]
          generalize s.mergeSlot addr.toNat first.toNat ws = m at hexec
          obtain ⟨r, u⟩ := m
          exact congrArg (fun m => memByte m k) (slotMerge_ends hexec)
  case debug =>
    change execDebugAccess (.memWrite a d) s = .next t at hexec
    rw [execDebugAccess] at hexec
    split at hexec
    · cases hexec
      rfl
    · split at hexec
      · cases hexec
        rfl
      · dsimp only at hexec
        split at hexec
        · cases hexec
        · split at hexec
          · cases hexec
            rfl
          · cases hexec
            exact State.writeBurst_same d (by simp) k (by omega)

end

section
/-! O20 and O21: slot merges, scrub requests, host accesses and snoops, each by the cases its command tells apart. -/

namespace Sys2Proof.Machine
open Sys2Proof

/-! ## Host accesses (R184) -/

/-- The one half of a line that a partial write touches when the mask names bytes of the lower half only. -/
theorem halves_touched_low {mask : BitVec 64} (h0 : getLane 32 mask 0 ≠ 0) (h1 : getLane 32 mask 1 = 0) :
    [0, 1].filter (fun j => getLane 32 mask j != 0) = [0] := by
  rw [List.filter_cons_of_pos (by simpa using h0), List.filter_cons_of_neg (by simp [h1]), List.filter_nil]

/-- A partial write of the lower half merges the masked bytes into what the burst read. -/
theorem execHostMemPartialWrite_low_of_data {s : State} {hpa : BitVec 64} {data : BitVec 512} {mask : BitVec 64} {b : Nat}
    {d : BitVec 272} (hserves : s.hostServes = true) (hcut : s.hostCut = false) (hline : s.hostBurst hpa.toNat = some b)
    (h0 : getLane 32 mask 0 ≠ 0) (h1 : getLane 32 mask 1 = 0) (hd : (s.hostRead b).1.data? = some d) :
    execHostMemPartialWrite hpa data mask s = .next
      ((s.hostRead b).2.hostStore b (mergeBytes (payload d) (data.extractLsb' 0 256) (getLane 32 mask 0)) false) := by
  have hdata : (s.hostRead b).1 = .clean d ∨ (s.hostRead b).1 = .corrected d := by
    cases hr : (s.hostRead b).1 <;> simp_all [ReadRes.data?]
  unfold execHostMemPartialWrite
  simp only [hserves, hline, hcut, halves_touched_low h0 h1, Bool.not_true, Bool.or_self, Bool.false_eq_true, if_false,
    List.foldl_cons, List.foldl_nil, List.nil_append, Nat.add_zero, Nat.sub_self]
  rcases hdata with hr | hr
  · rw [hr]
    rfl
  · rw [hr]
    rfl

/-- A partial write of the lower half that finds its burst uncorrectable writes nothing and records it (R170). -/
theorem execHostMemPartialWrite_low_of_uncorrectable {s : State} {hpa : BitVec 64} {data : BitVec 512} {mask : BitVec 64} {b : Nat}
    {sy : BitVec 16} (hserves : s.hostServes = true) (hcut : s.hostCut = false) (hline : s.hostBurst hpa.toNat = some b)
    (h0 : getLane 32 mask 0 ≠ 0) (h1 : getLane 32 mask 1 = 0) (hs : (s.hostRead b).1 = .uncorrectable sy) :
    execHostMemPartialWrite hpa data mask s = .next ((s.hostRead b).2.memUe b sy 6) := by
  have hread : (s.hostRead (b + 0)).1 = .uncorrectable sy := hs
  unfold execHostMemPartialWrite
  simp only [hserves, hline, hcut, halves_touched_low h0 h1, Bool.not_true, Bool.or_self, Bool.false_eq_true, if_false,
    List.foldl_cons, List.foldl_nil, List.nil_append]
  rw [hread]
  rfl

end Sys2Proof.Machine

open Sys2Proof Sys2Proof.Machine

/-- Settles O20: a merge by what its read found, a scrub request by whether one waits. -/
theorem slotMergeAndScrubComplete : Obligations.SlotMergeAndScrubComplete := by
  refine ⟨fun s addr first ws cl hw hc => ⟨fun hpop hbar => ?merge, fun hpop => ?stops⟩, fun s sub hw hinit => ?scrub⟩
  case merge =>
    intro m
    have hexec : exec (.slotMerge addr first ws cl) s = execSlotMerge addr first ws cl s := rfl
    rw [hexec, execSlotMerge, hw, hc]
    simp only [Bool.not_true, Bool.or_self, Bool.false_eq_true, if_false, if_neg (Nat.not_le.2 hpop), hbar]
    rw [show s.mergeSlot addr.toNat first.toNat ws = (m.1, m.2) from rfl]
    refine ⟨fun hne => ?_, fun k hp hcl => ?_, fun t c im hp hcl hctx him => ?_⟩
    · split
      next hp => exact absurd hp hne
      · rfl
    · simp only [hp, hcl, clientTor]
    · simp only [hp, hcl, clientTor, hctx, him]
  case stops =>
    change execSlotMerge addr first ws cl s = _
    simp [execSlotMerge, hw, hc, hpop]
  case scrub =>
    intro q
    have hexec : exec (.scrubRequest sub) s = .next (s.setSub sub.toNat
        (if q.queue.any (fun r => r.client == .scrub) then { q with scrubDue := true } else q.nextScrub sub.toNat)) := by
      change execScrubRequest sub s = _
      simp only [execScrubRequest, hw, hinit, Bool.not_true, Bool.or_self, Bool.false_eq_true, if_false]
      rfl
    exact ⟨fun h => hexec.trans (by rw [if_pos h]), fun h => hexec.trans (by rw [if_neg (Bool.eq_false_iff.1 h)]; rfl)⟩

/-- Settles O21: each host command on an open port, before and after CONTAINED. -/
theorem hostAccessesComplete : Obligations.HostAccessesComplete := by
  refine ⟨fun s hpa data mask b hserves hline => ⟨fun hcut => ?cut, fun hcut => ⟨fun d0 d1 h0 h1 => ?read, ?_, ?_, fun hm0 hm1 => ?_⟩⟩,
    fun s hpa b w hpow hline hfind => ?response, fun s hpa hpow hup => ?snoops⟩
  case cut =>
    refine ⟨?_, ?_, ?_, ?_⟩
    · change execHostMemRead hpa s = _
      simp [execHostMemRead, hserves, hline, hcut]
    · change execHostMemWrite hpa data s = _
      simp [execHostMemWrite, State.hostWrite, hserves, hline, hcut]
    · change execHostMemPoisonWrite hpa data s = _
      simp [execHostMemPoisonWrite, State.hostWrite, hserves, hline, hcut]
    · change execHostMemPartialWrite hpa data mask s = _
      simp [execHostMemPartialWrite, hcut]
  case read =>
    change execHostMemRead hpa s = _
    simp only [execHostMemRead, hserves, hline, hcut, h0, h1, Bool.not_true, Bool.false_eq_true, if_false]
  · change execHostMemWrite hpa data s = _
    simp only [execHostMemWrite, State.hostWrite, hserves, hline, hcut, Bool.not_true, Bool.false_eq_true, if_false]
  · change execHostMemPoisonWrite hpa data s = _
    simp only [execHostMemPoisonWrite, State.hostWrite, hserves, hline, hcut, Bool.not_true, Bool.false_eq_true, if_false]
  · exact ⟨fun d hd => execHostMemPartialWrite_low_of_data hserves hcut hline hm0 hm1 hd,
      fun sy hs => execHostMemPartialWrite_low_of_uncorrectable hserves hcut hline hm0 hm1 hs⟩
  case response =>
    change execBisnpResponse hpa s = _
    simp only [execBisnpResponse, hpow, hline, hfind, Bool.not_true, Bool.false_eq_true, if_false]
  case snoops =>
    refine ⟨?_, ?_, ?_⟩
    · change execSnpinv hpa s = _
      simp [execSnpinv, hpow, hup]
    · change execSnpdata hpa s = _
      simp [execSnpdata, hpow, hup]
    · change execSnpcur hpa s = _
      simp [execSnpcur, hpow, hup]

end

section
/-! O24 to O28: the links. Each command on ports that work is one equation; the flow window (O28) is one set of numbers
that a flow has taken, and an accepted number adds itself to it. -/

namespace Sys2Proof.Machine
open Sys2Proof

/-- Working ports pass frames. -/
theorem State.framesOn_of_linksOn {s : State} (h : s.linksOn = true) : s.framesOn = true := (Bool.and_eq_true_iff.1 h).1

/-- A port that is up is lit. -/
theorem Port.lit_of_up {p : Port} (h : p.state = 3) : p.lit = true := by simp [Port.lit, h]

/-! ## Training and claims (R188, R202) -/

section
variable {s : State} {port : BitVec 7} (hon : s.linksOn = true) (hport : port.toNat < 96)
include hon hport

theorem exec_linkTrainingDone_of_training (hst : (s.port port.toNat).state = 1) (trained : Bool) (rtt : BitVec 16) :
    exec (.linkTrainingDone port trained rtt) s = .next (
      if !trained then (s.portMissing port.toNat).portChanged
      else if 1200 < rtt.toNat then
        ((s.setPort port.toNat { s.port port.toNat with rtt := rtt, state := 5, outcome := 6 }).raise 0x24 port.toNat).portChanged
      else if s.portClass port.toNat = 0 then
        ((s.setPort port.toNat { s.port port.toNat with rtt := rtt, state := 0, outcome := 3 }).raise 0x25 port.toNat).portChanged
      else ((s.setPort port.toNat { s.port port.toNat with rtt := rtt, state := 2, claimed := false }).sendClaim port.toNat).portChanged) := by
  change execLinkTrainingDone port trained rtt s = _
  simp [execLinkTrainingDone, hon, hst, Nat.not_le.2 hport]

theorem exec_claimSend_of_claiming (hst : (s.port port.toNat).state = 2) (hclaim : (s.port port.toNat).claimed = false) :
    exec (.claimSend port) s = .next (s.sendClaim port.toNat) := by
  change execClaimSend port s = _
  simp [execClaimSend, hon, hport, hst, hclaim]

theorem exec_discoveryTimeout_of_undecided (hplan : s.portClass port.toNat ≠ 0) (hout : (s.port port.toNat).outcome = 0) :
    exec (.discoveryTimeout port) s = .next ((s.portMissing port.toNat).portChanged) := by
  change execDiscoveryTimeout port s = _
  simp [execDiscoveryTimeout, hon, hport, hplan, hout]

theorem exec_portRetrain_of_down (hst : (s.port port.toNat).state = 4) : exec (.portRetrain port) s = .next (s.retrain port.toNat) := by
  change execPortRetrain port s = _
  simp [execPortRetrain, hon, hport, hst]

theorem exec_rediscover_of_out (hst : (s.port port.toNat).state = 4 ∨ (s.port port.toNat).state = 5) :
    exec (.rediscover port) s = .next (s.retrain port.toNat) := by
  change execRediscover port s = _
  rcases hst with hst | hst <;> simp [execRediscover, State.rediscover, hon, hport, hst]

/-- What a claim does on a port that claims or is up. -/
theorem exec_claim_of_claiming (c : ClaimData) (hst : (s.port port.toNat).state = 2) :
    exec (.claim port c) s = .next (
      let q : Port := { s.port port.toNat with neighAddr := c.addr, neighPort := c.port, digest := c.digest, claimed := true }
      let late := s.links.state == 2 && s.boot.mode == 1 && !s.idle
      if s.claimOutcome port.toNat c = 1 then
        ((s.setPort port.toNat { q with outcome := 1, state := if late then 2 else 3, returnAtCairn := late }).sendClaim port.toNat).portChanged
      else
        (((s.setPort port.toNat { q with outcome := s.claimOutcome port.toNat c, state := 5 }).raise 0x26 port.toNat).sendClaim
          port.toNat).portChanged) := by
  change execClaim port c s = _
  simp [execClaim, hon, hst, Nat.not_le.2 hport]

theorem exec_claim_of_up (c : ClaimData) (hst : (s.port port.toNat).state = 3) :
    exec (.claim port c) s = .next (
      let q : Port := { s.port port.toNat with neighAddr := c.addr, neighPort := c.port, digest := c.digest, claimed := true }
      if (s.port port.toNat).neighAddr = c.addr ∧ (s.port port.toNat).neighPort = c.port then s.setPort port.toNat q
      else ((((s.setPort port.toNat { q with outcome := 4 }).portDown port.toNat 5).raise 0x26 port.toNat).sendClaim
        port.toNat).portChanged) := by
  change execClaim port c s = _
  simp [execClaim, hon, hst, Nat.not_le.2 hport]

end

theorem exec_rangeMap_of_whole {s : State} {slot : BitVec 6} {counts : List (BitVec 2)} (hon : s.linksOn = true)
    (hslot : slot.toNat ≤ 32) (hlen : counts.length = 33) :
    exec (.rangeMap slot counts) s = .next
      { s with links := { s.links with rangeMaps := mapSet [] s.links.rangeMaps slot.toNat counts } }.linkCheck := by
  change execRangeMap slot counts s = _
  simp [execRangeMap, hon, hslot, hlen]

/-- Table 10-5: MATCH is class, address and port as planned. -/
theorem State.claimOutcome_eq_one (s : State) (n : Nat) (c : ClaimData) :
    s.claimOutcome n c = 1 ↔ (c.fromSwitch = (s.portClass n == 2) ∧ c.addr.toNat = field (s.planPort n) 14 15 ∧
      c.port.toNat = field (s.planPort n) 7 7) := by
  unfold State.claimOutcome
  by_cases hclass : c.fromSwitch = (s.portClass n == 2)
  · by_cases hplace : c.addr.toNat = field (s.planPort n) 14 15 ∧ c.port.toNat = field (s.planPort n) 7 7
    · simp [hclass, hplace]
    · rw [if_neg (by simp [hclass]), if_neg hplace]
      exact iff_of_false (by decide) fun h => hplace h.2
  · simp [hclass]

/-- Table 10-5: WRONG_CLASS is the wrong class. -/
theorem State.claimOutcome_eq_five (s : State) (n : Nat) (c : ClaimData) :
    s.claimOutcome n c = 5 ↔ c.fromSwitch ≠ (s.portClass n == 2) := by
  unfold State.claimOutcome
  by_cases hclass : c.fromSwitch = (s.portClass n == 2)
  · by_cases hplace : c.addr.toNat = field (s.planPort n) 14 15 ∧ c.port.toNat = field (s.planPort n) 7 7
    · simp [hclass, hplace]
    · simp [hclass, hplace]
  · simp [hclass]

/-! ## Ports that go down (R187, R193, R194) -/

/-- A port that is up drops by going down. -/
theorem State.dropPort_of_up {s : State} {n : Nat} (h : (s.port n).state = 3) : s.dropPort n = (s.portDown n 4).portChanged :=
  if_pos h

/-- A go-back sends everything unacknowledged again, unless the oldest was sent eight times. -/
theorem State.goBack_cons {s : State} {n sends : Nat} {k : Packet} {rest : List (Packet × Nat)} (h : (s.port n).retry = (k, sends) :: rest) :
    s.goBack n = if 8 ≤ sends then s.dropPort n
      else (s.setPort n { s.port n with retry := (s.port n).retry.map (fun e => (e.1, e.2 + 1)),
                                        retries := (s.port n).retries + BitVec.ofNat 16 (s.port n).retry.length }).sendOut n
        (((s.port n).retry.map (fun e => (e.1, e.2 + 1))).map (·.1)) := by
  simp only [State.goBack, h]

section
variable {s : State} {port : BitVec 7} (hon : s.linksOn = true) (hport : port.toNat < 96) (hup : (s.port port.toNat).state = 3)
include hon hport hup

theorem exec_laneLockLoss_of_up : exec (.laneLockLoss port) s = .next ((s.portDown port.toNat 4).portChanged) := by
  change execLaneLockLoss port s = _
  simp [execLaneLockLoss, hon, hport, State.dropPort_of_up hup]

theorem exec_controlFrameTimeout_of_up : exec (.controlFrameTimeout port) s = .next ((s.portDown port.toNat 4).portChanged) := by
  change execControlFrameTimeout port s = _
  simp [execControlFrameTimeout, hon, hport, State.dropPort_of_up hup]

theorem exec_uncorrectableCodeword_of_up :
    exec (.uncorrectableCodeword port) s = .next (
      let p := s.port port.toNat
      let ts := p.cwTicks.filter (fun t => decide ((s.pwr.ticks - t).toNat < 1000000)) ++ [s.pwr.ticks]
      let u := s.setPort port.toNat { p with uncorrCw := satInc p.uncorrCw, cwTicks := ts }
      if 16 < ts.length then u.dropPort port.toNat else u) := by
  change execUncorrectableCodeword port s = _
  simp [execUncorrectableCodeword, hon, hup, Nat.not_le.2 hport]

theorem exec_retryTimeout_of_up : exec (.retryTimeout port) s = .next (s.goBack port.toNat) := by
  change execRetryTimeout port s = _
  simp [execRetryTimeout, State.framesOn_of_linksOn hon, hport, Port.lit_of_up hup]

/-! ## Control frames (R187, R192, R193) -/

theorem exec_controlFrame_of_up (check : FrameCheck) (ack : BitVec 8) (nak : Bool) (ctl data shared : BitVec 5) :
    exec (.controlFrame port check ack nak ctl data shared) s = .next (
      let p1 : Port := { s.port port.toNat with corrected := (s.port port.toNat).corrected + check.corrected.setWidth 64 }
      let s1 := s.setPort port.toNat { p1.regain (p1.sinceLast 0 ctl) (p1.sinceLast 1 data) (p1.sinceLast 2 shared) with
        retry := acknowledge p1.retry ack, returned := [ctl.toNat, data.toNat, shared.toNat] }
      if !check.valid then s.setPort port.toNat p1 else (if nak then s1.goBack port.toNat else s1).pumpPort port.toNat) := by
  change execControlFrame port check ack nak ctl data shared s = _
  simp [execControlFrame, State.framesOn_of_linksOn hon, Port.lit_of_up hup, Nat.not_le.2 hport]

theorem exec_controlFrameSend_of_up :
    exec (.controlFrameSend port) s = .next (s.emit (.controlOut port.toNat ((s.port port.toNat).rxNext - 1) (s.port port.toNat).nak
      (nth 0 (s.port port.toNat).freed 0 % 32) (nth 0 (s.port port.toNat).freed 1 % 32) (nth 0 (s.port port.toNat).freed 2 % 32))) := by
  change execControlFrameSend port s = _
  simp [execControlFrameSend, State.framesOn_of_linksOn hon, Port.lit_of_up hup, Nat.not_le.2 hport]

end

/-- R192: what comes back fills the kinds up to what they start with, and no credit is lost below the sixteen of all. -/
theorem Port.regain_bounds (p : Port) (ctl data shared : Nat) (hc : p.creditCtl ≤ 2) (hd : p.creditData ≤ 2) (hs : p.creditShared ≤ 12) :
    (p.regain ctl data shared).creditCtl ≤ 2 ∧ (p.regain ctl data shared).creditData ≤ 2 ∧ (p.regain ctl data shared).creditShared ≤ 12 ∧
    min 16 (p.creditCtl + p.creditData + p.creditShared + ctl + data + shared) =
      (p.regain ctl data shared).creditCtl + (p.regain ctl data shared).creditData + (p.regain ctl data shared).creditShared := by
  simp only [Port.regain]
  omega

/-- A sequence that no packet of the buffer has drops none. -/
theorem acknowledge_of_absent {q : List (Packet × Nat)} {ack : BitVec 8} (h : ∀ e ∈ q, Header.lseq e.1.header ≠ ack) :
    acknowledge q ack = q := by
  have hnone : q.findIdx? (fun e => Header.lseq e.1.header == ack) = none :=
    List.findIdx?_eq_none_iff.2 fun e he => by simpa using h e he
  simp only [acknowledge, hnone]

/-- The packets up to the first one with the sequence are dropped. -/
theorem acknowledge_append {before after : List (Packet × Nat)} {e : Packet × Nat} {ack : BitVec 8}
    (h : ∀ x ∈ before, Header.lseq x.1.header ≠ ack) (he : Header.lseq e.1.header = ack) :
    acknowledge (before ++ e :: after) ack = after := by
  have hidx : (before ++ e :: after).findIdx? (fun e => Header.lseq e.1.header == ack) = some before.length := by
    rw [List.findIdx?_append, List.findIdx?_eq_none_iff.2 (fun x hx => by simpa using h x hx)]
    simp [List.findIdx?_cons, he]
  simp only [acknowledge, hidx]
  simp

/-! ## Reception (R189 to R199) -/

/-- R190, R193: the tests of the link on a packet, in a port that expects the sequence `next`. -/
def packetUnfit (r : RawPacket) (overlaps : Bool) (next : BitVec 8) : Bool :=
  overlaps || decide (4096 < Header.length r.header) || r.payload.length != Header.length r.header
    || packetCrc r.header r.payload != r.crc || Header.lseq r.header != next

section
variable {s : State} {port : BitVec 7} (hon : s.linksOn = true) (hport : port.toNat < 96) (hup : (s.port port.toNat).state = 3)
include hon hport hup

/-- Reception on a port that is up, in a module that is not contained. -/
theorem exec_packetReceive_of_up (r : RawPacket) (overlaps : Bool) (corrected : BitVec 16) :
    exec (.packetReceive port r overlaps corrected) s = .next (
      let n := port.toNat
      let p : Port := { s.port n with corrected := (s.port n).corrected + corrected.setWidth 64 }
      if packetUnfit r overlaps p.rxNext then s.setPort n { p with nak := true }
      else match p.slotKind (Header.cls r.header) with
        | none => s.setPort n { p with nak := true }
        | some kind =>
          let k : Packet := { header := r.header, payload := r.payload }
          let s1 := s.setPort n { p with rxNext := p.rxNext + 1, nak := false }
          if Header.malformed r.header then (s1.setPort n { s1.port n with malformed := satInc (s1.port n).malformed }).freeSlot n kind
          else if s.err.containState = 2 ∧ Header.type r.header ≠ 0x10 ∧ Header.type r.header ≠ 0x0B then s1.freeSlot n kind
          else if Header.dest r.header = s.plan.ownAddr ∨ Header.type r.header = 0x10 then s1.consumePacket n k kind
          else s1.forwardPacket n k kind) := by
  have hfree : s.err.containState ≠ 1 := by simpa using (Bool.and_eq_true_iff.1 hon).2
  change execPacketReceive port r overlaps corrected s = _
  have hgate : (!s.framesOn || decide (96 ≤ port.toNat) || !(s.port port.toNat).lit) = false := by
    simp [State.framesOn_of_linksOn hon, Port.lit_of_up hup, hport]
  have hlate : ((s.port port.toNat).state != 3) = false := by simp [hup]
  simp only [execPacketReceive, hgate, hlate, Bool.false_and, Bool.or_false, Bool.false_eq_true, if_false, packetUnfit]
  refine congrArg _ (ite_eq_ite_of_iff Iff.rfl rfl ?_)
  generalize Port.slotKind _ (Header.cls r.header) = kind
  cases kind with
  | none => rfl
  | some kind => exact ite_eq_ite_of_iff Iff.rfl rfl (if_neg hfree)

end

section
variable {s : State} {n kind : Nat} {k : Packet} (htype : Header.type k.header ≠ 0x10) (hslot : Header.slotFlow k.header = false)
include htype hslot

/-- A positional packet of this module goes by its standing. -/
theorem State.consumePacket_of_stale (hst : s.standing k.header = .stale) :
    s.consumePacket n k kind = (s.setPort n { s.port n with stale := satInc (s.port n).stale }).freeSlot n kind := by
  simp only [State.consumePacket, if_neg htype, hslot, hst, Bool.false_eq_true, if_false]

theorem State.consumePacket_of_waiting (hst : s.standing k.header = .now) (hwait : s.mustWait k = true) :
    s.consumePacket n k kind = s.setPort n { s.port n with rxSlots := (s.port n).rxSlots ++ [(k, kind)] } := by
  simp only [State.consumePacket, if_neg htype, hslot, hst, hwait, Bool.false_eq_true, if_false, if_true]

theorem State.consumePacket_of_now (hst : s.standing k.header = .now) (hgo : s.mustWait k = false) :
    s.consumePacket n k kind = s.flowTest n k kind := by
  simp only [State.consumePacket, if_neg htype, hslot, hst, hgo, Bool.false_eq_true, if_false]

omit htype in
theorem State.flowTest_of_accepted {x : Flow}
    (hacc : (s.flow (2 * Header.srcPos k.header + Header.cls k.header)).accept (Header.seq k.header) = .accepted x) :
    s.flowTest n k kind = (((s.setFlow (2 * Header.srcPos k.header + Header.cls k.header) x).freeSlot n kind).emit (.handed n k)).ackIfDue
      false (2 * Header.srcPos k.header + Header.cls k.header) := by
  simp only [State.flowTest, hslot, Bool.false_eq_true, if_false, hacc, State.handOver]

omit htype in
theorem State.flowTest_of_duplicate
    (hdup : (s.flow (2 * Header.srcPos k.header + Header.cls k.header)).accept (Header.seq k.header) = .duplicate) :
    s.flowTest n k kind = (s.setPort n { s.port n with dupDrops := satInc (s.port n).dupDrops }).freeSlot n kind := by
  simp only [State.flowTest, hslot, Bool.false_eq_true, if_false, hdup]

end

/-! ## The window of a flow (R196) -/

/-- The numbers a flow has taken: those below BASE and those whose bit is set. -/
def Flow.taken (x : Flow) (r : Nat) : Prop := r < x.base.toNat ∨ ∃ i, x.seen.getLsbD i = true ∧ r = x.base.toNat + i

/-- What finds a duplicate is a number the flow has taken. -/
theorem Flow.accept_eq_duplicate (x : Flow) (q : BitVec 32) : x.accept q = .duplicate ↔ x.taken q.toNat := by
  unfold Flow.accept Flow.taken
  by_cases hold : q.toNat < x.base.toNat
  · simp [hold]
  · have hbit : (∃ i, x.seen.getLsbD i = true ∧ q.toNat = x.base.toNat + i) ↔ x.seen.getLsbD (q.toNat - x.base.toNat) = true := by
      constructor
      · rintro ⟨i, hi, hq⟩
        rwa [hq, Nat.add_sub_cancel_left]
      · exact fun h => ⟨_, h, by omega⟩
    rw [if_neg hold, hbit]
    by_cases hfar : 256 ≤ q.toNat - x.base.toNat
    · simp [hold, hfar]
    · by_cases hseen : x.seen.getLsbD (q.toNat - x.base.toNat) = true <;> simp [hold, hfar, bit, hseen]

theorem toNat_succ_of_lt {b : BitVec 32} (h : b.toNat + 1 < 2 ^ 32) : (b + 1).toNat = b.toNat + 1 :=
  Nat.mod_eq_of_lt h

/-- One place that BASE moves on past a set bit leaves what the flow has taken. -/
theorem Flow.taken_advance (x : Flow) (hfit : x.base.toNat + 1 < 2 ^ 32) (h0 : x.seen.getLsbD 0 = true) (r : Nat) :
    ({ x with base := x.base + 1, seen := x.seen >>> 1 } : Flow).taken r ↔ x.taken r := by
  have hbase := toNat_succ_of_lt hfit
  unfold Flow.taken
  simp only [hbase, BitVec.getLsbD_ushiftRight]
  constructor
  · rintro (hlt | ⟨i, hi, hr⟩)
    · rcases Nat.lt_succ_iff_lt_or_eq.1 hlt with hlt | heq
      · exact .inl hlt
      · exact .inr ⟨0, h0, heq⟩
    · exact .inr ⟨1 + i, hi, by omega⟩
  · rintro (hlt | ⟨i, hi, hr⟩)
    · exact .inl (by omega)
    · cases i with
      | zero => exact .inl (by omega)
      | succ i => exact .inr ⟨i, by rwa [Nat.add_comm], by omega⟩

/-- BASE slides past set bits: it does not go back, and what the flow has taken stays. -/
theorem Flow.slide_spec : ∀ (n : Nat) (x : Flow), x.base.toNat + n < 2 ^ 32 →
    x.base.toNat ≤ (x.slide n).base.toNat ∧ ∀ r, (x.slide n).taken r ↔ x.taken r
  | 0, x, _ => ⟨Nat.le_refl _, fun _ => Iff.rfl⟩
  | n + 1, x, hfit => by
    by_cases h0 : x.seen.getLsbD 0 = true
    · have hbase : (x.base + 1).toNat = x.base.toNat + 1 := toNat_succ_of_lt (by omega)
      obtain ⟨hle, htaken⟩ := Flow.slide_spec n { x with base := x.base + 1, seen := x.seen >>> 1 } (by rw [hbase]; omega)
      rw [show x.slide (n + 1) = Flow.slide n { x with base := x.base + 1, seen := x.seen >>> 1 } from if_pos h0]
      exact ⟨by rw [hbase] at hle; omega, fun r => (htaken r).trans (x.taken_advance (by omega) h0 r)⟩
    · rw [show x.slide (n + 1) = x from if_neg h0]
      exact ⟨Nat.le_refl _, fun _ => Iff.rfl⟩

/-- Setting a bit of the window takes that number. -/
theorem Flow.taken_set (x : Flow) {i : Nat} (hi : i < 256) (r : Nat) :
    ({ x with seen := x.seen ||| (1 <<< i) } : Flow).taken r ↔ x.taken r ∨ r = x.base.toNat + i := by
  have hbit (j : Nat) : (x.seen ||| (1 <<< i)).getLsbD j = true ↔ x.seen.getLsbD j = true ∨ j = i := by
    rw [BitVec.getLsbD_or, Bool.or_eq_true, BitVec.natCast_eq_ofNat, BitVec.getLsbD_ofNat, Nat.one_shiftLeft, Nat.testBit_two_pow]
    rw [Bool.and_eq_true, decide_eq_true_eq, decide_eq_true_eq]
    exact or_congr Iff.rfl ⟨fun h => h.2.symm, fun h => ⟨h ▸ hi, h.symm⟩⟩
  unfold Flow.taken
  simp only [hbit]
  constructor
  · rintro (hlt | ⟨j, hj | rfl, hr⟩)
    · exact .inl (.inl hlt)
    · exact .inl (.inr ⟨j, hj, hr⟩)
    · exact .inr hr
  · rintro ((hlt | ⟨j, hj, hr⟩) | hr)
    · exact .inl hlt
    · exact .inr ⟨j, .inl hj, hr⟩
    · exact .inr ⟨i, .inr rfl, hr⟩

/-- R196: a flow accepts a number within 256 of BASE, and adds it to what it has taken. -/
theorem Flow.accept_eq_accepted {x y : Flow} {q : BitVec 32} (hfit : x.base.toNat + 512 < 2 ^ 32) (h : x.accept q = .accepted y) :
    x.base.toNat ≤ q.toNat ∧ q.toNat < x.base.toNat + 256 ∧ x.base.toNat ≤ y.base.toNat ∧
      ∀ r, y.taken r ↔ x.taken r ∨ r = q.toNat := by
  unfold Flow.accept at h
  by_cases hold : q.toNat < x.base.toNat
  · rw [if_pos hold] at h
    cases h
  · rw [if_neg hold] at h
    by_cases hfar : 256 ≤ q.toNat - x.base.toNat
    · rw [if_pos hfar] at h
      cases h
    · rw [if_neg hfar] at h
      split at h
      · cases h
      · cases h
        obtain ⟨hle, htaken⟩ := Flow.slide_spec 256 { x with seen := x.seen ||| (1 <<< (q.toNat - x.base.toNat)) } (by
          change x.base.toNat + 256 < 2 ^ 32
          omega)
        refine ⟨by omega, by omega, hle, fun r => (htaken r).trans ?_⟩
        rw [x.taken_set (by omega), Nat.add_sub_cancel' (by omega)]

/-! ## Flow acknowledgements (R196) -/

section
variable {s : State} (hon : s.linksOn = true) {flow : BitVec 15}
include hon

theorem exec_flowAck_of_ahead {base : BitVec 32} (hlo : (s.flow flow.toNat).acked.toNat < base.toNat)
    (hhi : base.toNat ≤ (s.flow flow.toNat).nextSeq.toNat) :
    exec (.flowAck false flow base) s = .next
      ((s.setFlow flow.toNat { s.flow flow.toNat with acked := base }).flushFlow (s.flow flow.toNat).wait.length flow.toNat) := by
  change execFlowAck false flow base s = _
  simp [execFlowAck, hon, hlo, hhi]

theorem exec_flowAck_slot_of_ahead {base : BitVec 32} (hf : flow.toNat < 66) (hlo : (s.slotFlowOf flow.toNat).acked.toNat < base.toNat)
    (hhi : base.toNat ≤ (s.slotFlowOf flow.toNat).nextSeq.toNat) :
    exec (.flowAck true flow base) s = .next ((s.setSlotFlow flow.toNat { s.slotFlowOf flow.toNat with acked := base }).flushSlot
      (s.slotFlowOf flow.toNat).wait.length flow.toNat) := by
  change execFlowAck true flow base s = _
  simp [execFlowAck, hon, hf, hlo, hhi]

theorem exec_flowAckSend_of_moved (hmoved : (s.flow flow.toNat).base ≠ (s.flow flow.toNat).lastAck) :
    exec (.flowAckSend false flow) s = .next (s.sendFlowAck false flow.toNat) := by
  change execFlowAckSend false flow s = _
  simp [execFlowAckSend, hon, hmoved]

theorem exec_flowAckSend_slot_of_moved (hf : flow.toNat < 66) (hmoved : (s.slotFlowOf flow.toNat).base ≠ (s.slotFlowOf flow.toNat).lastAck) :
    exec (.flowAckSend true flow) s = .next (s.sendFlowAck true flow.toNat) := by
  change execFlowAckSend true flow s = _
  simp [execFlowAckSend, hon, hmoved, Nat.not_le.2 hf]

end

end Sys2Proof.Machine

open Sys2Proof Sys2Proof.Machine

/-- Settles O24: each command of discovery by its equation, then the branch that the hypothesis names. -/
theorem discoveryCompletes : Obligations.DiscoveryCompletes := by
  refine ⟨fun s port hon hport => ?discovery, fun s port c hon hport => ?claims⟩
  case discovery =>
    refine ⟨fun hst rtt => ⟨?_, fun hlong => ?_, fun hshort hplan => ?_, fun hshort hplan => ?_⟩,
      exec_claimSend_of_claiming hon hport, exec_discoveryTimeout_of_undecided hon hport,
      fun slot counts => exec_rangeMap_of_whole hon, exec_portRetrain_of_down hon hport, exec_rediscover_of_out hon hport⟩
    · exact exec_linkTrainingDone_of_training hon hport hst false rtt
    · exact (exec_linkTrainingDone_of_training hon hport hst true rtt).trans (congrArg _ (if_pos hlong))
    · exact (exec_linkTrainingDone_of_training hon hport hst true rtt).trans
        (congrArg _ ((if_neg (Nat.not_lt.2 hshort)).trans (if_pos hplan)))
    · exact (exec_linkTrainingDone_of_training hon hport hst true rtt).trans
        (congrArg _ ((if_neg (Nat.not_lt.2 hshort)).trans (if_neg hplan)))
  case claims =>
    refine ⟨s.claimOutcome_eq_one _ c, s.claimOutcome_eq_five _ c, fun hst hmatch => ?_, fun hst hmiss => ?_, fun hst ha hp => ?_,
      fun hst hne => ?_⟩
    · exact (exec_claim_of_claiming hon hport c hst).trans (congrArg _ (if_pos hmatch))
    · exact (exec_claim_of_claiming hon hport c hst).trans (congrArg _ (if_neg hmiss))
    · exact (exec_claim_of_up hon hport c hst).trans (congrArg _ (if_pos ⟨ha, hp⟩))
    · exact (exec_claim_of_up hon hport c hst).trans (congrArg _ (if_neg (Classical.not_and_iff_not_or_not.2 hne)))

/-- Settles O25: a port that is up drops by going down, a go-back by the sends of the oldest packet. -/
theorem portFailuresComplete : Obligations.PortFailuresComplete := by
  intro s port hon hport hup n p ts
  refine ⟨exec_laneLockLoss_of_up hon hport hup, exec_controlFrameTimeout_of_up hon hport hup, fun hfew => ?_, fun hmany => ?_,
    fun k sends rest hretry => ⟨fun hlt => ?_, fun hge => ?_⟩⟩
  · exact (exec_uncorrectableCodeword_of_up hon hport hup).trans (congrArg _ (if_neg (Nat.not_lt.2 hfew)))
  · refine (exec_uncorrectableCodeword_of_up hon hport hup).trans (congrArg _ ((if_pos hmany).trans ?_))
    exact State.dropPort_of_up (by rw [State.setPort_port_self]; exact hup)
  · rw [exec_retryTimeout_of_up hon hport hup, State.goBack_cons hretry, if_neg (Nat.not_le.2 hlt), List.map_map]
    rfl
  · rw [exec_retryTimeout_of_up hon hport hup, State.goBack_cons hretry, if_pos hge, State.dropPort_of_up hup]

/-- Settles O26: the two frame equations, the arithmetic of the credits, and the buffer by the first packet acknowledged. -/
theorem controlFramesComplete : Obligations.ControlFramesComplete := by
  refine ⟨fun s port hon hport hup => ⟨fun ack nak ctl data shared fixed => ⟨?_, ?_⟩, exec_controlFrameSend_of_up hon hport hup⟩,
    Port.regain_bounds, fun q ack => acknowledge_of_absent, fun before after e ack => acknowledge_append⟩
  · exact exec_controlFrame_of_up hon hport hup ⟨true, fixed⟩ ack nak ctl data shared
  · exact exec_controlFrame_of_up hon hport hup ⟨false, fixed⟩ ack nak ctl data shared

/-- Settles O27: reception by the tests of the link, then a packet of this module by its standing and its flow. -/
theorem packetsReceived : Obligations.PacketsReceived := by
  refine ⟨fun s port r overlaps corrected hon hport hup => ?reception, fun s n k kind htype hslot => ?consumption⟩
  case reception =>
    intro n p h bad k
    have hexec := exec_packetReceive_of_up hon hport hup r overlaps corrected
    refine ⟨fun hbad => ?_, fun hbad hnone => ?_, fun kind hbad hkind hserv => ⟨fun hmal => ?_, fun hmal hown => ?_, fun hmal hdest htype => ?_⟩⟩
    · exact hexec.trans (congrArg _ (if_pos hbad))
    · refine hexec.trans (congrArg _ ((if_neg (Bool.eq_false_iff.1 hbad)).trans ?_))
      rw [hnone]
    · refine hexec.trans (congrArg _ ((if_neg (Bool.eq_false_iff.1 hbad)).trans ?_))
      rw [hkind]
      exact if_pos hmal
    · refine hexec.trans (congrArg _ ((if_neg (Bool.eq_false_iff.1 hbad)).trans ?_))
      rw [hkind]
      exact ((if_neg (Bool.eq_false_iff.1 hmal)).trans ((if_neg fun hc => hserv hc.1).trans (if_pos hown)))
    · refine hexec.trans (congrArg _ ((if_neg (Bool.eq_false_iff.1 hbad)).trans ?_))
      rw [hkind]
      exact ((if_neg (Bool.eq_false_iff.1 hmal)).trans ((if_neg fun hc => hserv hc.1).trans (if_neg (not_or.2 ⟨hdest, htype⟩))))
  case consumption =>
    exact ⟨fun x hst hgo hacc => (State.consumePacket_of_now htype hslot hst hgo).trans (State.flowTest_of_accepted hslot hacc),
      State.consumePacket_of_waiting htype hslot,
      fun hst hgo hdup => (State.consumePacket_of_now htype hslot hst hgo).trans (State.flowTest_of_duplicate hslot hdup),
      State.consumePacket_of_stale htype hslot⟩

/-- Settles O28: an accepted number joins the set of numbers taken, and a duplicate is a member of that set. -/
theorem flowsAcceptOnce : Obligations.FlowsAcceptOnce := by
  refine ⟨fun x y q hfit hacc => ?_, fun s flow base hon => ⟨exec_flowAck_of_ahead hon, exec_flowAck_slot_of_ahead hon,
    exec_flowAckSend_of_moved hon, exec_flowAckSend_slot_of_moved hon⟩⟩
  obtain ⟨hlo, hhi, hbase, htaken⟩ := Flow.accept_eq_accepted hfit hacc
  exact ⟨hlo, hhi, (y.accept_eq_duplicate q).2 ((htaken _).2 (.inr rfl)), hbase,
    fun r hr => (y.accept_eq_duplicate r).2 ((htaken _).2 (.inl ((x.accept_eq_duplicate r).1 hr)))⟩

end

section
/-! O29 to O32: the network interface. What a packet finds at its node decides what it does there; tokens, plane fetches,
belays and the state copy go by the context that takes them. -/

namespace Sys2Proof.Machine
open Sys2Proof

/-! ## Contexts that take packets (R329) -/

/-- A context that takes positional packets has the image it takes them by. -/
theorem State.image_of_takes {s : State} {c : CtxIdx} {im : Sched} (h : s.takes c = some im) : (s.ctx c).image = some im := by
  simp only [State.takes] at h
  split at h
  · exact h
  · cases h

section
variable {s : State} {m : CollMsg} {im : Sched} (htakes : s.takes m.ctx = some im)
include htakes

theorem exec_coll_of_takes : exec (.coll m) s = .next (((s.recvColl m).feedNodes m.ctx).takeHeld m.ctx) := by
  change execColl m s = _
  simp only [execColl, htakes, Option.isSome_some, if_true]

theorem exec_gather_of_takes : exec (.gather m) s = .next (((s.recvGather m).feedNodes m.ctx).takeHeld m.ctx) := by
  change execGather m s = _
  simp only [execGather, htakes, Option.isSome_some, if_true]

end

theorem exec_failedChunk_of_takes {s : State} {c : CtxIdx} {im : Sched} (htakes : s.takes c = some im) (srcPos : BitVec 14)
    (chunk : BitVec 24) : exec (.failedChunk c srcPos chunk) s = .next (((s.recvFailedChunk c srcPos.toNat chunk.toNat).feedNodes c).takeHeld c) := by
  change execFailedChunk c srcPos chunk s = _
  simp only [execFailedChunk, htakes, Option.isSome_some, if_true]

/-! ## Nodes (R215 to R217, R229) -/

/-- A reduction packet at a node of the plan, by what it finds there. -/
theorem State.recvColl_eq {s : State} {m : CollMsg} {im : Sched} {i : Nat} {e : NodeEntry} (him : (s.ctx m.ctx).image = some im)
    (hnode : (s.ctx m.ctx).findNode (CollArg.ofWord m.arg).chunk false = some (i, e)) :
    s.recvColl m =
      let x := s.ctx m.ctx
      let a := CollArg.ofWord m.arg
      let n := x.node i
      let p := m.srcPos.toNat
      let src := mapGet ({} : SrcState) n.srcs p
      let bs := parseRun a.counted 4096 a.first m.payload
      let sum := bs.foldl (fun n b => Node.addBlock n b.1 b.2) n
      if !(im.sources e).contains p then { s with ni := { s.ni with badSource := satInc s.ni.badSource } }
      else if a.attempt ≠ x.attempt then { s with ni := { s.ni with badAttempt := satInc s.ni.badAttempt } }
      else if n.complete then { s with ni := { s.ni with late := satInc s.ni.late } }
      else if (a.last && !a.counted && a.contrib != 1) || bs.any (fun b => src.blocks.contains b.1) then
        { s with ni := { s.ni with blockDup := satInc s.ni.blockDup } }
      else if n.broken then s
      else if x.accHeld i e then { s.setCtx m.ctx { x with held := x.held ++ [m] } with ni := { s.ni with accWait := true } }
      else { s with ni := { s.ni with accWait := false } }.putNode m.ctx i e
        { sum with
          srcs := mapSet {} sum.srcs p { accepted := src.accepted + 1, announced := if a.last then some a.packets else src.announced,
                                         blocks := src.blocks ++ bs.map Prod.fst },
          failed := sum.failed || a.failed, contrib := sum.contrib + (if a.last then a.contrib else 0) } := by
  simp only [State.recvColl, him, hnode]

/-- A failed-chunk notice at a node that waits for its source. -/
theorem State.recvFailedChunk_eq {s : State} {c : CtxIdx} {im : Sched} {p chunk i : Nat} {e : NodeEntry} (him : (s.ctx c).image = some im)
    (hnode : (s.ctx c).findNode chunk false = some (i, e)) (hsrc : (im.sources e).contains p = true)
    (hopen : ((s.ctx c).node i).complete = false) (hwhole : ((s.ctx c).node i).broken = false) :
    s.recvFailedChunk c p chunk =
      let n := (s.ctx c).node i
      let src := mapGet ({} : SrcState) n.srcs p
      s.putNode c i e { n with
        srcs := mapSet {} n.srcs p { src with accepted := src.accepted + 1, announced := some (src.accepted + 1) }, failed := true } := by
  simp only [State.recvFailedChunk, him, hnode, hsrc, hopen, hwhole, Bool.not_true, Bool.false_eq_true, if_false]

/-- A gather packet that its node accepts: it waits for the blocks it overwrites, or lands. -/
theorem State.recvGather_eq {s : State} {m : CollMsg} {im : Sched} {i : Nat} {e : NodeEntry} (him : (s.ctx m.ctx).image = some im)
    (hnode : (s.ctx m.ctx).findNode (CollArg.ofWord m.arg).chunk true = some (i, e)) (hsrc : (im.sources e).contains m.srcPos.toNat = true)
    (hatt : (CollArg.ofWord m.arg).attempt = (s.ctx m.ctx).attempt) (hopen : ((s.ctx m.ctx).node i).complete = false)
    (hwhole : ((s.ctx m.ctx).node i).broken = false)
    (hfresh : (parseGather 4096 (CollArg.ofWord m.arg).first m.payload).any
      (fun b => (mapGet ({} : SrcState) ((s.ctx m.ctx).node i).srcs m.srcPos.toNat).blocks.contains b.1) = false) :
    s.recvGather m =
      let x := s.ctx m.ctx
      let a := CollArg.ofWord m.arg
      let n := x.node i
      let p := m.srcPos.toNat
      let src := mapGet ({} : SrcState) n.srcs p
      let bs := parseGather 4096 a.first m.payload
      let s1 := bs.foldl (fun s b => s.landGather m.ctx im e.param (e.first + b.1) b.2.1 b.2.2) s
      let n1 : Node := { n with
        srcs := mapSet {} n.srcs p { accepted := src.accepted + 1, announced := if a.last then some a.packets else src.announced,
                                     blocks := src.blocks ++ bs.map Prod.fst },
        gathered := bs.foldl (fun g b => mapSet (0, []) g b.1 b.2) n.gathered }
      let s2 := s1.setCtx m.ctx ((s1.ctx m.ctx).setNode i n1)
      if !bs.all (fun b => s.blockLanded m.ctx im e.param (e.first + b.1)) then s.setCtx m.ctx { x with held := x.held ++ [m] }
      else if nodeComplete im (s2.goneSources x im) e n1 then s2.sendGather m.ctx i e n1.gathered else s2 := by
  simp only [State.recvGather, him, hnode, hsrc, hatt, hopen, hwhole, hfresh, Bool.not_true, Bool.false_eq_true, if_false, ne_eq,
    not_true_eq_false]

/-- Only a module that catches up waits for blocks (R268). -/
theorem State.blockLanded_of_not_catchingUp {s : State} (h : s.crn.ownState ≠ 1) (c : CtxIdx) (im : Sched) (param n : Nat) :
    s.blockLanded c im param n = true := by
  simp only [State.blockLanded, bne_iff_ne.2 h, Bool.true_or]

/-! ## The update engine (R223, R227) -/

/-- A block that is written, or has no gradient, is left alone. -/
theorem State.updateBlock_of_idle {s : State} {c : CtxIdx} {param n : Nat}
    (h : (mapGet [] (s.ctx c).grads (blockKey param n)).isEmpty = true ∨ (s.ctx c).written.contains (blockKey param n) = true) :
    s.updateBlock c param n = s := by
  rcases h with h | h
  · simp only [State.updateBlock, h, Bool.true_or, if_true]
    split <;> rfl
  · simp only [State.updateBlock, h, Bool.or_true, if_true]
    split <;> rfl

section
variable {s : State} {c : CtxIdx} (hup : s.updates c = true) (param : BitVec 24) (n : BitVec 32)
include hup

theorem exec_updateBlock_of_updates : exec (.updateBlock c param n) s = .next (s.updateBlock c param.toNat n.toNat) :=
  congrArg _ (if_pos hup)

theorem exec_requantise_of_updates : exec (.requantise c param n) s = .next (s.requantGroup c param.toNat n.toNat) :=
  congrArg _ (if_pos hup)

end

/-! ## Tokens (R135, R244) -/

section
variable {s : State} {m : TokenMsg} {im : Sched} (htakes : s.takes m.ctx = some im)
include htakes

/-- A token signal in a context that takes it, by the step and the epoch it names. -/
theorem exec_token_of_takes : exec (.token m) s = .next (
    let x := s.ctx m.ctx
    let k := tokenKey m.token.toNat m.srcPos.toNat
    if m.ctxEpoch = x.epoch ∧ m.step = x.step.setWidth 16 ∧ m.membEpoch = s.crn.epoch.setWidth 8 then
      (if s.crn.declared.contains m.srcPos.toNat then s
      else (s.setCtx m.ctx { x with tokenGot := mapSet 0 x.tokenGot k (mapGet 0 x.tokenGot k + m.inc.toNat) }).addToken
        m.ctx m.token.toNat m.inc.toNat)
    else if m.ctxEpoch = x.epoch ∧ s.tokenAhead m then s.setCtx m.ctx { x with tokenPend := x.tokenPend ++ [m] }
    else s.setCtx m.ctx { x with counts := { x.counts with staleTokens := x.counts.staleTokens + 1 } }) := by
  change execToken m s = _
  simp only [execToken, htakes, Option.isNone_some, Bool.false_eq_true, if_false]

end

/-- A signal of the step that follows, or of the epoch past a SKIP. -/
theorem State.tokenAhead_of_next {s : State} {m : TokenMsg}
    (h : (m.step = (s.ctx m.ctx).step.setWidth 16 + 1 ∧ m.membEpoch = s.crn.epoch.setWidth 8) ∨
      (m.step = (s.ctx m.ctx).step.setWidth 16 ∧ m.membEpoch = s.crn.epoch.setWidth 8 + 1)) :
    s.tokenAhead m = true ∧ ¬ (m.step = (s.ctx m.ctx).step.setWidth 16 ∧ m.membEpoch = s.crn.epoch.setWidth 8) := by
  have hstep : (s.ctx m.ctx).step.setWidth 16 + 1 ≠ (s.ctx m.ctx).step.setWidth 16 := by bv_omega
  have hepoch : (s.crn.epoch.setWidth 8 + 1 : Byte) ≠ s.crn.epoch.setWidth 8 := by bv_omega
  rcases h with ⟨hs, he⟩ | ⟨hs, he⟩
  · exact ⟨by simp only [State.tokenAhead, hs, he, beq_self_eq_true, beq_false_of_ne hstep, Bool.true_or, Bool.or_true, Bool.false_and,
      Bool.not_false, Bool.and_self], fun h => hstep (hs ▸ h.1)⟩
  · exact ⟨by simp only [State.tokenAhead, hs, he, beq_self_eq_true, beq_false_of_ne hepoch, Bool.true_or, Bool.or_true, Bool.and_false,
      Bool.not_false, Bool.and_self], fun h => hepoch (he ▸ h.2)⟩

/-- A signal of neither the step under way nor the one that follows. -/
theorem State.tokenAhead_of_stale {s : State} {m : TokenMsg}
    (h : (m.step ≠ (s.ctx m.ctx).step.setWidth 16 ∧ m.step ≠ (s.ctx m.ctx).step.setWidth 16 + 1) ∨
      (m.membEpoch ≠ s.crn.epoch.setWidth 8 ∧ m.membEpoch ≠ s.crn.epoch.setWidth 8 + 1)) :
    s.tokenAhead m = false := by
  rcases h with ⟨h1, h2⟩ | ⟨h1, h2⟩ <;>
    simp only [State.tokenAhead, beq_false_of_ne h1, beq_false_of_ne h2, Bool.or_self, Bool.false_and, Bool.and_false]

/-! ## Plane fetches (R151) -/

theorem State.serveWrite_memOnly (s : State) (r : MemReq) (x : Burst) : MemOnly s (s.serveWrite r x) := by
  unfold State.serveWrite
  split
  · exact (State.setRaw_memOnly s _ _).trans rfl
  · rfl

theorem MemOnly.foldl {α : Type} {f : State → α → State} (hf : ∀ s a, MemOnly s (f s a)) : ∀ (l : List α) (s : State), MemOnly s (l.foldl f s)
  | [], _ => rfl
  | a :: l, s => (hf s a).trans (MemOnly.foldl hf l (f s a))

/-- Bursts land in memory and change nothing else. -/
theorem State.landBursts_memOnly (s : State) (b : Nat) (bursts : List (BitVec 272)) : MemOnly s (s.landBursts b bursts) :=
  MemOnly.foldl (fun s _ => s.serveWrite_memOnly _ _) _ s

theorem State.landBursts_prefetch (s : State) (b : Nat) (bursts : List (BitVec 272)) : (s.landBursts b bursts).prefetch = s.prefetch := by
  rw [s.landBursts_memOnly b bursts]

/-! ## Belays and the state copy (R248, R267 to R270) -/

/-- What a belay message does in a context that takes it. -/
def State.takeBelay (s : State) (c : CtxIdx) (im : Sched) : BelayMsg → State
  | .input subject ordinal mask data =>
    (s.setCtx c ((s.ctx c).mapBelay 2 subject.toNat (fun b =>
      if b.ordinal = ordinal.toNat ∧ b.inputs = [] then { b with inputs := [(ordinal.toNat, data)], mask := mask } else b))).progressAll c im
  | .state subject model entries ceil run pos => (s.takeBelayState c im subject.toNat model entries ceil run pos).progressAll c im
  | .digest subject ordinal none =>
    s.setCtx c ((s.ctx c).mapBelay 2 subject.toNat (fun b => if b.ordinal = ordinal.toNat ∧ b.outcome = 0 then { b with outcome := 3 } else b))
  | .digest subject ordinal (some d) =>
    s.setCtx c ((s.ctx c).mapBelay 2 subject.toNat (fun b =>
      if b.ordinal = ordinal.toNat ∧ b.peerDigest = none then { b with peerDigest := some d } else b))
  | .sourceDigest shard d =>
    if s.crn.ownState = 1 ∧ ¬ (s.ctx c).srcDigests.any (fun e => e.1 == shard.toNat) then
      s.setCtx c { s.ctx c with srcDigests := (s.ctx c).srcDigests ++ [(shard.toNat, d)] }
    else s

section
variable {s : State} {c : CtxIdx} {im : Sched} (htakes : s.takes c = some im)
include htakes

theorem exec_belay_of_takes (m : BelayMsg) : exec (.belay c m) s = .next (s.takeBelay c im m) := by
  change execBelay c m s = _
  simp only [execBelay, htakes]
  cases m with
  | digest subject ordinal d => cases d <;> rfl
  | input => rfl
  | state => rfl
  | sourceDigest => rfl

theorem exec_stateCopy_of_active (hactive : s.crn.ownState = 0) (srcPos : BitVec 14) :
    exec (.stateCopy c ⟨srcPos, []⟩) s = .next (s.serveLoaded c im srcPos.toNat) := by
  change execStateCopy c _ s = _
  simp only [execStateCopy, htakes]
  rw [if_pos ⟨hactive, trivial⟩]

theorem exec_stateCopy_of_catchingUp (hcatch : s.crn.ownState = 1) (hopen : (s.ctx c).copyDone = false) (srcPos : BitVec 14)
    (items : List CopyItem) :
    let s1 := items.foldl (fun s it => State.landItem s c im it) s
    let s2 := if (im.copyItems (s1.pilot c) (s1.ropeMember im im.position)).length ≤ (s1.ctx c).copied.length then s1.finishCopy c im else s1
    exec (.stateCopy c ⟨srcPos, items⟩) s = .next (((s2.retryOwn c).feedNodes c).takeHeld c) := by
  intro s1 s2
  change execStateCopy c _ s = _
  simp only [execStateCopy, htakes]
  rw [if_neg (fun h => absurd (hcatch.symm.trans h.1) (by decide)), if_neg (by rw [hopen]; simp [hcatch])]
  simp only [decide_eq_true_eq] <;> rfl

end

end Sys2Proof.Machine

open Sys2Proof Sys2Proof.Machine

/-- Settles O29: the tests of a reduction packet at its node in their order, and the failed-chunk notice. -/
theorem reductionPacketsComplete : Obligations.ReductionPacketsComplete := by
  intro s m im i e htakes x a n p src bs repeated sum fed hnode
  have him := State.image_of_takes htakes
  have hrecv := State.recvColl_eq him hnode
  have hexec {t : State} (h : s.recvColl m = t) : exec (.coll m) s = .next (fed t) := by
    rw [← h]
    exact exec_coll_of_takes htakes
  refine ⟨fun hsrc => ?source, fun hsrc hatt => ?attempt, fun hsrc hatt => ?accepted, fun hsrc hopen hwhole hchunk => ?notice⟩
  case source => exact hexec (hrecv.trans (if_pos (by rw [hsrc]; rfl)))
  case attempt => exact hexec (hrecv.trans ((if_neg (by rw [hsrc]; decide)).trans (if_pos hatt)))
  case accepted =>
    have hown : ¬ (!(im.sources e).contains p) = true := by rw [hsrc]; decide
    have hnow := hrecv.trans ((if_neg hown).trans (if_neg (not_not_intro hatt)))
    refine ⟨fun hdone => hexec (hnow.trans (if_pos hdone)), fun hopen hrep => ?_, fun hopen hrep hwhole hfree => ?_,
      fun hopen hrep hwhole hheld => ?_⟩
    · exact hexec (hnow.trans ((if_neg (Bool.eq_false_iff.1 hopen)).trans (if_pos hrep)))
    · exact hexec (hnow.trans ((if_neg (Bool.eq_false_iff.1 hopen)).trans ((if_neg (Bool.eq_false_iff.1 hrep)).trans
        ((if_neg (Bool.eq_false_iff.1 hwhole)).trans (if_neg (Bool.eq_false_iff.1 hfree))))))
    · exact hexec (hnow.trans ((if_neg (Bool.eq_false_iff.1 hopen)).trans ((if_neg (Bool.eq_false_iff.1 hrep)).trans
        ((if_neg (Bool.eq_false_iff.1 hwhole)).trans (if_pos hheld)))))
  case notice =>
    have hval : (BitVec.ofNat 24 a.chunk).toNat = a.chunk := by
      rw [BitVec.toNat_ofNat, Nat.mod_eq_of_lt hchunk]
    rw [exec_failedChunk_of_takes htakes, hval, State.recvFailedChunk_eq him hnode hsrc hopen hwhole]

/-- Settles O30: an accepted gather by whether its blocks have landed, and the update engine's two commands. -/
theorem gathersAndUpdatesComplete : Obligations.GathersAndUpdatesComplete := by
  refine ⟨?gather, fun s c im param n h => State.blockLanded_of_not_catchingUp h c im param n, fun s c param n hup =>
    ⟨exec_updateBlock_of_updates hup param n, exec_requantise_of_updates hup param n, fun hw => ?_, fun hg => ?_⟩⟩
  case gather =>
    intro s m im i e htakes x a n p src bs s1 n1 s2 fed hnode hsrc hatt hopen hwhole hfresh
    have hrecv := State.recvGather_eq (State.image_of_takes htakes) hnode hsrc hatt hopen hwhole hfresh
    have hexec {t : State} (h : s.recvGather m = t) : exec (.gather m) s = .next (fed t) := by
      rw [← h]
      exact exec_gather_of_takes htakes
    exact ⟨fun hwait => hexec (hrecv.trans (if_pos (by rw [hwait]; rfl))),
      fun hland => hexec (hrecv.trans (if_neg (by rw [hland]; decide)))⟩
  · rw [exec_updateBlock_of_updates hup, State.updateBlock_of_idle (.inr hw)]
  · rw [exec_updateBlock_of_updates hup, State.updateBlock_of_idle (.inl (by rw [hg]; rfl))]

/-- Settles O31: a token by the step it names, a fetch request by what its burst reads, and the bursts that land. -/
theorem tokensAndPlaneFetchesComplete : Obligations.TokensAndPlaneFetchesComplete := by
  refine ⟨?tokens, fun s c im addr plane htakes => ⟨?request, ?data⟩⟩
  case tokens =>
    intro s m im htakes x now epoch k
    have hexec := exec_token_of_takes htakes
    refine ⟨fun hctx hstep hmemb hlive => ?_, fun hctx hstep hmemb hgone => ?_, fun hctx hnext => ?_, fun hstale => ?_⟩
    · exact hexec.trans (congrArg _ ((if_pos ⟨hctx, hstep, hmemb⟩).trans (if_neg (Bool.eq_false_iff.1 hlive))))
    · exact hexec.trans (congrArg _ ((if_pos ⟨hctx, hstep, hmemb⟩).trans (if_pos hgone)))
    · obtain ⟨hahead, hnow⟩ := State.tokenAhead_of_next hnext
      exact hexec.trans (congrArg _ ((if_neg fun h => hnow h.2).trans (if_pos ⟨hctx, hahead⟩)))
    · refine hexec.trans (congrArg _ ((if_neg ?_).trans (if_neg ?_)))
      · rintro ⟨hctx, hstep, hmemb⟩
        rcases hstale with h | h | h
        · exact h hctx
        · exact h.1 hstep
        · exact h.1 hmemb
      · rintro ⟨hctx, hahead⟩
        rw [State.tokenAhead_of_stale (hstale.resolve_left (not_not_intro hctx))] at hahead
        cases hahead
  case request =>
    intro srcPos d s' hplane hmem hread
    change execFetchReq c srcPos addr plane s = _
    rcases hread with hread | hread <;>
      simp only [execFetchReq, htakes, hplane, hmem, hread, Bool.not_true, Bool.or_self, Bool.false_eq_true, if_false]
  case data =>
    intro bursts hplanes hpre n s1 x landed pv s2
    have hall : (List.range n).all (fun i => im.planeBurst (addr.toNat + i)) = true :=
      List.all_eq_true.2 fun i hi => hplanes i (List.mem_range.1 hi)
    have hidle : (s.landBursts addr.toNat bursts).prefetch = false := (s.landBursts_prefetch _ _).trans hpre
    change execFetchData c addr plane bursts s = _
    simp only [execFetchData, htakes]
    rw [if_neg (by rw [hall]; decide)]
    split
    next hpref _ => exact absurd (hidle.symm.trans hpref) (by decide)
    · rfl

/-- Settles O32: each belay message and the two state copies. -/
theorem belayAndCopyComplete : Obligations.BelayAndCopyComplete := by
  intro s c im htakes x
  refine ⟨fun subject ordinal mask data => exec_belay_of_takes htakes _, fun subject model entries ceil run pos => exec_belay_of_takes htakes _,
    fun subject ordinal d => exec_belay_of_takes htakes _, fun subject ordinal => exec_belay_of_takes htakes _,
    fun shard d hcatch hfresh => (exec_belay_of_takes htakes _).trans (congrArg _ (if_pos ⟨hcatch, Bool.eq_false_iff.1 hfresh⟩)),
    fun srcPos items hcatch hopen => exec_stateCopy_of_catchingUp htakes hcatch hopen srcPos items,
    fun srcPos hactive => exec_stateCopy_of_active htakes hactive srcPos⟩

end

section
/-! O33 to O35: membership and the cairn. One equation per command while the module works in its range; suspicion and
declaration by the tests they make. -/

namespace Sys2Proof.Machine
open Sys2Proof

theorem mem_allCtx : ∀ c : CtxIdx, c ∈ allCtx := by decide

/-- A module that works in its range works. -/
theorem State.live_of_inRangeTraffic {s : State} (h : s.inRangeTraffic = true) : s.live = true := by
  simp only [State.inRangeTraffic, Bool.and_eq_true] at h
  exact h.1.1

/-! ## Membership (R242, R243, R264) -/

/-- R243: once a sender's proposals are void, the positions declared on some other ground stay declared. -/
theorem State.mem_declared_voidProposals (s : State) (q p : Nat) :
    p ∈ (s.voidProposals q).crn.declared ↔ p ∈ s.crn.declared ∧ ∃ g ∈ s.crn.declaredBy, g.1 = p ∧ g.2 ≠ q := by
  simp only [State.voidProposals, List.mem_filter, List.any_eq_true, beq_iff_eq, bne_iff_ne]
  exact and_congr_right fun _ => ⟨fun ⟨g, ⟨hg, hq⟩, hp⟩ => ⟨g, hg, hp, hq⟩, fun ⟨g, hg, hp, hq⟩ => ⟨g, ⟨hg, hq⟩, hp⟩⟩

section
variable {s : State} (hrange : s.inRangeTraffic = true)
include hrange

theorem exec_heartbeatSend_of_range : exec .heartbeatSend s = .next (s.tellSlots 0x0A
    (s.rangePeers.filter (fun q => match s.posOfSlot s.ownRange q with | some p => !s.crn.declared.contains p | none => true))
    Output.heartbeatTo) := by
  exact congrArg _ (if_neg (by rw [hrange]; decide))

theorem exec_heartbeat_of_range (slot : BitVec 6) :
    exec (.heartbeat slot) s = .next { s with crn := { s.crn with heard := mapSet 0 s.crn.heard slot.toNat s.pwr.ticks } } :=
  congrArg _ (if_pos hrange)

theorem exec_join_of_range (slot : BitVec 6) (digest : Digest) : exec (.join slot digest) s = .next (s.holdJoin s.ownRange slot.toNat digest) :=
  congrArg _ (if_pos hrange)

theorem exec_propose_of_range (sender slot : BitVec 6) : exec (.propose sender slot) s = .next (
    if s.crn.withdrew.contains sender.toNat then s else (s.declareSlot slot.toNat sender.toNat).gatherAll) := by
  change execPropose sender slot s = _
  simp only [execPropose, hrange, Bool.true_and]
  cases s.crn.withdrew.contains sender.toNat <;> rfl

theorem exec_joinSend_of_range (hlinks : s.links.state = 2) (hpos : s.crn.ownState = 3) (hhold : s.crn.restoreHold = false)
    (hfree : ∀ c, (s.ctx c).image = none) :
    exec .joinSend s = .next (s.tellSlots 0x0A s.rangePeers (fun q => Output.joinTo q s.img.active.policyDigest)) := by
  have hall : allCtx.all (fun c => (s.ctx c).image.isNone) = true := List.all_eq_true.2 fun c _ => by rw [hfree c]; rfl
  change execJoinSend s = _
  simp only [execJoinSend, hrange, hlinks, hpos, hhold, hall, beq_self_eq_true, Bool.not_false, Bool.and_self, if_true]

section
variable {slot : BitVec 6} (hpeer : s.rangePeers.contains slot.toNat = true)
include hpeer

theorem exec_withdraw_of_peer : exec (.withdraw slot) s = .next
    (((s.voidProposals slot.toNat).reportTo
      (s.crn.declared.filter (fun p => !(s.voidProposals slot.toNat).crn.declared.contains p))).suspect slot.toNat).gatherAll := by
  change execWithdraw slot s = _
  simp only [execWithdraw, hrange, hpeer, Bool.and_self, if_true]

theorem exec_hbTimeout_of_peer : exec (.hbTimeout slot) s = .next (
    if s.crn.hbTimeout.toNat ≤ (s.pwr.ticks - mapGet 0 s.crn.heard slot.toNat).toNat then (s.suspect slot.toNat).gatherAll else s) := by
  change execHbTimeout slot s = _
  simp only [execHbTimeout, hrange, hpeer, Bool.true_and, decide_eq_true_eq]

theorem exec_reportTimeout_of_late (hpos : (s.posOfSlot s.ownRange slot.toNat).isSome = true) (hlate : s.reportLate slot.toNat = true) :
    exec (.reportTimeout slot) s = .next (s.suspect slot.toNat).gatherAll := by
  change execReportTimeout slot s = _
  simp only [execReportTimeout, hrange, hpeer, hpos, hlate, Bool.and_self, if_true]

end
end

/-! ## Suspicion and declarations (R243, R244) -/

theorem State.suspect_of_proposed {s : State} {q : Nat} (h : s.crn.proposed.contains q = true) : s.suspect q = s := if_pos h

/-- A module that has proposed sixteen peers withdraws, unless it has. -/
theorem State.suspect_of_full {s : State} {q : Nat} (hnew : s.crn.proposed.contains q = false) (hfull : 16 ≤ s.crn.proposed.length) :
    s.suspect q = (if s.crn.withdrawn then s else s.sendWithdraw).declareSlot q 64 :=
  (if_neg (Bool.eq_false_iff.1 hnew)).trans (if_pos hfull)

/-- A first suspicion, with proposals left, proposes the peer. -/
theorem State.suspect_of_new {s : State} {q : Nat} (hnew : s.crn.proposed.contains q = false) (hroom : s.crn.proposed.length < 16) :
    let s1 := { s with crn := { s.crn with proposed := s.crn.proposed ++ [q] } }
    s.suspect q = (s1.tellSlots 0x0A s1.rangePeers (fun r => Output.proposeTo r q)).declareSlot q 64 :=
  (if_neg (Bool.eq_false_iff.1 hnew)).trans (if_neg (Nat.not_le.2 hroom))

/-- A second declaration of a position notes its ground only. -/
theorem State.declare_of_declared {s : State} {p : Nat} (h : s.crn.declared.contains p = true) (ground : Nat) :
    s.declare p ground = { s with crn := { s.crn with
      declaredBy := s.crn.declaredBy ++ (if s.crn.declaredBy.contains (p, ground) then [] else [(p, ground)]) } } :=
  if_pos h

/-- The first declaration of a position is forwarded by a delegate of its range, and acts in every context. -/
theorem State.declare_of_new {s : State} {p : Nat} (h : s.crn.declared.contains p = false) (ground : Nat) :
    let grounds := s.crn.declaredBy ++ (if s.crn.declaredBy.contains (p, ground) then [] else [(p, ground)])
    let s1 := { s with crn := { s.crn with declaredBy := grounds, declared := s.crn.declared ++ [p] } }
    s.declare p ground = allCtx.foldl (fun s c => State.declareIn s p c)
      (if s.isDelegate && p / 32 == s.ownRange then s1.tellDeclaration p else s1) :=
  if_neg (Bool.eq_false_iff.1 h)

/-! ## The cairn (R24, R254 to R258) -/

/-- A range that the root lacks a current summary of. -/
theorem State.mem_summaryLacks {s : State} {c : CtxIdx} {im : Sched} {g : Nat} (him : (s.ctx c).image = some im)
    (hstep : (s.ctx c).inStep = true) (hphase : (s.ctx c).phase = 2) (hroot : im.isRoot s.ownRange = true)
    (htree : im.treeRanges.contains g = true) (hother : g ≠ s.ownRange)
    (hnone : (s.ctx c).summaries.any (fun e => e.1 == g && e.2.all ((s.ctx c).current? s.crn.epoch)) = false) :
    (s.summaryLacks c).contains g = true := by
  simp only [State.summaryLacks, him, hstep, hphase, hroot, beq_self_eq_true, Bool.and_self, if_true, State.lacking]
  rw [List.contains_iff_mem, List.mem_filter]
  exact ⟨List.contains_iff_mem.1 htree, by rw [hnone]; simpa using hother⟩

section
variable {s : State} {c : CtxIdx} {im : Sched} (hlive : s.live = true) (him : (s.ctx c).image = some im)
include hlive him

theorem exec_cairnReportOpen_of_ready (hrun : (s.ctx c).state = 3)
    (hready : (s.startGathers c).reportReady ((s.startGathers c).ctx c) im = true) {u : State} {done : Bool}
    (htwin : (s.startGathers c).twinStage c im = (u, done)) :
    exec (.cairnReportOpen c) s = .next ((if done then u.openReport c im else u).takeHeld c) := by
  change execCairnReportOpen c s = _
  simp only [execCairnReportOpen, him, hlive, hrun, hready, htwin, bne_self_eq_false, Bool.not_true, Bool.or_self, Bool.false_eq_true, if_false]

/-- The instant of a verdict in a step: it waits while a checkpoint is written or due. -/
theorem exec_cairnInstant_of_step {v : Verdict} (hv : (s.ctx c).verdict = some v) (hstep : (s.ctx c).inStep = true) :
    ((∀ e, (s.ctx c).op ≠ .checkpoint e) → (s.ctx c).ckptQ = [] → exec (.cairnInstant c) s = .next ((s.instant c im v).takeHeld c)) ∧
    (∀ e, (s.ctx c).op = .checkpoint e → exec (.cairnInstant c) s = .next s) := by
  refine ⟨fun hop hq => ?_, fun e hop => ?_⟩
  · change execCairnInstant c s = _
    cases hc : (s.ctx c).op with
    | checkpoint e => exact absurd hc (hop e)
    | none => simp only [execCairnInstant, him, hv, hlive, hstep, hc, hq, List.isEmpty_nil, Bool.not_true, Bool.or_self, Bool.false_eq_true, if_false]
    | load e => simp only [execCairnInstant, him, hv, hlive, hstep, hc, hq, List.isEmpty_nil, Bool.not_true, Bool.or_self, Bool.false_eq_true, if_false]
    | restore e => simp only [execCairnInstant, him, hv, hlive, hstep, hc, hq, List.isEmpty_nil, Bool.not_true, Bool.or_self, Bool.false_eq_true, if_false]
  · change execCairnInstant c s = _
    simp only [execCairnInstant, him, hv, hop, Bool.or_true, Bool.true_or, if_true]

end

section
variable {s : State} (hrange : s.inRangeTraffic = true)
include hrange

theorem exec_cairnPacket_of_range (m : CairnMsg) : exec (.cairnPacket m) s = .next (match m with
    | .report r => s.takeReportMsg r
    | .summary g rs joins => s.takeSummary g.toNat rs joins
    | .declaration p => (s.declare p.toNat 65).gatherAll
    | .twinDigest c a h r d => s.takeDigest c a.toNat h.toNat r.toNat d
    | .verdict v => s.actOnVerdict v) := by
  refine congrArg _ ((if_neg (by rw [hrange]; decide)).trans ?_)
  cases m <;> rfl

theorem exec_cairnTimeout_of_lacking {g : BitVec 9} {c : CtxIdx} (h : (s.summaryLacks c).contains g.toNat = true) :
    exec (.cairnTimeout g) s = .next (({ s with crn := { s.crn with timeout := true } }).raise 0x18 g.toNat) := by
  have hany : allCtx.any (fun c => (s.summaryLacks c).contains g.toNat) = true := List.any_eq_true.2 ⟨c, mem_allCtx c, h⟩
  change execCairnTimeout g s = _
  simp only [execCairnTimeout, hrange, hany, Bool.and_self, if_true]

end

end Sys2Proof.Machine

open Sys2Proof Sys2Proof.Machine

/-- Settles O33: the equation of each membership command, and what a voided sender leaves declared. -/
theorem membershipTrafficCompletes : Obligations.MembershipTrafficCompletes := by
  intro s slot hrange q late t
  refine ⟨exec_heartbeatSend_of_range hrange, exec_heartbeat_of_range hrange slot, fun hpeer => ⟨exec_withdraw_of_peer hrange hpeer,
      fun hlate => (exec_hbTimeout_of_peer hrange hpeer).trans (congrArg _ (if_pos hlate)),
      fun hlate => (exec_hbTimeout_of_peer hrange hpeer).trans (congrArg _ (if_neg hlate)), exec_reportTimeout_of_late hrange hpeer⟩,
    s.mem_declared_voidProposals q, fun sender => ⟨fun hin => ?_, fun hout => ?_⟩, exec_join_of_range hrange slot,
    exec_joinSend_of_range hrange⟩
  · exact (exec_propose_of_range hrange sender slot).trans (congrArg _ (if_neg (Bool.eq_false_iff.1 hin)))
  · exact (exec_propose_of_range hrange sender slot).trans (congrArg _ (if_pos hout))

/-- Settles O34: the tests of a suspicion and of a declaration, each case by its lemma. -/
theorem suspicionAndDeclaration : Obligations.SuspicionAndDeclaration := by
  refine ⟨fun s q => ⟨State.suspect_of_proposed, fun hnew hout hfull => ?_, fun hnew hin hfull => ⟨?_, ?_, ?_⟩, State.suspect_of_new⟩,
    fun s p ground => ⟨fun h => State.declare_of_declared h ground, fun hnew hdel hown => ?_, fun hnew hnot => ?_, ?_, ?_⟩⟩
  · rw [State.suspect_of_full hnew hfull, if_pos hout]
  · rw [State.suspect_of_full hnew hfull, if_neg (Bool.eq_false_iff.1 hin)]
  · exact congrArg Cairn.withdrawn s.sendWithdraw_sent.crn
  · exact (congrArg Cairn.proposed s.sendWithdraw_sent.crn).trans rfl
  · have hfwd : (s.isDelegate && p / 32 == s.ownRange) = true := by rw [hdel, hown, beq_self_eq_true]; rfl
    rw [State.declare_of_new hnew, if_pos hfwd]
  · have hfwd : (s.isDelegate && p / 32 == s.ownRange) = false := by
      rcases hnot with h | h
      · rw [h, Bool.false_and]
      · rw [beq_false_of_ne h, Bool.and_false]
    rw [State.declare_of_new hnew, hfwd, if_neg Bool.false_ne_true]
  · simp
  · by_cases h : s.crn.declaredBy.contains (p, ground) = true
    · rw [if_pos h, List.append_nil]
      exact h
    · simp

/-- Settles O35: the equation of each cairn command, and a lacking range by the contexts of the root. -/
theorem cairnCommandsComplete : Obligations.CairnCommandsComplete := by
  intro s c im hlive him x
  refine ⟨fun hrun hready u done => exec_cairnReportOpen_of_ready hlive him hrun hready, fun hrange =>
    ⟨fun r => exec_cairnPacket_of_range hrange (.report r), fun g rs js => exec_cairnPacket_of_range hrange (.summary g rs js),
      fun p => exec_cairnPacket_of_range hrange (.declaration p), fun a h r d => exec_cairnPacket_of_range hrange (.twinDigest c a h r d),
      fun v => exec_cairnPacket_of_range hrange (.verdict v), fun g hstep hphase hroot htree hother hnone => ?_⟩,
    fun v hv hstep => exec_cairnInstant_of_step hlive him hv hstep⟩
  exact exec_cairnTimeout_of_lacking hrange (State.mem_summaryLacks him hstep hphase hroot htree hother hnone)

end

section
/-! O38 and O40 to O42: the host port and the contexts. Each command is one equation in the states that allow it; an
operation ends by what its buffer yields. -/

namespace Sys2Proof.Machine
open Sys2Proof

/-! ## The CXL port (R298, R307, R308, R312) -/

/-- Changes of contexts leave everything else as it was. -/
theorem foldl_setCtx (f : State → CtxIdx → Context) : ∀ (l : List CtxIdx) (s : State),
    l.foldl (fun s c => s.setCtx c (f s c)) s = { s with ctxs := (l.foldl (fun s c => s.setCtx c (f s c)) s).ctxs }
  | [], _ => rfl
  | c :: l, s => by
    rw [List.foldl_cons, foldl_setCtx f l]
    rfl

/-- R312: what a reset of the port takes back. -/
theorem State.resetCxl_spec (s : State) : s.resetCxl.host.committed = false ∧ s.resetCxl.boot.cxlUp = false ∧
    s.resetCxl.host.snoop = [] ∧ s.resetCxl.host.decoderBase = 0 := by
  unfold State.resetCxl
  rw [foldl_setCtx (fun s c => { s.ctx c with lineHeld := false, outHost := 0 })]
  exact ⟨rfl, rfl, rfl, rfl⟩

/-- R298: a link within the limits of the option bytes comes up. -/
theorem exec_cxlLinkTrained_of_within {s : State} {rate : BitVec 2} {narrow : Bool} (hpow : s.powered = true) (hidle : s.live = false)
    (hstep : 2 ≤ s.boot.step.toNat) (hrate : field s.boot.opts.cxlLink 0 2 ≤ rate.toNat)
    (hwidth : bit s.boot.opts.cxlLink 2 = true → narrow = true) :
    exec (.cxlLinkTrained rate narrow) s = .next { s with
      boot := { s.boot with cxlUp := true }, host := { s.host with rate := rate, narrow := narrow, reissue := false } } := by
  have hnarrow : (bit s.boot.opts.cxlLink 2 && !narrow) = false := by
    cases hb : bit s.boot.opts.cxlLink 2
    · rfl
    · rw [hwidth hb]; rfl
  change execCxlLinkTrained rate narrow s = _
  simp only [execCxlLinkTrained, hpow, hnarrow, Nat.not_lt.2 hstep, Nat.not_lt.2 hrate, decide_false, Bool.not_true, Bool.or_self,
    Bool.false_eq_true, if_false]
  exact congrArg _ (if_pos ((congrArg not hidle : (!s.live) = true)))

section
variable {s : State} (hbar : s.barAnswers = true) (hup : s.boot.cxlUp = true) {base : BitVec 64}
include hbar hup

theorem exec_hdmDecoderCommit_of_open (hopen : s.host.committed = false) (hbase : base.toNat % 2 ^ 28 = 0) :
    exec (.hdmDecoderCommit base) s = .next { s with host := { s.host with decoderBase := base, committed := true } } :=
  congrArg _ (if_pos (by rw [hbar, hup, hopen, hbase]; rfl))

omit hbar hup in
theorem exec_hdmDecoderCommit_of_not (h : s.host.committed = true ∨ base.toNat % 2 ^ 28 ≠ 0) : exec (.hdmDecoderCommit base) s = .next s := by
  refine congrArg _ (if_neg ?_)
  rcases h with h | h
  · rw [h]; simp
  · rw [beq_false_of_ne h]; simp

end

/-! ## The ring (R276, R315, R316) -/

theorem ringOrderOf_bounds (v : Word) : 6 ≤ (ringOrderOf v).toNat ∧ (ringOrderOf v).toNat ≤ 16 := by
  obtain ⟨hlo, hhi⟩ := clampNat_mem (field v 0 5) (show 6 ≤ 16 by decide)
  rw [ringOrderOf, BitVec.toNat_ofNat, Nat.mod_eq_of_lt (by omega)]
  exact ⟨hlo, hhi⟩

theorem exec_ctxRingWrite_of_writable {s : State} {c : CtxIdx} (hbar : s.barAnswers = true) (hlive : s.live = true)
    (hst : (s.ctx c).state = 1 ∨ (s.ctx c).state = 2 ∨ (s.ctx c).state = 5) (v : BitVec 64) :
    exec (.ctxRingWrite c v) s = .next ((s.setCtx c { s.ctx c with
      ringBase := v.extractLsb' 12 52, ringOrder := ringOrderOf v, ringSet := true, producer := 0, consumer := 0, cplHead := 0,
      feedQ := [], lineHeld := false, lineRead := false,
      outHost := if (s.ctx c).lineRead then (s.ctx c).outHost - 1 else (s.ctx c).outHost }).readLine c) := by
  have hwr : (s.ctx c).ringWritable = true := by rcases hst with h | h | h <;> rw [Context.ringWritable, h] <;> rfl
  change execCtxRingWrite c v s = _
  simp only [execCtxRingWrite, State.ringWrite, hbar, hlive, hwr, Bool.and_self, Bool.not_true, Bool.false_eq_true, if_true, if_false]

theorem exec_producerLineRead_of_watching {s : State} {c : CtxIdx} (hlive : s.live = true) (hread : (s.ctx c).lineRead = true)
    (hwatch : (s.ctx c).watches = true) (p h : BitVec 64) (es : List (List Byte)) :
    exec (.producerLineRead c (.data (p, h)) es) s =
      .next ((((s.setCtx c { s.ctx c with lineRead := false }).hostDone c)).takeLine c p h es) := by
  change execProducerLineRead c (.data (p, h)) es s = _
  simp only [execProducerLineRead, State.serves, hlive, hread, hwatch, Bool.not_true, Bool.or_self, Bool.false_eq_true, if_true, if_false]

/-- R276: the oldest request that times out ends as its own completion with an error would. -/
theorem exec_cxlCompletionTimeout_of_pending {s : State} {c : CtxIdx} (hout : (s.ctx c).outHost ≠ 0) :
    ((s.ctx c).lineRead = true → exec (.cxlCompletionTimeout c) s = exec (.producerLineRead c .error []) s) ∧
    (∀ e, (s.ctx c).lineRead = false → (s.ctx c).op = .load e → feSpace e = false →
      exec (.cxlCompletionTimeout c) s = exec (.loadComplete c .error) s) ∧
    (∀ e, (s.ctx c).lineRead = false → (s.ctx c).op = .restore e → feSpace e = false →
      exec (.cxlCompletionTimeout c) s = exec (.restoreComplete c .error) s) ∧
    ((s.ctx c).lineRead = false → (s.ctx c).op = .none → (s.ctx c).stepEntries = [] →
      exec (.cxlCompletionTimeout c) s = .next (s.setCtx c { s.ctx c with outHost := (s.ctx c).outHost - 1 })) := by
  refine ⟨fun hl => ?_, fun e hl hop hsp => ?_, fun e hl hop hsp => ?_, fun hl hop hq => ?_⟩
  all_goals change execCxlCompletionTimeout c s = _
  · change _ = execProducerLineRead c .error [] s
    simp only [execCxlCompletionTimeout, if_neg hout, hl, if_true]
  · change _ = execLoadComplete c .error s
    simp only [execCxlCompletionTimeout, if_neg hout, hl, hop, hsp, Bool.false_eq_true, if_false]
  · change _ = execRestoreComplete c .error s
    simp only [execCxlCompletionTimeout, if_neg hout, hl, hop, hsp, Bool.false_eq_true, if_false]
  · simp only [execCxlCompletionTimeout, if_neg hout, hl, hop, hq, Bool.false_eq_true, if_false, State.hostDone]

/-! ## Operations that end (R285, R321 to R323) -/

section
variable {s s1 : State} {c : CtxIdx} {e : FeedEntry} {r : HostRead (List Byte)} {got : Option (List Byte)} (hlive : s.live = true)
include hlive

theorem exec_loadComplete_of_waiting (hop : (s.ctx c).op = .load e) (hwait : s.loadWaits = true) : exec (.loadComplete c r) s = .next s := by
  change execLoadComplete c r s = _
  simp only [execLoadComplete, State.serves, hlive, hop, hwait, Bool.not_true, Bool.false_eq_true, if_false, if_true]

/-- The end of a LOAD by what its buffer yields, in a module that is not contained. -/
theorem exec_loadComplete_of_bytes (hbytes : s.bufferBytes c e r = (got, s1)) (hop : (s.ctx c).op = .load e) (hgo : s.loadWaits = false)
    (hfree : s1.err.containState ≠ 1) :
    exec (.loadComplete c r) s = .next (
      if s1.err.containState = 2 then (s1.takeFree 64).2.failLoad c e 0x05 (s1.takeFree 64).1
      else match (generalizing := false) got with
        | none => s1.failLoad c e (if BitVec.ofNat 8 (feArg e 2) == (s1.ctx c).retired then 0x06 else 0x0C) 0
        | some bs => match s1.checkSched c bs with
          | .error (k, f) => (s1.reportRefusal k f).failLoad c e 0x05 (BitVec.ofNat 64 k)
          | .ok im => if BitVec.ofNat 8 (feArg e 2) == (s1.ctx c).retired then s1.failLoad c e 0x06 0 else s1.finishLoad c e im) := by
  change execLoadComplete c r s = _
  simp only [execLoadComplete, State.serves, hlive, hop, hgo, hbytes, Bool.not_true, Bool.false_eq_true, if_false, if_neg hfree] <;> rfl

/-- The end of a RESTORE by what its buffer yields. -/
theorem exec_restoreComplete_of_bytes {im : Sched} (hbytes : s.bufferBytes c e r = (got, s1)) (hop : (s.ctx c).op = .restore e)
    (him : (s.ctx c).image = some im) (hfree : s1.err.containState ≠ 1) :
    exec (.restoreComplete c r) s = .next (
      let q := s1.setCtx c { s1.ctx c with op := .none }
      (match (generalizing := false) got with
        | none => q.endEntry c e 3 0x0C 0
        | some bs => match q.ckptFault (q.ctx c) im bs with
          | .error k => (if k = 0x0A ∨ k = 0x0D then q.scrambleState c im else q).endEntry c e 3 k 0
          | .ok body => ((q.applyCkpt c im (bs.take headBytes) body).prepareStep c).endEntry c e 1 0 0).scanRing c) := by
  change execRestoreComplete c r s = _
  simp only [execRestoreComplete, State.serves, hlive, hop, him, hbytes, Bool.not_true, Bool.false_eq_true, if_false, if_neg hfree] <;> rfl

theorem exec_checkpointComplete_of_writing {im : Sched} (hop : (s.ctx c).op = .checkpoint e) (him : (s.ctx c).image = some im) :
    let s0 := if feSpace e then s else s.hostDone c
    let q := (s0.setCtx c { s0.ctx c with op := .none }).endEntry c e 1 0 (BitVec.ofNat 64 (s0.ckptSize im (s.ctx c).key.isSome))
    exec (.checkpointComplete c) s = .next (q.nextCkpt c im (q.ctx c).ckptQ) := by
  intro s0 q
  change execCheckpointComplete c s = _
  simp only [execCheckpointComplete, State.serves, hlive, hop, him, Bool.not_true, Bool.false_eq_true, if_false] <;> rfl

end

/-! ## STEP entries (R318, R319, R330) -/

/-- R318, R319: the causes against a STEP entry whose list lies in its range; s1 is the state that the read of the list leaves. -/
def stepCauses (s s1 : State) (c : CtxIdx) (e : FeedEntry) (im : Sched) (got : Option (List (BitVec 128))) : List Nat :=
  s.entryCauses c e ++ (if feArg e 0 = (s.ctx c).feedPos.toNat then [] else [7]) ++ (match got with
    | none => [0x0C]
    | some ds => ds.zipIdx.flatMap (fun (d : BitVec 128 × Nat) => s1.rangeCause c (inSpace d.1) (inAddr d.1) (inLen d.1) ++
        (if (im.inBuffer d.2 (feArg e 0)).2 < inLen d.1 then [8] else [])))

theorem exec_step_of_list {s s1 : State} {c : CtxIdx} {e : FeedEntry} {im : Sched} {r : HostRead (List (BitVec 128))}
    {got : Option (List (BitVec 128))} (him : (s.ctx c).image = some im) (hfront : s.frontStep c = some e)
    (hrange : s.rangeCause c (feSpace e) (feArg e 1) (16 * im.mbCount) = []) (hlist : s.stepList e im r = (got, s1))
    (hfree : s1.err.containState ≠ 1) :
    exec (.step c r) s = .next (
      match (generalizing := false) lowest (stepCauses s s1 c e im got) with
      | some k => (s1.refuseEntry c e k).scanRing c
      | none =>
        let s2 := s1.consume c
        let q : StepEntry := { tag := feTag e, seq := BitVec.ofNat 64 (feArg e 0), mask := BitVec.ofNat 16 (feArg e 2), inputs := got.getD [] }
        let s3 := s2.setCtx c { s2.ctx c with stepEntries := (s2.ctx c).stepEntries ++ [q], feedPos := (s2.ctx c).feedPos + 1 }
        ((s3.askInputs c im q).writeConsumer c).tryStart c) := by
  change execStep c r s = _
  simp only [execStep, hfront, him, hrange, List.isEmpty_nil, if_true, hlist, if_neg hfree, List.append_nil] <;> rfl

section
variable {s s1 : State} {c : CtxIdx} {im : Sched} {k : BitVec 4} {q : StepEntry} {rest : List StepEntry} {r : HostRead (List Byte)}
  {got : Option (List Byte)}

theorem exec_stepInputRead_of_pending (hlive : s.live = true) (him : (s.ctx c).image = some im) (hq : (s.ctx c).stepEntries = q :: rest)
    (hk : k.toNat < im.mbCount) (hnew : bit q.read k.toNat = false) (hbytes : s.inputBytes c (nth 0 q.inputs k.toNat) r = (got, s1))
    (hfree : s1.err.containState ≠ 1) :
    exec (.stepInputRead c k r) s = .next (match (generalizing := false) got with
      | none => s1.dropStep c q
      | some bs =>
        let s2 := s1.writeBytes (im.inBuffer k.toNat q.seq.toNat).1 bs
        (s2.setCtx c { s2.ctx c with stepEntries := { q with read := q.read ||| BitVec.ofNat 16 (2 ^ k.toNat) } :: rest }).tryStart c) := by
  change execStepInputRead c k r s = _
  simp only [execStepInputRead, State.serves, hlive, hq, him, Nat.not_le.2 hk, hnew, hbytes, Bool.not_true, Bool.false_eq_true, or_self, if_false,
    if_neg hfree] <;> rfl

end

/-! ## Aborts and teardown (R326 to R328) -/

section
variable {s : State} {c : CtxIdx} (hbar : s.barAnswers = true) (hlive : s.live = true)
include hbar hlive

theorem exec_abort_of_live (now : Bool) (tag : BitVec 32) :
    exec (.abort c now tag) s = .next (
      let s1 := s.setCtx c { s.ctx c with abortNow := now, abortTag := tag }
      if (s.ctx c).state = 0 then s1 else s1.abortReq c) := by
  change execAbort c now tag s = _
  simp only [execAbort, hbar, hlive, Bool.not_true, Bool.or_self, Bool.false_eq_true, if_false, State.setCtx_ctx_self]

theorem exec_teardown_of_live : exec (.teardown c) s = .next (s.teardownStart c).onIdle :=
  congrArg _ (if_pos (by rw [hbar, hlive]; rfl))

end

theorem exec_teardownDrained_of_drained {s : State} {c : CtxIdx} (hlive : s.live = true) (hst : (s.ctx c).state = 6)
    (hund : (s.ctx c).undrained = true) (hhost : (s.ctx c).outHost = 0) (hmem : s.outMem c = 0) (hlink : s.outLink c = 0) :
    exec (.teardownDrained c) s = .next ((s.teardownScrub c).resetFlows c) := by
  change execTeardownDrained c s = _
  simp [execTeardownDrained, hlive, hst, hund, hhost, hmem, hlink]

theorem exec_teardownScrubDone_of_scrubbed {s : State} {c : CtxIdx} (hlive : s.live = true) (hst : (s.ctx c).state = 6)
    (hund : (s.ctx c).undrained = false) : exec (.teardownScrubDone c) s = .next (s.teardownEnd c) := by
  change execTeardownScrubDone c s = _
  simp [execTeardownScrubDone, hlive, hst, hund]

/-- An abort request of a run: at once, at a step, or late. -/
theorem State.abortReq_of_run {s : State} {c : CtxIdx} (h : (s.ctx c).state = 3 ∨ (s.ctx c).state = 4) :
    s.abortReq c =
      if (s.ctx c).abortAt.isSome then s.postAbort c 4
      else if (s.ctx c).abortNow then (s.postAbort c 5).abortRun c
      else if (s.ctx c).endStep.toNat ≠ 0 ∧ (s.ctx c).endStep.toNat ≤ max (s.ctx c).abortStep.toNat (s.ctx c).step.toNat then s.postAbort c 4
      else (s.setCtx c { s.ctx c with
        abortAt := some (BitVec.ofNat 64 (max (s.ctx c).abortStep.toNat (s.ctx c).step.toNat), (s.ctx c).abortTag) }).postAbort c 5 :=
  if_pos h

/-- An abort request with nothing in progress is late. -/
theorem State.abortReq_of_idle {s : State} {c : CtxIdx} (h : ¬ ((s.ctx c).state = 3 ∨ (s.ctx c).state = 4)) (hop : (s.ctx c).op = .none) :
    s.abortReq c = s.postAbort c 4 := by
  simp only [State.abortReq, if_neg h, hop]

/-- R328: a context that is torn down has stopped, with its epoch retired. -/
theorem State.teardownStart_ctx {s : State} {c : CtxIdx} (h0 : (s.ctx c).state ≠ 0) (h6 : (s.ctx c).state ≠ 6) :
    ((s.teardownStart c).ctx c).state = 6 ∧ ((s.teardownStart c).ctx c).feedQ = [] ∧
      ((s.teardownStart c).ctx c).epoch = ((s.teardownStart c).ctx c).retired + 1 := by
  unfold State.teardownStart
  simp only [if_neg (not_or.2 ⟨h0, h6⟩), State.setCtx_ctx_self, and_self]

end Sys2Proof.Machine

open Sys2Proof Sys2Proof.Machine

/-- Settles O38: the equation of each port command, and the request that times out. -/
theorem hostPortCompletes : Obligations.HostPortCompletes := by
  intro s c
  refine ⟨fun hpow => ⟨congrArg _ (if_pos hpow), s.resetCxl_spec⟩, fun hpow hidle hstep rate narrow => exec_cxlLinkTrained_of_within hpow hidle hstep,
    fun hbar hup base => ⟨exec_hdmDecoderCommit_of_open hbar hup, exec_hdmDecoderCommit_of_not⟩,
    fun hbar hlive hst v => ⟨exec_ctxRingWrite_of_writable hbar hlive hst v, ringOrderOf_bounds v⟩,
    fun hlive hread hwatch p h es => exec_producerLineRead_of_watching hlive hread hwatch p h es, exec_cxlCompletionTimeout_of_pending⟩

/-- Settles O40: the ends of LOAD and RESTORE by what the buffer yields, and the end of a checkpoint. -/
theorem operationsEnd : Obligations.OperationsEnd := by
  intro s c e r got s1 hlive
  refine ⟨fun hbytes hop => ⟨exec_loadComplete_of_waiting hlive hop, fun hgo hfree => ?load⟩,
    fun im hbytes hop him hfree => ?restore, fun im hop him => exec_checkpointComplete_of_writing hlive hop him⟩
  case load =>
    have hexec := exec_loadComplete_of_bytes hlive hbytes hop hgo hfree
    refine ⟨fun hgot hserv => ⟨fun hret => ?_, fun hret => ?_⟩, fun hout => ?_, fun bs k f hgot hserv hchk => ⟨?_, rfl, rfl⟩,
      fun bs im hgot hserv hchk => ⟨fun hret => ?_, fun hret => ?_⟩⟩
    · rw [hexec, if_neg hserv, hgot]
      simp only [hret, beq_self_eq_true, if_true]
    · rw [hexec, if_neg hserv, hgot]
      simp only [beq_false_of_ne hret, Bool.false_eq_true, if_false]
    · rw [hexec, if_pos hout]
    · rw [hexec, if_neg hserv, hgot]
      simp only [hchk]
    · rw [hexec, if_neg hserv, hgot]
      simp only [hchk, hret, beq_self_eq_true, if_true]
    · rw [hexec, if_neg hserv, hgot]
      simp only [hchk, beq_false_of_ne hret, Bool.false_eq_true, if_false]
  case restore =>
    intro q
    have hexec := exec_restoreComplete_of_bytes hlive hbytes hop him hfree
    refine ⟨fun hgot => ?_, fun bs body hgot hfault => ?_, fun bs k hgot hfault => ?_⟩
    · rw [hexec, hgot]
    · rw [hexec, hgot]
      dsimp only
      rw [show State.ckptFault _ _ _ _ = Except.ok body from hfault]
    · rw [hexec, hgot]
      dsimp only
      rw [show State.ckptFault _ _ _ _ = Except.error k from hfault]

/-- Settles O41: a STEP entry by its lowest cause, an input by whether it arrived. -/
theorem stepEntriesComplete : Obligations.StepEntriesComplete := by
  intro s c im him
  refine ⟨fun e r got s1 hfront hrange hlist hfree => ?entry, fun k q rest r got s1 hlive hq hk hnew hbytes hfree => ?input⟩
  case entry =>
    intro early causes
    have hexec := exec_step_of_list him hfront hrange hlist hfree
    refine ⟨fun k hk => ?_, fun ds hgot hnone => ?_⟩
    · have hlow : lowest (stepCauses s s1 c e im got) = some k := hk
      rw [hexec, hlow]
    · have hlow : stepCauses s s1 c e im got = [] := hnone
      rw [hexec, hlow, hgot]
      rfl
  case input =>
    have hexec := exec_stepInputRead_of_pending hlive him hq hk hnew hbytes hfree
    exact ⟨fun bs hgot => by rw [hexec, hgot], fun hgot => by rw [hexec, hgot]⟩

/-- Settles O42: an abort request by the state of its context, and the orders of a teardown. -/
theorem abortAndTeardownComplete : Obligations.AbortAndTeardownComplete := by
  intro s c hbar hlive x
  refine ⟨fun now tag => ?abort, ⟨exec_teardown_of_live hbar hlive, fun h => if_pos h, State.teardownStart_ctx⟩,
    fun hst hund hhost hmem hlink => ⟨?_, ?_⟩, fun hst hund => ?_⟩
  case abort =>
    intro s1
    have hctx : s1.ctx c = { x with abortNow := now, abortTag := tag } := State.setCtx_ctx_self _ _ _
    have hexec := exec_abort_of_live (c := c) hbar hlive now tag
    have hreq {t : State} (h0 : x.state ≠ 0) (ht : s1.abortReq c = t) : exec (.abort c now tag) s = .next t := by
      rw [hexec, ← ht]
      exact congrArg _ (if_neg h0)
    have hrun (h : x.state = 3 ∨ x.state = 4) : x.state ≠ 0 := by
      intro h0
      rcases h with h | h <;> exact absurd (h0.symm.trans h) (by decide)
    refine ⟨fun h0 => hexec.trans (congrArg _ (if_pos h0)), fun h => ⟨fun hpend => hreq (hrun h) ?_, fun hnone hnow => hreq (hrun h) ?_,
      fun hnone hlater => ?_⟩, fun h0 h3 h4 hop => hreq h0 ?_⟩
    · rw [State.abortReq_of_run (by rw [hctx]; exact h), hctx]
      exact if_pos hpend
    · rw [State.abortReq_of_run (by rw [hctx]; exact h), hctx]
      exact (if_neg (by rw [hnone]; decide)).trans (if_pos hnow)
    · intro t
      have hmark := (State.abortReq_of_run (s := s1) (c := c) (by rw [hctx]; exact h)).trans
        ((if_neg (by rw [hctx, hnone]; decide)).trans (if_neg (by rw [hctx]; exact Bool.eq_false_iff.1 hlater)))
      rw [hctx] at hmark
      refine ⟨fun hend hpast => hreq (hrun h) (hmark.trans (if_pos ⟨hend, hpast⟩)), fun hleft => hreq (hrun h) (hmark.trans ?_)⟩
      rw [if_neg (fun hp => hleft.elim hp.1 (fun hlt => absurd hp.2 (Nat.not_le.2 hlt)))]
      rw [hctx]
    · exact State.abortReq_of_idle (by rw [hctx]; exact not_or.2 ⟨h3, h4⟩) (by rw [hctx]; exact hop)
  · exact exec_teardownDrained_of_drained hlive hst hund hhost hmem hlink
  · simp only [State.teardownScrub, State.setCtx_ctx_self]
  · exact exec_teardownScrubDone_of_scrubbed hlive hst hund

end

section
/-! O44 to O46: power, bring-up and block resets. Each command is one equation, with the branches its hypotheses leave. -/

namespace Sys2Proof.Machine
open Sys2Proof

theorem Sent.pwr {s t : State} (h : Sent s t) : t.pwr = s.pwr :=
  (congrArg State.pwr (show t = _ from h)).trans rfl

/-! ## Thermal trip and governor (R336, R337, R370) -/

/-- R370: a die above 115 or a package above 105 degrees. -/
def overTemp (dies pkgs : List (BitVec 8)) : Bool :=
  dies.any (fun t => decide (115 < t.toNat)) || pkgs.any (fun t => decide (105 < t.toNat))

theorem overTemp_eq_true (dies pkgs : List (BitVec 8)) :
    overTemp dies pkgs = true ↔ (∃ t ∈ dies, 115 < t.toNat) ∨ ∃ t ∈ pkgs, 105 < t.toNat := by
  simp only [overTemp, Bool.or_eq_true, List.any_eq_true, decide_eq_true_eq]

section
variable {s : State} {dies pkgs : List (BitVec 8)} (hcool : s.pwr.tripped = false)
include hcool

theorem exec_thermalSensorRead_of_hot (hhot : overTemp dies pkgs = true) : exec (.thermalSensorRead dies pkgs) s =
    .next ({ s with pwr := { s.pwr with tripped := true, thermtripLow := true, railsValid := false } }.losePower) :=
  congrArg _ ((if_neg (Bool.eq_false_iff.1 hcool)).trans (if_pos hhot))

theorem exec_thermalSensorRead_of_cool (hok : ¬ overTemp dies pkgs = true) (hheld : s.pwr.held = false) :
    exec (.thermalSensorRead dies pkgs) s = .next { s with pwr := { s.pwr with
      dieTemps := dies, pkgTemps := pkgs, tjMax := BitVec.ofNat 8 ((dies.map BitVec.toNat).foldl max 0) } } :=
  congrArg _ ((if_neg (Bool.eq_false_iff.1 hcool)).trans ((if_neg hok).trans (if_neg (Bool.eq_false_iff.1 hheld))))

end

theorem exec_governorWindow_of_powered {s : State} (hpow : s.powered = true) (hstep : 3 ≤ s.boot.step.toNat) (w : BitVec 16) (tj : BitVec 8) :
    let ws := (w :: s.pwr.windows).take 100
    let m := s.meanPower ws
    let s1 := { m.2 with pwr := { m.2.pwr with windows := ws, inputW := m.1, tjMax := tj } }
    exec (.governorWindow w tj) s = .next (s1.govern (decide (s1.effectiveCap < w.toNat) || decide (105 < tj.toNat))) := by
  intro ws m s1
  change execGovernorWindow w tj s = _
  simp only [execGovernorWindow, hpow, Nat.not_lt.2 hstep, decide_false, Bool.not_true, Bool.or_self, Bool.false_eq_true, if_false] <;> rfl

/-- An event changes nothing of what the governor holds. -/
theorem State.pwr_raise_if (s : State) (c : Prop) [Decidable c] (code detail : Nat) : (if c then s.raise code detail else s).pwr = s.pwr := by
  split
  · exact (s.raise_sent code detail).pwr
  · rfl

/-- R337: past the cap or 105 degrees a supply above 600 mV goes down by 5 mV. -/
theorem State.govern_coreMv_of_past {s : State} {mv : Nat} (hmv : s.pwr.coreMv = BitVec.ofNat 10 mv) (hlo : 600 < mv) (hhi : mv ≤ 850) :
    (s.govern true).pwr.coreMv = BitVec.ofNat 10 (mv - 5) := by
  have hval : s.pwr.coreMv.toNat = mv := by rw [hmv, BitVec.toNat_ofNat, Nat.mod_eq_of_lt (by omega)]
  have hset : s.pwr.coreMv ≠ 0 := fun h => by rw [h] at hval; exact absurd hval (by simp; omega)
  have hsupply : s.supply = (mv, s) := by rw [State.supply, if_neg hset, hval]
  simp only [State.govern, hsupply, if_true, if_pos hlo, State.pwr_raise_if]

section
variable {s : State} {w : BitVec 16} (hpow : s.powered = true) (hready : s.mgt.ready = true)
include hpow hready

theorem exec_powerCapEffecter_of_range (hlo : 500 ≤ w.toNat) (hhi : w.toNat ≤ 2800) :
    exec (.powerCapEffecter w) s = .next { s with pwr := { s.pwr with capW := w } } := by
  change execPowerCapEffecter w s = _
  simp only [execPowerCapEffecter, hpow, hready, Bool.not_true, Bool.or_self, Bool.false_eq_true, if_false, if_pos (And.intro hlo hhi)]

theorem exec_capCeilingWrite_of_direct (haddr : s.mgt.directAddr ≠ 0) :
    exec (.capCeilingWrite w) s = .next { s with pwr := { s.pwr with capCeiling := BitVec.ofNat 16 (clampNat w.toNat 500 2800) } } := by
  change execCapCeilingWrite w s = _
  simp only [execCapCeilingWrite, hpow, hready, beq_false_of_ne haddr, Bool.not_true, Bool.or_self, Bool.false_eq_true, if_false]

end

/-- Table 16-1: the direct target's identity. -/
theorem State.directByte_id (s : State) : s.directByte 0 = 0x04 ∧ s.directByte 1 = 0x4B := by
  simp [State.directByte, nth, le, leBytes, List.range_succ]

/-- Table 16-1: the ceiling's low byte. -/
theorem State.directByte_capCeiling (s : State) : s.directByte 2 = s.pwr.capCeiling.setWidth 8 := by
  simp [State.directByte, nth, le, leBytes, List.range_succ]

/-! ## Bring-up (R284, R285, R296 to R302) -/

section
variable {s : State} (hpow : s.powered = true) (hmode : s.boot.mode = 0) (hfree : s.err.containState = 0)
include hpow hmode hfree

/-- The step in hand ends, where it is not the self-check a second time. -/
theorem exec_bringUpStepDone_of_step {order : BitVec 4} (hstep : s.boot.step = order) (honce : (order == 8 && s.boot.selfChecked) = false)
    (r : StepResult) (fs : List SelfCheckFault) :
    exec (.bringUpStepDone order r fs) s = .next (match r with
      | .failed d =>
        if order = 1 then s.failStart 1 0
        else if order = 3 then s.failStart 2 0
        else if order = 4 then s.failStart 3 0
        else if order = 6 then s.failStart 4 d.toNat
        else s.failStart 7 d.toNat
      | .done =>
        if order = 1 then (if fusesOk s.fuses then s.sensePins.applyFuseRepairs.bootStep2 else s.failStart 1 0)
        else if order = 3 then s.bootStep3
        else if order = 4 then s.bootStep4
        else if order = 6 then { s with mem := { s.mem with cells := [], initDone := true }, boot := { s.boot with step := 8 } }
        else { (s.selfCheck fs) with boot := { (s.selfCheck fs).boot with selfChecked := true } }) := by
  have hgate : (!s.powered || s.boot.mode != 0 || s.boot.step != order || s.err.containState == 1 || (order == 8 && s.boot.selfChecked)) = false := by
    rw [hpow, hmode, hstep, hfree, honce, bne_self_eq_false, bne_self_eq_false]
    rfl
  refine congrArg _ ((if_neg (Bool.eq_false_iff.1 hgate)).trans ?_)
  cases r <;> rfl

omit hfree in
/-- READY, out of service where the containment count has reached its limit. -/
theorem exec_ready_of_settled (hstep : s.boot.step = 8) (hchk : s.boot.selfChecked = true) (hlinks : s.links.state = 2 ∨ s.links.state = 3) :
    exec .ready s = .next (
      let r := { s with boot := { s.boot with mode := 1 } }.noteStart .clear
      if s.boot.opts.containLimit.toNat ≤ s.err.containCount.toNat then { r with err := { r.err with containState := 2 } }.raise 0x7 0 else r) := by
  have hgate : (!s.powered || s.boot.mode != 0 || s.boot.step != 8 || !s.boot.selfChecked || !(s.links.state == 2 || s.links.state == 3)) = false := by
    rcases hlinks with h | h <;> rw [hpow, hmode, hstep, hchk, h] <;> rfl
  exact congrArg _ (if_neg (Bool.eq_false_iff.1 hgate))

omit hfree in
theorem exec_configurationRequest_of_up (hup : s.boot.cxlUp = true) :
    exec .configurationRequest s = .next (if s.boot.step.toNat ≤ 4 then s.emit .configRetry else s.emit .configOk) := by
  change execConfigurationRequest s = _
  simp only [execConfigurationRequest, hpow, hup, hmode, Bool.not_true, Bool.or_self, Bool.false_eq_true, if_false,
    show ((0 : BitVec 2) != 3) = true from rfl, Bool.true_and, decide_eq_true_eq]

end

/-! ## Hangs, the containment log and block resets (R275 to R278, R284, R303) -/

theorem exec_hangTimeout_of_monitored {s : State} {b : BitVec 16} (hpow : s.powered = true) (hmode : s.boot.mode.toNat ≤ 1)
    (hid : blockIdOk b = true) (hmon : s.unmonitored b = false) (hrun : s.err.blockRunning ≠ some b) (hfree : s.err.containState ≠ 1)
    (k : BitVec 4) (p : BitVec 32) :
    exec (.hangTimeout b k p) s = .next ((s.noteHang b k p).moduleCause 0x42 5 (field b 13 3) 0x3) := by
  change execHangTimeout b k p s = _
  simp only [execHangTimeout, hpow, hid, hmon, beq_false_of_ne hrun, if_neg hfree, show ¬ 2 ≤ s.boot.mode.toNat by omega, decide_false,
    Bool.not_true, Bool.or_self, Bool.false_eq_true, if_false]

theorem exec_hangTimeout_of_unmonitored {s : State} {b : BitVec 16} (h : s.unmonitored b = true) (k : BitVec 4) (p : BitVec 32) :
    exec (.hangTimeout b k p) s = .next s :=
  congrArg _ (if_pos (by rw [h, Bool.or_true, Bool.true_or]))

theorem exec_remoteWaitLong_of_waiting {s : State} {t : TorIdx} {token value : Nat} (hlive : s.live = true) (hst : (s.tor t).state = 2)
    (hwait : (s.tor t).waitToken = some (token, value, true)) : exec (.remoteWaitLong t) s = .next (s.raise 0x27 t.toNat) := by
  change execRemoteWaitLong t s = _
  simp only [execRemoteWaitLong, hlive, hst, hwait, beq_self_eq_true, Bool.and_self, if_true]

/-- The write of the containment log ends. -/
theorem exec_containLogWrite_of_pending {s : State} (hc : s.err.containState = 1) (hlog : s.err.logPending = true) (ok : Bool) :
    let s1 := { s with err := { s.err with logPending := false } }
    exec (.containLogWrite ok) s = .next (
      if !ok then s1.raise 0x10 0
      else { s1 with flash := { s1.flash with containLog := s1.flash.containLog ++ [
        { serviceS := (match (currentChain s.flash.containLog).getLast? with | some e => e.serviceS | none => 0) + s.dmp.t0.toNat / 100000000,
          cause := s.err.containCause, chainEnd := false, pending := true, step := s.runStep }] } }) := by
  intro s1
  exact congrArg _ (if_neg (by rw [hc, hlog]; decide))

section
variable {s : State} {b : BitVec 16} (hbar : s.barAnswers = true) (hmode : s.boot.mode = 1)
include hbar hmode

theorem exec_blockReset_of_contained (hc : s.err.containState = 1) : exec (.blockReset b) s = .next (s.accessError 2 0x1010) :=
  congrArg _ ((if_neg (by rw [hbar]; decide)).trans (if_pos (by rw [hmode, hc]; rfl)))

/-- A block reset that may start, by whether the block is idle. -/
theorem exec_blockReset_of_free (hfree : s.err.containState = 0) (hrun : s.err.blockRunning = none) (hid : blockIdOk b = true)
    (hkind : field b 13 3 ≤ 3 ∨ b = 0xA000) :
    let s1 := { s with err := { s.err with blockId := b } }
    exec (.blockReset b) s = .next (
      if !s1.blockIdle b then { s1 with err := { s1.err with blockResult := 3 } }
      else { (s1.blockEffect b) with err := { (s1.blockEffect b).err with blockResult := 1, blockRunning := some b } }) := by
  intro s1
  have hok : (!blockIdOk b || !(decide (field b 13 3 ≤ 3) || b == 0xA000)) = false := by
    rw [hid]
    rcases hkind with h | h
    · rw [decide_eq_true h]; rfl
    · rw [beq_iff_eq.2 h, Bool.or_true]; rfl
  have hgo : s1.goBlock b = if !s1.blockIdle b then { s1 with err := { s1.err with blockResult := 3 } }
      else { (s1.blockEffect b) with err := { (s1.blockEffect b).err with blockResult := 1, blockRunning := some b } } :=
    (if_neg (by rw [show s1.err.containState = 0 from hfree]; decide)).trans ((if_neg (by
      rw [show s1.err.blockRunning = none from hrun]; decide)).trans (if_neg (Bool.eq_false_iff.1 hok)))
  rw [← hgo]
  exact congrArg _ ((if_neg (by rw [hbar]; decide)).trans (if_neg (by rw [hmode, hfree]; decide)))

end

theorem exec_blockResetDone_of_running {s : State} {b : BitVec 16} (hpow : s.powered = true) (hrun : s.err.blockRunning = some b) :
    exec .blockResetDone s = .next { s with err := { s.err with blockRunning := none, blockResult := 2 } } :=
  congrArg _ (if_neg (by rw [hpow, hrun]; exact Bool.false_ne_true))

end Sys2Proof.Machine

open Sys2Proof Sys2Proof.Machine

/-- Settles O44: the trip by the readings, the governor by its supply, and the caps within their range. -/
theorem thermalAndGovernorComplete : Obligations.ThermalAndGovernorComplete := by
  intro s
  refine ⟨fun dies pkgs hcool => ⟨fun hhot => exec_thermalSensorRead_of_hot hcool ((overTemp_eq_true dies pkgs).2 hhot), fun hd hp hheld => ?_⟩,
    fun w tj hpow hstep => exec_governorWindow_of_powered hpow hstep w tj, fun mv => State.govern_coreMv_of_past,
    fun w hpow hready => exec_powerCapEffecter_of_range hpow hready,
    fun w hpow hready haddr => ⟨exec_capCeilingWrite_of_direct hpow hready haddr, State.directByte_capCeiling _, State.directByte_id s⟩⟩
  · refine exec_thermalSensorRead_of_cool hcool (fun h => ?_) hheld
    rcases (overTemp_eq_true dies pkgs).1 h with ⟨t, ht, hlt⟩ | ⟨t, ht, hlt⟩
    · exact absurd (hd t ht) (Nat.not_le.2 hlt)
    · exact absurd (hp t ht) (Nat.not_le.2 hlt)

/-- Settles O45: each step of bring-up by its order, READY by the containment count. -/
theorem bringUpCompletes : Obligations.BringUpCompletes := by
  intro s fs hpow hmode hfree
  have hstep {order : BitVec 4} (h : s.boot.step = order) (honce : (order == 8 && s.boot.selfChecked) = false) (r : StepResult) :=
    exec_bringUpStepDone_of_step hpow hmode hfree h honce r fs
  refine ⟨fun h => ⟨fun hok => ?_, fun hbad => ?_, fun d => hstep h rfl (.failed d)⟩, fun h => hstep h rfl .done, fun h => hstep h rfl .done,
    fun h => ⟨hstep h rfl .done, fun d => hstep h rfl (.failed d)⟩, fun h hnew => ⟨hstep h (by rw [hnew]; rfl) .done,
      fun d => hstep h (by rw [hnew]; rfl) (.failed d)⟩, fun h hchk hlinks => ⟨fun hlt => ?_, fun hge => ?_⟩,
    fun hup => ⟨fun hle => ?_, fun hlt => ?_⟩⟩
  · exact (hstep h rfl .done).trans (congrArg _ ((if_pos rfl).trans (if_pos hok)))
  · exact (hstep h rfl .done).trans (congrArg _ ((if_pos rfl).trans (if_neg (Bool.eq_false_iff.1 hbad))))
  · exact (exec_ready_of_settled hpow hmode h hchk hlinks).trans (congrArg _ (if_neg (Nat.not_le.2 hlt)))
  · exact (exec_ready_of_settled hpow hmode h hchk hlinks).trans (congrArg _ (if_pos hge))
  · exact (exec_configurationRequest_of_up hpow hmode hup).trans (congrArg _ (if_pos hle))
  · exact (exec_configurationRequest_of_up hpow hmode hup).trans (congrArg _ (if_neg (Nat.not_le.2 hlt)))

/-- Settles O46: monitors, the log write, and block resets by whether the block is idle. -/
theorem hangsAndBlockResetsComplete : Obligations.HangsAndBlockResetsComplete := by
  intro s
  refine ⟨fun b k p hpow hmode hid hmon hrun hfree => exec_hangTimeout_of_monitored hpow hmode hid hmon hrun hfree k p,
    fun b k p h => exec_hangTimeout_of_unmonitored h k p, fun t token value => exec_remoteWaitLong_of_waiting,
    fun hc hlog => ⟨exec_containLogWrite_of_pending hc hlog false, exec_containLogWrite_of_pending hc hlog true⟩,
    fun b hbar hmode => ⟨exec_blockReset_of_contained hbar hmode, fun hfree hrun hid hkind => ⟨fun hidle => ?_, fun hbusy => ?_⟩⟩,
    fun b => exec_blockResetDone_of_running⟩
  · exact (exec_blockReset_of_free hbar hmode hfree hrun hid hkind).trans (congrArg _ (if_neg (by rw [hidle]; decide)))
  · exact (exec_blockReset_of_free hbar hmode hfree hrun hid hkind).trans (congrArg _ (if_pos (by rw [hbusy]; rfl)))

end

section
/-! O47 and O48: the dump, block by block, and the images in hand. -/

namespace Sys2Proof.Machine
open Sys2Proof

/-! ## The dump (R280, R281) -/

section
variable {s : State}

/-- The block that hung is passed without being asked. -/
theorem State.dumpPassHung_of_hung (hact : s.dmp.active = true) (hcause : s.err.containCause = 0x42) (hblk : s.err.hangBlock ≠ 0xFFFF)
    (hid : (dumpBlockAt s.dmp.asked).id = s.err.hangBlock.toNat) : s.dumpPassHung = s.dumpNote 1 0 :=
  if_pos (by rw [hact, bne_iff_ne.2 hblk, beq_iff_eq.2 hcause, beq_iff_eq.2 hid]; rfl)

theorem exec_dumpBlockAnswer_of_active (hact : s.dumpPassHung.dmp.active = true) {r : List Byte}
    (hlen : r.length = (dumpBlockAt s.dumpPassHung.dmp.asked).size) :
    let b := dumpBlockAt s.dumpPassHung.dmp.asked
    let s1 := s.dumpPassHung.dumpSuspect
    let s2 := { s1 with dmp := { s1.dmp with
      compact := pad (b.compact - recordsStart) s1.dmp.compact ++ r.take (compactBytes (b.id / 8192)) } }
    exec (.dumpBlockAnswer r) s = .next
      (((if s1.dmp.suspect then s2 else s2.writeDump (s2.img.active.moraineBase + b.full) r).dumpNote 0 b.size).dumpPassHung) := by
  intro b s1 s2
  exact congrArg _ (if_neg (by rw [hact, hlen, bne_self_eq_false]; decide))

theorem exec_dumpBlockLimit_of_active (hact : s.dumpPassHung.dmp.active = true) :
    exec .dumpBlockLimit s = .next ((s.dumpPassHung.dumpNote 1 0).dumpPassHung) :=
  congrArg _ (if_pos hact)

theorem exec_dumpDeadline_of_active (hact : s.dumpPassHung.dmp.active = true) :
    let h := s.dumpPassHung
    let rest := (List.range (dumpBlocks - h.dmp.asked)).map (fun i =>
      dirEntry (dumpBlockAt (h.dmp.asked + i)).full 0 2 (dumpBlockAt (h.dmp.asked + i)).id)
    exec .dumpDeadline s =
      .next (({ h with dmp := { h.dmp with deadline := true, asked := dumpBlocks, dir := h.dmp.dir ++ rest } }).dumpFinish) := by
  intro h rest
  exact congrArg _ (if_neg (by rw [hact]; decide))

theorem exec_dumpWriteTimeout_of_active (hact : s.dmp.active = true) (hsound : s.dmp.suspect = false) :
    exec .dumpWriteTimeout s = .next { s with dmp := { s.dmp with suspect := true } } :=
  congrArg _ (if_pos (by rw [hact, hsound]; rfl))

end

/-! ## Images (R35, R36, R38) -/

section
variable {s : State} (hbar : s.barAnswers = true) (hfree : s.err.containState ≠ 1)
include hbar hfree

theorem exec_stage_of_open : exec .stage s = .next s.stageImage :=
  congrArg _ (if_pos (by rw [hbar, bne_iff_ne.2 hfree]; rfl))

theorem exec_discard_of_open : exec .discard s = .next s.discardImage :=
  congrArg _ (if_pos (by rw [hbar, bne_iff_ne.2 hfree]; rfl))

end

section
variable {s : State}

/-- An image beyond memory or in a reserved region is not read. -/
theorem State.stageImage_of_outside (hempty : s.img.stage = .empty)
    (hout : memTop < 32 * (s.img.stageAddr.toNat + s.img.stageLen.toNat) ∨
      s.inReserved (32 * s.img.stageAddr.toNat) (32 * s.img.stageLen.toNat) = true) : s.stageImage = s.refuseImage 0x07 0 := by
  rw [State.stageImage, if_neg (not_not_intro hempty)]
  exact if_pos hout

theorem State.stageImage_of_read (hempty : s.img.stage = .empty) (htop : 32 * (s.img.stageAddr.toNat + s.img.stageLen.toNat) ≤ memTop)
    (hres : s.inReserved (32 * s.img.stageAddr.toNat) (32 * s.img.stageLen.toNat) = false) {bs : List (BitVec 272)} {s1 : State}
    (hread : s.readBursts 1 ((List.range s.img.stageLen.toNat).map (s.img.stageAddr.toNat + ·)) = (some bs, s1, false)) :
    s.stageImage = { s1 with img := { s1.img with stage := .checking, stagedBytes := some (bs.flatMap (fun b => leBytes 32 (payload b))) } } := by
  rw [State.stageImage, if_neg (not_not_intro hempty)]
  dsimp only
  rw [if_neg (not_or.2 ⟨Nat.not_lt.2 htop, Bool.eq_false_iff.1 hres⟩), hread]

theorem State.discardImage_of_held (h : s.img.stage ≠ .empty) :
    s.discardImage = { s with img := { s.img with stage := .empty, stagedBytes := none, pending := {}, lastOutcome := 2 } } := by
  unfold State.discardImage
  split
  next he => exact absurd he h
  · rfl

theorem State.discardImage_of_empty (h : s.img.stage = .empty) (hout : s.img.lastOutcome = 1) :
    s.discardImage = { s with img := { s.img with lastOutcome := 4 } } := by
  rw [State.discardImage, h]
  exact if_pos hout

/-- The checks of a staged image end: refused with their cause, or pending. -/
theorem exec_imageCheckDone_of_checking {bs : List Byte} (hst : s.img.stage = .checking) (hbs : s.img.stagedBytes = some bs)
    (hpow : s.powered = true) (hfree : s.err.containState ≠ 1) :
    let s1 := { s with img := { s.img with stage := .empty, stagedBytes := none } }
    exec .imageCheckDone s = .next (match checkWihorn s.fuses.keys bs with
      | .error (k, f) => s1.refuseImage k f
      | .ok w =>
        if s.bound w then s1.refuseImage 0x1C 0
        else if s.lateFor w then s1.refuseImage 0x1D 0
        else ({ s with img := { s.img with stage := .pending, pending := w } }).switchIfIdle.refreshIfIdle) := by
  intro s1
  change execImageCheckDone s = _
  simp only [execImageCheckDone, hst, hbs, hpow, beq_false_of_ne hfree, Bool.not_true, Bool.or_self, Bool.false_eq_true, if_false] <;> rfl

end

end Sys2Proof.Machine

open Sys2Proof Sys2Proof.Machine

/-- Settles O47: each dump command on a dump that goes on past the block that hung. -/
theorem dumpCommandsComplete : Obligations.DumpCommandsComplete := by
  intro s hact h b
  refine ⟨fun r hgo hlen => ⟨fun hsus => ?_, fun hsound => ?_⟩, exec_dumpBlockLimit_of_active, exec_dumpDeadline_of_active,
    exec_dumpWriteTimeout_of_active hact, State.dumpPassHung_of_hung hact⟩
  · refine (exec_dumpBlockAnswer_of_active hgo hlen).trans ?_
    dsimp only
    rw [if_pos hsus]
  · refine (exec_dumpBlockAnswer_of_active hgo hlen).trans ?_
    dsimp only
    rw [if_neg (Bool.eq_false_iff.1 hsound)]

/-- Settles O48: STAGE and DISCARD by what is in hand, the end of the checks by their outcome. -/
theorem imageCommandsComplete : Obligations.ImageCommandsComplete := by
  intro s
  refine ⟨fun hbar hfree => ⟨fun hheld => ⟨?_, ?_⟩, fun hempty => ⟨fun hout => ?_, fun htop hres bs s1 hread => ?_, fun hout => ?_⟩⟩,
    fun bs hst hbs hpow hfree => ?checks⟩
  · exact (exec_stage_of_open hbar hfree).trans (congrArg _ (if_pos hheld))
  · rw [exec_discard_of_open hbar hfree, State.discardImage_of_held hheld]
  · rw [exec_stage_of_open hbar hfree, State.stageImage_of_outside hempty hout]
  · rw [exec_stage_of_open hbar hfree, State.stageImage_of_read hempty htop hres hread]
  · rw [exec_discard_of_open hbar hfree, State.discardImage_of_empty hempty hout]
  case checks =>
    have hexec := exec_imageCheckDone_of_checking hst hbs hpow hfree
    refine ⟨fun k f hchk => by rw [hexec, hchk], fun w hchk => ⟨fun hb => ?_, fun hb hl => ?_, fun hb hl => ?_⟩⟩
    all_goals rw [hexec, hchk]; dsimp only
    · rw [if_pos hb]
    · rw [if_neg (Bool.eq_false_iff.1 hb), if_pos hl]
    · rw [if_neg (Bool.eq_false_iff.1 hb), if_neg (Bool.eq_false_iff.1 hl)]

end

section
/-! O49: register reads, by the region their offset lies in. -/

namespace Sys2Proof.Machine
open Sys2Proof

/-- A read of the standard structures draws free values and sends them; nothing else changes. -/
theorem State.standardRead_frame (s : State) (o n : Nat) : { s.standardRead o n with out := s.out, free := s.free } = s := by
  unfold State.standardRead
  split <;> rfl

/-- R7: reserved offsets read 0. -/
theorem State.regWord_reserved (s : State) : s.regWord 0x0020 = 0 ∧ s.regWord 0x2FF8 = 0 ∧ s.regWord 0xB138 = 0 ∧ s.regWord 0x22000 = 0 := by
  refine ⟨?_, ?_, ?_, ?_⟩
  all_goals rfl

section
variable {s : State} {o : BitVec 26} {n : BitVec 13} (hbar : s.barAnswers = true)
include hbar

theorem exec_registerRead_of_aperture (hap : inAperture o.toNat = true) : exec (.registerRead o n) s = .next (
    if 4 ≤ n.toNat ∧ n.toNat ≤ 4096 ∧ o.toNat % 4096 + n.toNat ≤ 4096 then
      s.emit (.readData (s.moraineBytes s.dmp.source (2 ^ 24 * s.dmp.window.toNat + (o.toNat - 0x3000000)) n.toNat))
    else s.emit .completerAbort) :=
  congrArg _ ((if_neg (by rw [hbar]; decide)).trans (if_pos hap))

theorem exec_registerRead_of_standard (hap : inAperture o.toNat = false) (hstd : inStandard o.toNat = true) :
    exec (.registerRead o n) s = .next (s.standardRead o.toNat n.toNat) :=
  congrArg _ ((if_neg (by rw [hbar]; decide)).trans ((if_neg (Bool.eq_false_iff.1 hap)).trans (if_pos hstd)))

theorem exec_registerRead_of_register (hap : inAperture o.toNat = false) (hstd : inStandard o.toNat = false) : exec (.registerRead o n) s = .next (
    if (n.toNat == 4 || n.toNat == 8) && o.toNat % n.toNat == 0 then s.emit (.readData (s.regBytes o.toNat n.toNat))
    else (s.accessError 1 o).emit .completerAbort) :=
  congrArg _ ((if_neg (by rw [hbar]; decide)).trans ((if_neg (Bool.eq_false_iff.1 hap)).trans (if_neg (Bool.eq_false_iff.1 hstd))))

end

/-- R352: an aligned read of 4 or 8 bytes. -/
theorem alignedRead_iff (o : BitVec 26) (n : BitVec 13) :
    ((n.toNat == 4 || n.toNat == 8) && o.toNat % n.toNat == 0) = true ↔ (n = 4 ∨ n = 8) ∧ o.toNat % n.toNat = 0 := by
  have h4 : n.toNat = 4 ↔ n = 4 := by rw [← BitVec.toNat_inj]; rfl
  have h8 : n.toNat = 8 ↔ n = 8 := by rw [← BitVec.toNat_inj]; rfl
  rw [Bool.and_eq_true, Bool.or_eq_true, beq_iff_eq, beq_iff_eq, beq_iff_eq, h4, h8]

end Sys2Proof.Machine

open Sys2Proof Sys2Proof.Machine

/-- Settles O49: one equation for each region, and the size and alignment it asks for. -/
theorem registerReadsComplete : Obligations.RegisterReadsComplete := by
  intro s o n hbar
  refine ⟨fun hap hstd => ⟨fun hok => ?_, fun hbad => ?_⟩, fun hap => ⟨fun hok => ?_, fun hbad => ?_⟩,
    fun hap hstd => ⟨exec_registerRead_of_standard hbar hap hstd, s.standardRead_frame _ _⟩, s.regWord_reserved⟩
  · exact (exec_registerRead_of_register hbar hap hstd).trans (congrArg _ (if_pos ((alignedRead_iff o n).2 hok)))
  · exact (exec_registerRead_of_register hbar hap hstd).trans (congrArg _ (if_neg fun h => hbad ((alignedRead_iff o n).1 h)))
  · exact (exec_registerRead_of_aperture hbar hap).trans (congrArg _ (if_pos hok))
  · exact (exec_registerRead_of_aperture hbar hap).trans (congrArg _ (if_neg hbad))

end

section
/-! O51 and O52: the management port. While the targets respond, each command is what its definition says past that test. -/

namespace Sys2Proof.Machine
open Sys2Proof

/-- A command behind a test that holds. -/
theorem next_of_open {c : Bool} (h : c = true) (s t : State) :
    (Host.Outcome.next (if !c then s else t) : Host.Outcome State Fault Refusal) = .next t :=
  congrArg _ (if_neg (by rw [h]; decide))

section
variable {s : State} (hon : s.mgmtOn = true)
include hon

/-! ## Events and reads (R283, R333, R261) -/

theorem exec_poll_of_empty (hq : s.mgt.queue = []) : exec .pollForPlatformEventMessage s = .next (s.emit .noEvent) := by
  refine (next_of_open hon s _).trans ?_
  rw [hq]

theorem exec_poll_of_cons {e : Event} {q : List Event} (hq : s.mgt.queue = e :: q) :
    exec .pollForPlatformEventMessage s = .next ((({ s with mgt := { s.mgt with queue := q } }).emit (.eventMessage e)).sendHead) := by
  refine (next_of_open hon s _).trans ?_
  rw [hq]

theorem exec_eventAcknowledge_of_empty (hq : s.mgt.queue = []) (n : BitVec 32) : exec (.eventAcknowledge n) s = .next s := by
  refine (next_of_open hon s _).trans ?_
  rw [hq]

theorem exec_eventAcknowledge_of_cons {e : Event} {q : List Event} (hq : s.mgt.queue = e :: q) (n : BitVec 32) :
    exec (.eventAcknowledge n) s = .next (if e.seq = n then ({ s with mgt := { s.mgt with queue := q } }).sendHead else s) := by
  refine (next_of_open hon s _).trans ?_
  rw [hq]

theorem exec_readMoraine_of_on (full : Bool) (o : BitVec 32) (n : BitVec 16) : exec (.readMoraine full o n) s = .next (
    if 4096 < n.toNat then s.refuseCmd "ReadMoraine: length" else s.say "ReadMoraine" (s.moraineBytes full o.toNat n.toNat)) :=
  next_of_open hon s _

theorem exec_readShapeTable_of_ready (hmode : s.boot.mode = 1) (o : BitVec 26) (n : BitVec 16) :
    exec (.readShapeTable o n) s = .next (s.emit (.answer "ReadShapeTable" (s.shapeBytes o.toNat n.toNat))) :=
  (next_of_open hon s _).trans (congrArg _ (if_neg (not_not_intro hmode)))

theorem exec_readStepRecord_of_held {c : CtxIdx} {im : Sched} {k : BitVec 64} {ds : List (BitVec 272)} {s1 : State} {b : Bool}
    (hmode : s.boot.mode = 1) (him : (s.ctx c).image = some im) (hk : k ≠ 0) (hlo : k.toNat ≤ (s.ctx c).recordSeq.toNat)
    (hhi : (s.ctx c).recordSeq.toNat < k.toNat + 256)
    (hread : s.readBursts 8 ((List.range 32).map ((im.recordBase + 1024 * (k.toNat % 256)) / 32 + ·)) = (some ds, s1, b)) :
    exec (.readStepRecord c k) s = .next (s1.emit (.answer "ReadStepRecord" (ds.flatMap (fun d => leBytes 32 (payload d))))) := by
  have hnone : ¬ (k = 0 ∨ (s.ctx c).recordSeq.toNat < k.toNat ∨ k.toNat + 256 ≤ (s.ctx c).recordSeq.toNat) :=
    not_or.2 ⟨hk, not_or.2 ⟨Nat.not_lt.2 hlo, Nat.not_le.2 hhi⟩⟩
  refine (next_of_open hon s _).trans (congrArg _ ((if_neg (not_not_intro hmode)).trans ?_))
  dsimp only
  rw [him]
  dsimp only
  rw [if_neg hnone, hread]
  rfl

/-! ## Option bytes and clears (R285, R295, R302) -/

theorem exec_writeOptionBytes_of_valid {b : List Byte} (hok : optionCause b = 0) :
    let c := stampOptions b (if s.boot.optSource = 0 then 1 else s.boot.opts.generation + 1)
    exec (.writeOptionBytes b) s = .next (((if s.boot.optSource = 1 then { s with flash := { s.flash with optB := c } }
      else { s with flash := { s.flash with optA := c } }).emit (.answer "WriteOptionBytes" []))) :=
  (next_of_open hon s _).trans (congrArg _ (if_neg (not_not_intro hok)))

theorem exec_writeOptionBytes_of_invalid {b : List Byte} (hbad : optionCause b ≠ 0) :
    exec (.writeOptionBytes b) s = .next (s.emit (.refusedCommand "WriteOptionBytes: invalid copy")) :=
  (next_of_open hon s _).trans (congrArg _ (if_pos hbad))

theorem exec_managementClear_start (hmode : s.boot.mode ≠ 3) :
    exec (.managementClear 1) s = .next ((s.noteStart .clear).emit (.answer "ManagementClear" [])) := by
  have hstay : (if s.boot.mode = 3 then (s.noteStart .clear).raise 0x33 0 else s.noteStart .clear) = s.noteStart .clear := if_neg hmode
  exact (next_of_open hon s _).trans (congrArg (fun t : State => Host.Outcome.next (t.emit (.answer "ManagementClear" []))) hstay)

theorem exec_managementClear_log (hout : s.err.containState = 2) :
    exec (.managementClear 2) s = .next (({ s with
      flash := { s.flash with containLog := [] }, err := { s.err with containState := 0 } }).emit (.answer "ManagementClear" [])) := by
  have hzero : (if s.err.containState = 2 then 0 else s.err.containState) = 0 := if_pos hout
  exact (next_of_open hon s _).trans (congrArg (fun k => Host.Outcome.next (({ s with
    flash := { s.flash with containLog := [] }, err := { s.err with containState := k } }).emit (.answer "ManagementClear" []))) hzero)

theorem exec_managementClear_restore : exec (.managementClear 4) s =
    .next (({ s with crn := { s.crn with restoreHold := false } }).emit (.answer "ManagementClear" [])) :=
  next_of_open hon s _

/-! ## Keys (R335, R339, R340) -/

theorem exec_enrolKey_of_keyMode (hmode : s.keyMode = true) (slot signer : BitVec 2) (key sig : List Byte) (debug : Bool) :
    exec (.enrolKey slot key debug signer sig) s = .next (
      if !sigOk s.fuses.keys signer.toNat (s.authHash 0x06 ([slot.setWidth 8] ++ key ++ [BitVec.ofNat 8 (boolNat debug)])) sig then
        s.refuseCmd "ERROR_UNAUTHORISED"
      else if slot = 0 ∨ (nth {} s.fuses.keys slot.toNat).enrolled ∨ (nth {} s.fuses.keys slot.toNat).revoked then s.refuseCmd "EnrolKey: slot"
      else (s.setKey slot.toNat { key := key, enrolled := true, revoked := false, debug := debug }).say "EnrolKey" []) :=
  (next_of_open hon s _).trans (next_of_open hmode _ _)

theorem exec_revokeKey_of_keyMode (hmode : s.keyMode = true) (slot signer : BitVec 2) (sig : List Byte) :
    exec (.revokeKey slot signer sig) s = .next (
      if !sigOk s.fuses.keys signer.toNat (s.authHash 0x07 [slot.setWidth 8]) sig then s.refuseCmd "ERROR_UNAUTHORISED"
      else if slot = 0 then s.refuseCmd "RevokeKey: slot"
      else (s.setKey slot.toNat { nth {} s.fuses.keys slot.toNat with revoked := true }).say "RevokeKey" []) :=
  (next_of_open hon s _).trans (next_of_open hmode _ _)

/-! ## Firmware (R342 to R344) -/

theorem exec_commitSvn_of_ahead (hmode : s.boot.mode = 1) (hsrc : s.boot.fwSource ≠ 0) (hahead : s.fuses.svn.toNat < s.boot.runSvn.toNat) :
    exec .commitSvn s = .next
      ((({ s with fuses := { s.fuses with svn := s.boot.runSvn } }).raise 0x36 s.boot.runSvn.toNat).emit (.answer "CommitSVN" [])) := by
  refine (next_of_open hon s _).trans (congrArg _ (if_neg ?_))
  rw [hmode, beq_false_of_ne hsrc, decide_eq_false (Nat.not_le.2 hahead)]
  decide

theorem exec_requestUpdate_of_closed (hclosed : s.mgt.updating = false) :
    exec .requestUpdate s = .next (({ s with mgt := { s.mgt with updating := true } }).emit (.answer "RequestUpdate" [])) :=
  (next_of_open hon s _).trans (congrArg _ (if_neg (Bool.eq_false_iff.1 hclosed)))

theorem exec_activateFirmware_of_open (hopen : s.mgt.updating = true) : exec .activateFirmware s = .next
    (({ s with mgt := { s.mgt with updating := false, targetFw := none, targetWihorn := none } }).emit (.answer "RESET_L needed" [])) :=
  (next_of_open hon s _).trans (next_of_open hopen _ _)

theorem exec_componentWrite_of_open (hopen : s.mgt.updating = true) {bytes : List Byte} (hlen : bytes.length ≤ 2 ^ 24) (c : Component) :
    exec (.componentWrite c bytes) s = .next ((match c with
      | .firmware => { s with mgt := { s.mgt with targetFw := some (s.targetB c) } }
      | .wihorn => { s with mgt := { s.mgt with targetWihorn := some (s.targetB c) } }).writeSlot c (s.targetB c) bytes) := by
  refine (next_of_open hon s _).trans ((next_of_open hopen _ _).trans (congrArg _ ((if_neg (Nat.not_lt.2 hlen)).trans ?_)))
  cases c <;> rfl

theorem exec_verifyComplete_of_wihorn {b : Bool} (htarget : s.mgt.targetWihorn = some b) : exec (.verifyComplete .wihorn) s = .next (
    if s.componentOk .wihorn (s.slotBytes .wihorn b) then s.emit (.answer "VERIFY_SUCCESS" [])
    else (s.writeSlot .wihorn b []).emit (.answer "VERIFY_FAILED" [])) := by
  refine (next_of_open hon s _).trans ?_
  dsimp only
  rw [htarget]
  dsimp only
  rw [if_neg (show ¬ (s.boot.mode = 3 ∧ Component.wihorn = Component.firmware) from fun h => by cases h.2)]
  rfl

end

end Sys2Proof.Machine

open Sys2Proof Sys2Proof.Machine

/-- Settles O51: each read past the test that the targets respond, the events by the queue. -/
theorem managementReadsComplete : Obligations.ManagementReadsComplete := by
  intro s hon
  refine ⟨fun k a => next_of_open hon s _, fun a => ⟨next_of_open hon s _, next_of_open hon s _⟩, fun e => next_of_open hon s _,
    next_of_open hon s _, congrArg _ (if_pos hon), next_of_open hon s _, fun d => next_of_open hon s _, fun e => congrArg _ (if_pos hon),
    fun hq => ⟨exec_poll_of_empty hon hq, exec_eventAcknowledge_of_empty hon hq⟩,
    fun e q hq => ⟨exec_poll_of_cons hon hq, ?_, fun n hn => ?_⟩, fun full o n => ⟨fun hle => ?_, fun hlt => ?_⟩,
    fun o n hmode => exec_readShapeTable_of_ready hon hmode o n,
    fun c im k ds s1 b hmode him hk hlo hhi => exec_readStepRecord_of_held hon hmode him hk hlo hhi⟩
  · exact (exec_eventAcknowledge_of_cons hon hq e.seq).trans (congrArg _ (if_pos rfl))
  · exact (exec_eventAcknowledge_of_cons hon hq n).trans (congrArg _ (if_neg hn.symm))
  · exact (exec_readMoraine_of_on hon full o n).trans (congrArg _ (if_neg (Nat.not_lt.2 hle)))
  · exact (exec_readMoraine_of_on hon full o n).trans (congrArg _ (if_pos hlt))

/-- Settles O52: each command past the tests of mode and authority. -/
theorem storedStateCommandsComplete : Obligations.StoredStateCommandsComplete := by
  intro s hon
  refine ⟨fun b hok => ⟨fun hsel => ?_, fun hsel => ?_⟩, fun b => exec_writeOptionBytes_of_invalid hon, exec_managementClear_start hon,
    exec_managementClear_log hon, exec_managementClear_restore hon,
    fun slot signer key sig debug hmode => ⟨fun hbad => ?_, fun hok hslot hnew hlive => ?_⟩,
    fun slot signer sig hmode => ⟨fun hbad => ?_, fun hok hslot => ?_⟩, exec_commitSvn_of_ahead hon, exec_requestUpdate_of_closed hon,
    fun bytes hopen hlen => ⟨exec_componentWrite_of_open hon hopen hlen .firmware, exec_componentWrite_of_open hon hopen hlen .wihorn⟩,
    fun b htarget => ⟨fun hok => ?_, fun hbad => ?_⟩, exec_activateFirmware_of_open hon⟩
  · exact (exec_writeOptionBytes_of_valid hon hok).trans (congrArg (fun t : State => Host.Outcome.next (t.emit _)) (if_pos hsel))
  · exact (exec_writeOptionBytes_of_valid hon hok).trans (congrArg (fun t : State => Host.Outcome.next (t.emit _)) (if_neg hsel))
  · exact (exec_enrolKey_of_keyMode hon hmode slot signer key sig debug).trans (congrArg _ (if_pos (by rw [hbad]; rfl)))
  · refine (exec_enrolKey_of_keyMode hon hmode slot signer key sig debug).trans (congrArg _ ((if_neg (by rw [hok]; decide)).trans (if_neg ?_)))
    exact not_or.2 ⟨hslot, not_or.2 ⟨Bool.eq_false_iff.1 hnew, Bool.eq_false_iff.1 hlive⟩⟩
  · exact (exec_revokeKey_of_keyMode hon hmode slot signer sig).trans (congrArg _ (if_pos (by rw [hbad]; rfl)))
  · exact (exec_revokeKey_of_keyMode hon hmode slot signer sig).trans
      (congrArg _ ((if_neg (by rw [hok]; decide)).trans (if_neg hslot)))
  · exact (exec_verifyComplete_of_wihorn hon htarget).trans (congrArg _ (if_pos hok))
  · exact (exec_verifyComplete_of_wihorn hon htarget).trans (congrArg _ (if_neg (Bool.eq_false_iff.1 hbad)))

end

section
/-! O53 and O54: sessions and the test access port. Each command is what its definition says past the tests that its
hypotheses meet; the opening of debug forgets keys, stores and sessions. -/

namespace Sys2Proof.Machine
open Sys2Proof

/-! ## Sessions (R310, R345 to R347) -/

section
variable {s : State} (hon : s.mgmtOn = true)
include hon

theorem exec_negotiate_of_capable (hcap : s.sec.capabilities = true) (falcon shake : Bool) :
    exec (.negotiateAlgorithms falcon shake) s = .next (
      if falcon && shake then ({ s with sec := { s.sec with negotiated := true } }).emit (.answer "Falcon-1024 SHAKE256 secp384r1 AES-256-GCM" [])
      else s.emit (.refusedCommand "SPDM negotiation")) := by
  refine (next_of_open hon s _).trans ?_
  rw [hcap]
  cases falcon <;> cases shake <;> rfl

section
variable (hneg : s.sec.negotiated = true)
include hneg

theorem exec_getCertificate_of_negotiated : exec (.getCertificate 0) s = .next (s.emit (.answer "CERTIFICATE" Config.certificateChain)) :=
  (next_of_open hon s _).trans (congrArg _ (if_neg (by rw [hneg]; decide)))

theorem exec_challenge_of_negotiated (nonce : BitVec 256) :
    exec (.challenge 0 nonce) s = .next (s.signed "CHALLENGE_AUTH" (leBytes 32 nonce) []) :=
  (next_of_open hon s _).trans (congrArg _ (if_neg (by rw [hneg]; decide)))

theorem exec_getMeasurements_of_negotiated (nonce : BitVec 256) :
    exec (.getMeasurements nonce) s = .next (s.signed "MEASUREMENTS" (leBytes 32 nonce) s.measurements.flatten) :=
  (next_of_open hon s _).trans (next_of_open hneg _ _)

theorem exec_keyExchange_of_negotiated (pub : List Byte) :
    exec (.keyExchange pub) s = .next (({ s with sec := { s.sec with
      sessions := { id := s.sec.nextSession } :: s.sec.sessions.filter (fun (e : Session) => e.id != s.sec.nextSession),
      nextSession := s.sec.nextSession + 1 } }).signed "KEY_EXCHANGE_RSP" pub (leBytes 2 s.sec.nextSession)) :=
  (next_of_open hon s _).trans (next_of_open hneg _ _)

end

theorem exec_finish_of_verified {id : BitVec 16} (hshake : s.sec.sessions.any (fun (e : Session) => e.id == id && !e.up) = true) :
    exec (.finish id true) s = .next (({ s with sec := { s.sec with sessions := s.sec.sessions.map (fun (e : Session) =>
      if e.id = id then { e with up := true } else e) } }).emit (.answer "FINISH_RSP" [])) :=
  (next_of_open hon s _).trans (next_of_open hshake _ _)

section
variable {id : BitVec 16} (hses : s.session id = true)
include hses

theorem exec_heartbeatSpdm_of_session : exec (.heartbeatSpdm id) s = .next (s.emit (.answer "HEARTBEAT_ACK" [])) :=
  (next_of_open hon s _).trans (congrArg _ (if_pos hses))

theorem exec_keyUpdate_of_session : exec (.keyUpdate id) s = .next (({ s with sec := { s.sec with
    sessions := s.sec.sessions.map (fun (e : Session) => if e.id = id then { e with generation := e.generation + 1 } else e) } }).emit
      (.answer "KEY_UPDATE_ACK" [])) :=
  (next_of_open hon s _).trans (next_of_open hses _ _)

theorem exec_endSession_of_session : exec (.endSession id) s = .next (({ s with sec := { s.sec with
    sessions := s.sec.sessions.filter (fun (e : Session) => e.id != id) } }).emit (.answer "END_SESSION_ACK" [])) :=
  (next_of_open hon s _).trans (next_of_open hses _ _)

theorem exec_contextKeyRequest_of_idle {c : CtxIdx} (k : Option (BitVec 256))
    (hst : (s.ctx c).state = 1 ∨ (s.ctx c).state = 2 ∨ (s.ctx c).state = 5) (hop : (s.ctx c).op = .none) :
    exec (.contextKeyRequest (some id) c k) s = .next ((s.setCtx c { s.ctx c with key := k }).emit (.answer "context key" [])) := by
  refine (next_of_open hon s _).trans (congrArg _ (if_pos ?_))
  rw [show s.inSession (some id) = true from hses, hop]
  rcases hst with h | h | h <;> rw [h] <;> rfl

theorem exec_cxlIdeKm_keyProg_of_session (st : BitVec 8) (k : BitVec 256) :
    exec (.cxlIdeKm (some id) (.keyProg st k)) s = .next (({ s with host := { s.host with
      ideKeys := (st.toNat, k) :: s.host.ideKeys.filter (fun e => e.1 != st.toNat) } }).emit (.answer "KP_ACK" [])) :=
  (next_of_open hon s _).trans (next_of_open (c := s.inSession (some id)) hses _ _)

end

end

/-! ## The test access port (R338, R348) -/

section
variable {s : State} (htap : s.tapOn = true)
include htap

theorem exec_extest_of_closed (hclosed : s.sec.debugOpen = false) (pin : FusePin) (code : BitVec 3) :
    exec (.extest pin code) s = .next (s.emit (.refusedCommand "EXTEST")) :=
  (next_of_open htap s _).trans (congrArg _ (if_pos (by rw [hclosed]; rfl)))

theorem exec_extest_of_open (hopen : s.sec.debugOpen = true) {pin : FusePin} {code : BitVec 3} (hcode : code.toNat ≤ 4)
    (hmask : (nth 0 s.fuses.pinMask (pinNumber pin)).getLsbD code.toNat = true) :
    exec (.extest pin code) s = .next { s with pwr := { s.pwr with
      extest := true, extestPins := (pinNumber pin, code) :: s.pwr.extestPins.filter (fun e => e.1 != pinNumber pin) } } :=
  (next_of_open htap s _).trans ((next_of_open hopen _ _).trans (congrArg _ (if_pos ⟨hcode, hmask⟩)))

/-! ## Debug (R183, R348, R349) -/

theorem exec_debugAccess_of_closed (hclosed : s.sec.debugOpen = false) (g : DebugTarget) :
    exec (.debugAccess g) s = .next (s.emit (.refusedCommand "debug closed")) :=
  (if_neg (by rw [htap]; decide)).trans (if_pos (by rw [hclosed]; rfl))

section
variable (hopen : s.sec.debugOpen = true)
include hopen

theorem exec_debugAccess_keyStore : exec (.debugAccess .keyStore) s = .next (s.endExtest.emit (.refusedCommand "unreachable")) :=
  (if_neg (by rw [htap]; decide)).trans (if_neg (by rw [hopen]; decide))

theorem exec_debugAccess_fuseEngine : exec (.debugAccess .fuseEngine) s =
    .next (({ s.endExtest with mgt := { s.endExtest.mgt with blockedFuse := satInc s.endExtest.mgt.blockedFuse } }.raiseBlocked).emit
      (.refusedCommand "unreachable")) :=
  (if_neg (by rw [htap]; decide)).trans (if_neg (by rw [hopen]; decide))

theorem exec_debugAccess_memWrite {a : BitVec 36} (ha : a.toNat < memTop / 32) (d : BitVec 272) :
    exec (.debugAccess (.memWrite a d)) s =
      if s.endExtest.inReserved (32 * a.toNat) 32 then .next (s.endExtest.emit (.refusedCommand "reserved region"))
      else .next (s.endExtest.writeBurst a.toNat d) :=
  (if_neg (by rw [htap]; decide)).trans ((if_neg (by rw [hopen]; decide)).trans (if_neg (Nat.not_le.2 ha)))

theorem exec_debugAccess_memRead {a : BitVec 36} (ha : a.toNat < memTop / 32) {d : BitVec 272} {u : State}
    (hread : s.endExtest.moduleRead a.toNat 8 = (.clean d, u)) :
    exec (.debugAccess (.memRead a)) s = .next (u.emit (.answer "memory" (leBytes 34 d))) := by
  refine (if_neg (by rw [htap]; decide)).trans ((if_neg (by rw [hopen]; decide)).trans ((if_neg (Nat.not_le.2 ha)).trans ?_))
  rw [hread]
  rfl

end

end

/-- The signature and the key that open debug for a challenge. -/
def debugToken (s : State) (slot : BitVec 2) (sig : List Byte) (ch : BitVec 128) : Bool :=
  let k := nth {} s.fuses.keys slot.toNat
  k.enrolled && k.debug && !k.revoked && Config.falconVerify k.key (Config.shake256 (leBytes 8 s.fuses.serial ++ leBytes 16 ch)) sig

section
variable {s : State} (hpow : s.powered = true) {slot : BitVec 2} {sig : List Byte} {ch : BitVec 128} (hch : s.sec.challenge = some ch)
include hpow hch

theorem exec_debugOpening_of_challenge : exec (.debugOpening slot sig) s = .next (
    if !debugToken s slot sig ch then s.endExtest.emit (.refusedCommand "BAD_TOKEN")
    else if s.err.containState != 0 || allCtx.any (fun c => (s.ctx c).state == 3 || (s.ctx c).state == 4 || (s.ctx c).state == 6) then
      s.endExtest.emit (.refusedCommand "BUSY")
    else s.endExtest.openDebug) := by
  refine (next_of_open hpow s _).trans ?_
  dsimp only
  rw [show s.endExtest.sec.challenge = some ch from hch]
  rfl

/-- Debug opens for a good token in a module that runs nothing. -/
theorem exec_debugOpening_of_idle (hok : debugToken s slot sig ch = true) (hfree : s.err.containState = 0)
    (hidle : ∀ c, (s.ctx c).state ≠ 3 ∧ (s.ctx c).state ≠ 4 ∧ (s.ctx c).state ≠ 6) :
    exec (.debugOpening slot sig) s = .next s.endExtest.openDebug := by
  have hnone : allCtx.any (fun c => (s.ctx c).state == 3 || (s.ctx c).state == 4 || (s.ctx c).state == 6) = false :=
    List.any_eq_false.2 fun c _ => by
      obtain ⟨h3, h4, h6⟩ := hidle c
      rw [beq_false_of_ne h3, beq_false_of_ne h4, beq_false_of_ne h6]
      decide
  refine (exec_debugOpening_of_challenge hpow hch).trans (congrArg _ ((if_neg (by rw [hok]; decide)).trans (if_neg ?_)))
  rw [hfree, hnone]
  decide

end

/-- Forgetting the keys of a list of contexts leaves none of them a key, and gives no other one. -/
theorem key_foldl_forget (c : CtxIdx) : ∀ (l : List CtxIdx) (s : State), c ∈ l ∨ (s.ctx c).key = none →
    ((l.foldl (fun s c => s.setCtx c { s.ctx c with key := none }) s).ctx c).key = none
  | [], _, h => h.resolve_left List.not_mem_nil
  | d :: l, s, h => by
    rw [List.foldl_cons]
    refine key_foldl_forget c l _ ?_
    by_cases hd : c = d
    · rw [hd, State.setCtx_ctx_self]
      exact .inr rfl
    · rw [State.setCtx_ctx_ne _ _ _ _ hd]
      exact h.imp_left fun hm => (List.mem_cons.1 hm).resolve_left hd

/-- Changes of tors leave the contexts. -/
theorem foldl_setTor_ctxs {α : Type} (t : α → TorIdx) (f : State → α → Tor) : ∀ (l : List α) (s : State),
    (l.foldl (fun s a => s.setTor (t a) (f s a)) s).ctxs = s.ctxs
  | [], _ => rfl
  | a :: l, s => (foldl_setTor_ctxs t f l (s.setTor (t a) (f s a))).trans rfl

theorem State.sendHead_host (s : State) : s.sendHead.host = s.host := by
  unfold State.sendHead
  split
  · split <;> rfl
  · rfl

/-- An event changes nothing of the host port but its error record. -/
theorem State.raise_host (s : State) (code detail : Nat) : ∃ b, (s.raise code detail).host = { s.host with rasUncorrectable := b } := by
  have hqueued (m : Mgmt) (h : HostPort) (fresh serious : Bool) : (
      let s1 : State := { s with mgt := m, host := h }
      let s2 := if fresh then s1.sendHead else s1
      if serious then s2.emit (.msix 8) else s2).host = h := by
    cases fresh <;> cases serious
    · rfl
    · rfl
    · exact State.sendHead_host _
    · exact State.sendHead_host _
  exact ⟨_, hqueued _ _ _ _⟩

/-- Table 16-8: the contexts without their keys. -/
def State.forgetKeys (s : State) : State := allCtx.foldl (fun (s : State) c => s.setCtx c { s.ctx c with key := none }) s

/-- Table 16-8: the tors with their stores empty. -/
def State.forgetStores (s : State) : State :=
  s.tors.foldl (fun (s : State) e => s.setTor (BitVec.ofNat 13 e.1) { s.tor (BitVec.ofNat 13 e.1) with store := [] }) s

theorem State.forgetKeys_key (s : State) (c : CtxIdx) : (s.forgetKeys.ctx c).key = none := key_foldl_forget c allCtx s (.inl (mem_allCtx c))

theorem State.forgetStores_ctx (s : State) (c : CtxIdx) : s.forgetStores.ctx c = s.ctx c := by
  have hctxs : s.forgetStores.ctxs = s.ctxs := foldl_setTor_ctxs (α := Nat × Tor) (fun e => BitVec.ofNat 13 e.1)
    (fun s e => { s.tor (BitVec.ofNat 13 e.1) with store := [] }) s.tors s
  rw [State.ctx, hctxs, State.ctx]

/-- The opening of debug forgets keys and sessions, and burns DEBUG_OPENED. -/
theorem State.openDebug_spec (s : State) : s.openDebug.fuses.debugOpened = true ∧ s.openDebug.sec.debugOpen = true ∧
    s.openDebug.sec.sessions = [] ∧ s.openDebug.host.ideKeys = [] ∧ ∀ c, (s.openDebug.ctx c).key = none := by
  let v := s.forgetKeys.forgetStores
  let w : State := { v with
    host := { v.host with ideKeys := [], ideOn := [] }, fuses := { v.fuses with debugOpened := true },
    sec := { v.sec with sessions := [], debugOpen := true } }
  have hopen : s.openDebug = w.raise 0x34 0 := rfl
  have hsent : Sent w (w.raise 0x34 0) := w.raise_sent 0x34 0
  obtain ⟨b, hhost⟩ := w.raise_host 0x34 0
  have hctx (c : CtxIdx) : (w.raise 0x34 0).ctx c = v.ctx c := by rw [hsent]; rfl
  rw [hopen]
  refine ⟨by rw [hsent], by rw [hsent], by rw [hsent], by rw [hhost], fun c => ?_⟩
  rw [hctx, State.forgetStores_ctx, State.forgetKeys_key]

end Sys2Proof.Machine

open Sys2Proof Sys2Proof.Machine

/-- Settles O53: each command past the tests that the targets respond and that the connection stands. -/
theorem sessionsComplete : Obligations.SessionsComplete := by
  intro s hon
  exact ⟨next_of_open hon s _, fun hver => (next_of_open hon s _).trans (next_of_open hver _ _),
    fun hcap => ⟨exec_negotiate_of_capable hon hcap true true, exec_negotiate_of_capable hon hcap false true,
      exec_negotiate_of_capable hon hcap true false⟩,
    fun hneg => ⟨exec_getCertificate_of_negotiated hon hneg, exec_challenge_of_negotiated hon hneg,
      exec_getMeasurements_of_negotiated hon hneg, exec_keyExchange_of_negotiated hon hneg⟩,
    fun id => exec_finish_of_verified hon,
    fun id hses => ⟨exec_heartbeatSpdm_of_session hon hses, exec_keyUpdate_of_session hon hses, exec_endSession_of_session hon hses,
      fun c k => exec_contextKeyRequest_of_idle hon hses k, fun st k => exec_cxlIdeKm_keyProg_of_session hon hses st k⟩,
    fun c k op => ⟨next_of_open hon s _, next_of_open hon s _⟩⟩

/-- Settles O54: each instruction of the port, the token that opens debug, and what open debug reaches. -/
theorem testAccessCompletes : Obligations.TestAccessCompletes := by
  intro s htap hpow t
  refine ⟨congrArg _ (if_pos htap), congrArg _ (if_pos htap), fun b => next_of_open htap s _,
    fun pin code => ⟨fun hclosed => exec_extest_of_closed htap hclosed pin code, fun hopen => exec_extest_of_open htap hopen⟩,
    next_of_open hpow s _, fun slot sig ch hch => ⟨fun hbad => ?_, fun hok hfree hidle =>
      ⟨exec_debugOpening_of_idle hpow hch hok hfree hidle, t.openDebug_spec⟩⟩, exec_debugAccess_of_closed htap,
    fun hopen => ⟨exec_debugAccess_keyStore htap hopen, exec_debugAccess_fuseEngine htap hopen,
      fun a d ha => ⟨fun hfree => (exec_debugAccess_memWrite htap hopen ha d).trans (if_neg (Bool.eq_false_iff.1 hfree)),
        fun hres => (exec_debugAccess_memWrite htap hopen ha d).trans (if_pos hres)⟩,
      fun a d s1 ha hread => exec_debugAccess_memRead htap hopen ha hread⟩⟩
  exact (exec_debugOpening_of_challenge hpow hch).trans (congrArg _ (if_pos (by rw [show debugToken s slot sig ch = false from hbad]; rfl)))

end
